-- ==== Sys2Proof/Word.lean ====
section
/-!
DEFINITION. The word types of the J9 (R4, R12).
-/

namespace Sys2Proof

/-- One byte of memory. -/
abbrev Byte := BitVec 8

/-- A 32-bit vector-register value. -/
abbrev W32 := BitVec 32

/-- A 64-bit uniform-register value, address or lane mask. -/
abbrev W64 := BitVec 64

/-- A list of key and value pairs whose unlisted keys read as zero; its one canonical form has strictly rising keys and no zero value. -/
abbrev Sparse (w : Nat) := List (Nat × BitVec w)

end Sys2Proof
end

