-- ==== Sys2Proof/Syntax.lean ====
section
/-!
DEFINITION. The instruction words of the J9 and the steps of its agents: one constructor of `Instr` for each row of the opcode table.
-/

namespace Sys2Proof

/-- R33, Table 2.1: the fields of a 16-bit word. -/
structure C16 where
  b : BitVec 5
  d : BitVec 5
  s : BitVec 1
deriving DecidableEq, Repr

/-- R34, Table 2.3: the fields of a 32-bit word; `b` is also imm7. -/
structure B32 where
  b : BitVec 7
  a : BitVec 7
  d : BitVec 7
  stall : BitVec 3
deriving DecidableEq, Repr

/-- R35, Table 2.5: the fields of an A64 word; `rc` is also the modifier field m (R44). The A64-E form keeps these places (R40). -/
structure A64 where
  rc : BitVec 7
  pb : BitVec 8
  rb : BitVec 7
  pa : BitVec 8
  ra : BitVec 7
  rd : BitVec 7
  guard : BitVec 4
  stall : BitVec 3
deriving DecidableEq, Repr

/-- R37: the fields of an A64-I word. -/
structure AI where
  imm : BitVec 32
  rd : BitVec 7
  guard : BitVec 4
  stall : BitVec 3
deriving DecidableEq, Repr

/-- R38, Table 2.6: the fields of an A64-M word; `mode` and `code` are op `[5:4]` and op `[3:0]`. -/
structure AM where
  mode : BitVec 2
  code : BitVec 4
  off : BitVec 18
  scope : BitVec 3
  rtype : BitVec 2
  scale : BitVec 2
  vindex : BitVec 7
  sbase : BitVec 5
  rd : BitVec 7
  guard : BitVec 4
  stall : BitVec 3
deriving DecidableEq, Repr

/-- R39: the fields of an A64-MT word; `code` is op `[3:0]`. -/
structure AMT where
  code : BitVec 4
  off : BitVec 12
  ety : BitVec 4
  mode : BitVec 2
  scope : BitVec 3
  rtype : BitVec 2
  scale : BitVec 2
  vindex : BitVec 7
  sbase : BitVec 5
  rd : BitVec 7
  guard : BitVec 4
  stall : BitVec 3
deriving DecidableEq, Repr

/-- What the step of a request does: perform it, take the data of an older pending read (R235), or combine an older pending reduction into it (R244). -/
inductive ReqAction where
  | perform
  | mergeRead (u r l : Nat)
  | combine (u r l : Nat)
deriving DecidableEq, Repr

/-- R395, Table 21.12: the structure in which a storage error is found, and whether it can be corrected. -/
inductive ErrorSite where
  | corrected
  | register (u : Nat)
  | tile (t : Nat)
  | sram (cluster addr : Nat)
  | l1 (core asid line word : Nat)
  | l2 (asid line word : Nat)
  | sliceState
  | tower (sector : Nat)
deriving DecidableEq, Repr

/-- R409, Table 23.3: a flit, header fields, 52 bytes of payload and CRC-32. -/
structure Flit where
  seq : BitVec 12
  ack : BitVec 12
  cls : BitVec 3
  kind : BitVec 4
  grant : BitVec 7
  first : BitVec 1
  last : BitVec 1
  zero : BitVec 24
  payload : List (BitVec 8)
  crc : BitVec 32
deriving DecidableEq, Repr

/-- R405, R406, R414: a request of one device to another: kind 0 load, 1 store, 2 atomic and 5 reduction with an operation and a type of Table 13.2, 3 a message for the ring whose header stands at `pa`, 4 an advance of the timeline counter there, by the low 63 bits of `data`, with bit 63 to set its poison bit (R238, R349). `unc` says that a load or store is to be performed as `.unc`. -/
structure RemoteReq where
  dev : Nat
  pa : Nat
  kind : Nat
  size : Nat
  op : Nat
  ety : Nat
  data : BitVec 128
  data2 : BitVec 64
  floor : Nat
  message : List (BitVec 8) := []
  unc : Bool := false
deriving DecidableEq, Repr

/-- R402, R409: a time-sync flit, and the offset from the master that its exchange shows firmware. -/
structure SyncFlit where
  flit : Flit
  offset : Int
deriving DecidableEq, Repr

/-- R207, R428: a tower key and the slot that it goes to. -/
structure KeySlot where
  slot : Nat
  key : BitVec 512
deriving DecidableEq, Repr

/-- R429: a link policy the host signs: for each ASID the reachable device ids, and the master of the time domain. -/
structure LinkPolicy where
  signed : Bool
  allow : List (Nat × List Nat)
  master : Nat
deriving DecidableEq, Repr

/-- R426: a firmware image: whether each signature verifies, its version, and its measurement. -/
structure Firmware where
  rsaOk : Bool
  slhOk : Bool
  version : Nat
  measure : BitVec 384
deriving DecidableEq, Repr

/-- R427: a configuration record: whether each signature verifies, and what it supplies. -/
structure ConfigRecord where
  rsaOk : Bool
  slhOk : Bool
  capMap : BitVec 16
  spares : List Nat
  retired : List Nat
  minVersion : Nat
  measure : BitVec 384
deriving DecidableEq, Repr

/-- Every row of the opcode table: instruction words first, then the steps of the part's agents. The operands of a step name the pending item it acts on, or carry what the outside world supplies. -/
inductive Instr where
  /-- R91. Short two-address copy of a vector register into rd, the short form of A64 3:0x03. -/
  | movB32C16 (w : C16)
  /-- R79. Short two-address 32-bit add rd := rd + rb. -/
  | addS32C16 (w : C16)
  /-- R79. Short two-address 32-bit subtract rd := rd - rb. -/
  | subS32C16 (w : C16)
  /-- R84. Short two-address bitwise AND. -/
  | andB32C16 (w : C16)
  /-- R84. Short two-address bitwise OR. -/
  | orB32C16 (w : C16)
  /-- R84. Short two-address bitwise XOR. -/
  | xorB32C16 (w : C16)
  /-- R84. Short two-address left shift by rb[4:0]. -/
  | shlB32C16 (w : C16)
  /-- R84. Short two-address logical right shift. -/
  | shrB32C16 (w : C16)
  /-- R84. Short two-address arithmetic right shift. -/
  | sarB32C16 (w : C16)
  /-- R79. Short two-address signed minimum. -/
  | minS32C16 (w : C16)
  /-- R79. Short two-address signed maximum. -/
  | maxS32C16 (w : C16)
  /-- R94. Short two-address binary32 add rounded by frm. -/
  | faddF32C16 (w : C16)
  /-- R94. Short two-address binary32 subtract rounded by frm. -/
  | fsubF32C16 (w : C16)
  /-- R94. Short two-address binary32 multiply rounded by frm. -/
  | fmulF32C16 (w : C16)
  /-- R95. Short two-address binary32 minimumNumber. -/
  | fminF32C16 (w : C16)
  /-- R95. Short two-address binary32 maximumNumber. -/
  | fmaxF32C16 (w : C16)
  /-- R79. B32 32-bit add of two registers. -/
  | addS32B32 (w : B32)
  /-- R79. B32 32-bit add of a register and a signed 7-bit immediate. -/
  | addS32ImmB32 (w : B32)
  /-- R79. B32 32-bit subtract of two registers. -/
  | subS32B32 (w : B32)
  /-- R79. B32 32-bit subtract of a signed 7-bit immediate. -/
  | subS32ImmB32 (w : B32)
  /-- R79. B32 signed minimum. -/
  | minS32B32 (w : B32)
  /-- R79. B32 signed maximum. -/
  | maxS32B32 (w : B32)
  /-- R79. B32 unsigned minimum. -/
  | minN32B32 (w : B32)
  /-- R79. B32 unsigned maximum. -/
  | maxN32B32 (w : B32)
  /-- R79. B32 absolute value modulo 2^32. -/
  | absS32B32 (w : B32)
  /-- R79. B32 saturating signed add. -/
  | addSatS32B32 (w : B32)
  /-- R81. B32 low 32 bits of a product. -/
  | mulLoS32B32 (w : B32)
  /-- R81. B32 high 32 bits of an unsigned product. -/
  | mulHiN32B32 (w : B32)
  /-- R81. B32 multiply-add with rd as accumulator. -/
  | madLoS32B32 (w : B32)
  /-- R83. B32 four signed byte products added to rd. -/
  | dp4S8B32 (w : B32)
  /-- R84. B32 bitwise AND of two registers. -/
  | andB32B32 (w : B32)
  /-- R84. B32 bitwise OR of two registers. -/
  | orB32B32 (w : B32)
  /-- R84. B32 bitwise XOR. -/
  | xorB32B32 (w : B32)
  /-- R84. B32 a AND NOT b. -/
  | andnB32B32 (w : B32)
  /-- R84. B32 AND with a sign-extended 7-bit immediate. -/
  | andB32ImmB32 (w : B32)
  /-- R84. B32 OR with a sign-extended 7-bit immediate. -/
  | orB32ImmB32 (w : B32)
  /-- R84. B32 bitwise NOT. -/
  | notB32B32 (w : B32)
  /-- R84. B32 left shift by a register amount. -/
  | shlB32B32 (w : B32)
  /-- R84. B32 logical right shift by a register amount. -/
  | shrB32B32 (w : B32)
  /-- R84. B32 arithmetic right shift by a register amount. -/
  | sarB32B32 (w : B32)
  /-- R84. B32 left shift by an immediate amount. -/
  | shlB32ImmB32 (w : B32)
  /-- R84. B32 logical right shift by an immediate amount. -/
  | shrB32ImmB32 (w : B32)
  /-- R84. B32 arithmetic right shift by an immediate amount. -/
  | sarB32ImmB32 (w : B32)
  /-- R87. B32 population count. -/
  | popcB32B32 (w : B32)
  /-- R87. B32 count of set bits below bit n. -/
  | popcLoB32B32 (w : B32)
  /-- R87. B32 count of leading zeros. -/
  | clzB32B32 (w : B32)
  /-- R88. B32 30-bit Morton key with z taken from rd. -/
  | hcellB32 (w : B32)
  /-- R91. B32 register copy. -/
  | movB32B32 (w : B32)
  /-- R89. B32 equality compare into a predicate. -/
  | cmpEqS32B32 (w : B32)
  /-- R89. B32 signed less-than compare into a predicate. -/
  | cmpLtS32B32 (w : B32)
  /-- R89. B32 unsigned less-than compare into a predicate. -/
  | cmpLtN32B32 (w : B32)
  /-- R89. B32 signed greater-or-equal compare into a predicate. -/
  | cmpGeS32B32 (w : B32)
  /-- R90. B32 binary32 less-than compare into a predicate. -/
  | fcmpLtF32B32 (w : B32)
  /-- R90. B32 binary32 greater-or-equal compare into a predicate. -/
  | fcmpGeF32B32 (w : B32)
  /-- R94. B32 binary32 add rounded by frm. -/
  | faddF32B32 (w : B32)
  /-- R94. B32 binary32 subtract rounded by frm. -/
  | fsubF32B32 (w : B32)
  /-- R94. B32 binary32 multiply rounded by frm. -/
  | fmulF32B32 (w : B32)
  /-- R94. B32 binary32 fused multiply-add with rd as addend. -/
  | ffmaF32B32 (w : B32)
  /-- R95. B32 binary32 minimumNumber. -/
  | fminF32B32 (w : B32)
  /-- R95. B32 binary32 maximumNumber. -/
  | fmaxF32B32 (w : B32)
  /-- R96. B32 clear the sign bit. -/
  | fabsF32B32 (w : B32)
  /-- R96. B32 invert the sign bit. -/
  | fnegF32B32 (w : B32)
  /-- R93. B32 packed binary16 add. -/
  | faddF16x2B32 (w : B32)
  /-- R93. B32 packed binary16 multiply. -/
  | fmulF16x2B32 (w : B32)
  /-- R93. B32 packed binary16 fused multiply-add into rd. -/
  | ffmaF16x2B32 (w : B32)
  /-- R93. B32 packed bfloat16 add. -/
  | faddBf16x2B32 (w : B32)
  /-- R93. B32 packed bfloat16 multiply. -/
  | fmulBf16x2B32 (w : B32)
  /-- R93. B32 packed bfloat16 fused multiply-add into rd. -/
  | ffmaBf16x2B32 (w : B32)
  /-- R94. B32 binary64 add on register pairs. -/
  | faddF64B32 (w : B32)
  /-- R94. B32 binary64 multiply on register pairs. -/
  | fmulF64B32 (w : B32)
  /-- R94. B32 binary64 fused multiply-add into rd pair. -/
  | ffmaF64B32 (w : B32)
  /-- R100. B32 conversion of .s32 to binary32 rounded by frm. -/
  | cvtF32S32B32 (w : B32)
  /-- R100. B32 conversion of binary32 to .s32 toward zero. -/
  | cvtRzS32F32B32 (w : B32)
  /-- R98. B32 reciprocal. -/
  | frcpF32B32 (w : B32)
  /-- R98. B32 reciprocal square root. -/
  | frsqF32B32 (w : B32)
  /-- R98. B32 base-2 exponential. -/
  | fexp2F32B32 (w : B32)
  /-- R98. B32 base-2 logarithm. -/
  | flog2F32B32 (w : B32)
  /-- R164. B32 scalar-pipe add of two uniform registers. -/
  | sAddB32 (w : B32)
  /-- R164. B32 scalar-pipe add of a uniform register and an immediate. -/
  | sAddImmB32 (w : B32)
  /-- R164. B32 scalar-pipe uniform register copy. -/
  | sMovB32 (w : B32)
  /-- R79. A64 32-bit wrapping add. -/
  | add (w : A64)
  /-- R79. A64 32-bit wrapping subtract. -/
  | sub (w : A64)
  /-- R80. Add with carry-in and carry-out predicates. -/
  | addc (w : A64)
  /-- R80. Subtract with borrow-in and borrow-out predicates. -/
  | subb (w : A64)
  /-- R79. Saturating signed add. -/
  | addSatS32 (w : A64)
  /-- R79. Saturating unsigned add. -/
  | addSatN32 (w : A64)
  /-- R79. Saturating signed subtract. -/
  | subSatS32 (w : A64)
  /-- R79. Saturating unsigned subtract. -/
  | subSatN32 (w : A64)
  /-- R79. Signed 32-bit minimum. -/
  | minS32 (w : A64)
  /-- R79. Unsigned 32-bit minimum. -/
  | minN32 (w : A64)
  /-- R79. Signed 32-bit maximum. -/
  | maxS32 (w : A64)
  /-- R79. Unsigned 32-bit maximum. -/
  | maxN32 (w : A64)
  /-- R79. Absolute value modulo 2^32. -/
  | absS32 (w : A64)
  /-- R79. Negation modulo 2^32. -/
  | negS32 (w : A64)
  /-- R79. 64-bit wrapping add on register pairs. -/
  | addB64 (w : A64)
  /-- R79. 64-bit wrapping subtract on register pairs. -/
  | subB64 (w : A64)
  /-- R79. Signed 64-bit minimum. -/
  | minS64 (w : A64)
  /-- R79. Unsigned 64-bit minimum. -/
  | minN64 (w : A64)
  /-- R79. Signed 64-bit maximum. -/
  | maxS64 (w : A64)
  /-- R79. Unsigned 64-bit maximum. -/
  | maxN64 (w : A64)
  /-- R81. Low 32 bits of a product. -/
  | mulLo (w : A64)
  /-- R81. High 32 bits of a signed product. -/
  | mulHiS32 (w : A64)
  /-- R81. High 32 bits of an unsigned product. -/
  | mulHiN32 (w : A64)
  /-- R81. Low 32 bits of a product plus c. -/
  | madLo (w : A64)
  /-- R81. High signed product half plus c. -/
  | madHiS32 (w : A64)
  /-- R81. High unsigned product half plus c. -/
  | madHiN32 (w : A64)
  /-- R82. Signed division toward zero, variable latency. -/
  | divS32 (w : A64)
  /-- R82. Unsigned division, variable latency. -/
  | divN32 (w : A64)
  /-- R82. Signed remainder with the sign of a. -/
  | remS32 (w : A64)
  /-- R82. Unsigned remainder. -/
  | remN32 (w : A64)
  /-- R83. Four signed byte products added to c. -/
  | dp4S8 (w : A64)
  /-- R83. Four unsigned byte products added to c. -/
  | dp4N8 (w : A64)
  /-- R84. Bitwise AND. -/
  | and (w : A64)
  /-- R84. Bitwise OR. -/
  | or (w : A64)
  /-- R84. Bitwise XOR. -/
  | xor (w : A64)
  /-- R84. Bitwise a AND NOT b. -/
  | andn (w : A64)
  /-- R84. Bitwise NOT. -/
  | not (w : A64)
  /-- R84. 32-bit left shift. -/
  | shl (w : A64)
  /-- R84. 32-bit logical right shift. -/
  | shr (w : A64)
  /-- R84. 32-bit arithmetic right shift. -/
  | sar (w : A64)
  /-- R84. 32-bit rotate left. -/
  | rol (w : A64)
  /-- R85. Signed bit-field extract. -/
  | bfeS32 (w : A64)
  /-- R85. Unsigned bit-field extract. -/
  | bfeN32 (w : A64)
  /-- R86. Bit-field insert into base c. -/
  | bfi (w : A64)
  /-- R87. Bit-order reversal. -/
  | brev (w : A64)
  /-- R87. Population count. -/
  | popc (w : A64)
  /-- R87. Count of set bits below bit n. -/
  | popcLo (w : A64)
  /-- R87. Count of leading zeros. -/
  | clz (w : A64)
  /-- R87. Count of trailing zeros. -/
  | ctz (w : A64)
  /-- R88. 30-bit Morton key from three 10-bit coordinates. -/
  | hcell (w : A64)
  /-- R84. 64-bit left shift. -/
  | shlB64 (w : A64)
  /-- R84. 64-bit logical right shift. -/
  | shrB64 (w : A64)
  /-- R84. 64-bit arithmetic right shift. -/
  | sarB64 (w : A64)
  /-- R89. Integer compare into a predicate. -/
  | cmp (w : A64)
  /-- R90. Floating-point compare into a predicate. -/
  | fcmp (w : A64)
  /-- R91. Select a or b by a predicate. -/
  | sel (w : A64)
  /-- R91. Copy a 32-bit source through the crossbar. -/
  | mov (w : A64)
  /-- R91. Load a 32-bit immediate into a vector register. -/
  | li (w : AI)
  /-- R92. Predicate AND. -/
  | pand (w : A64)
  /-- R92. Predicate OR. -/
  | por (w : A64)
  /-- R92. Predicate XOR. -/
  | pxor (w : A64)
  /-- R92. Predicate NOT. -/
  | pnot (w : A64)
  /-- R94. Binary32 add. -/
  | faddF32 (w : A64)
  /-- R94. Binary32 subtract. -/
  | fsubF32 (w : A64)
  /-- R94. Binary32 multiply. -/
  | fmulF32 (w : A64)
  /-- R94. Binary32 divide, variable latency. -/
  | fdivF32 (w : A64)
  /-- R94. Binary32 square root, variable latency. -/
  | fsqrtF32 (w : A64)
  /-- R97. Round binary32 to an integral value. -/
  | frndF32 (w : A64)
  /-- R97. Binary32 scale by 2^b. -/
  | ldexpF32 (w : A64)
  /-- R95. Binary32 minimumNumber. -/
  | fminF32 (w : A64)
  /-- R95. Binary32 maximumNumber. -/
  | fmaxF32 (w : A64)
  /-- R95. Binary32 NaN-propagating minimum. -/
  | fminNanF32 (w : A64)
  /-- R95. Binary32 NaN-propagating maximum. -/
  | fmaxNanF32 (w : A64)
  /-- R96. Clear the binary32 sign bit. -/
  | fabsF32 (w : A64)
  /-- R96. Invert the binary32 sign bit. -/
  | fnegF32 (w : A64)
  /-- R96. Binary32 class mask. -/
  | fclassF32 (w : A64)
  /-- R94. Binary32 fused multiply-add with rounding code in op. -/
  | ffmaF32 (rm : BitVec 3) (w : A64)
  /-- R93. Packed f16x2 or bf16x2 add. -/
  | faddX2 (bf : BitVec 1) (w : A64)
  /-- R93. Packed f16x2 or bf16x2 subtract. -/
  | fsubX2 (bf : BitVec 1) (w : A64)
  /-- R93. Packed f16x2 or bf16x2 multiply. -/
  | fmulX2 (bf : BitVec 1) (w : A64)
  /-- R95. Packed minimumNumber. -/
  | fminX2 (bf : BitVec 1) (w : A64)
  /-- R95. Packed maximumNumber. -/
  | fmaxX2 (bf : BitVec 1) (w : A64)
  /-- R95. Packed NaN-propagating minimum. -/
  | fminNanX2 (bf : BitVec 1) (w : A64)
  /-- R95. Packed NaN-propagating maximum. -/
  | fmaxNanX2 (bf : BitVec 1) (w : A64)
  /-- R96. Packed sign clear. -/
  | fabsX2 (bf : BitVec 1) (w : A64)
  /-- R96. Packed sign inversion. -/
  | fnegX2 (bf : BitVec 1) (w : A64)
  /-- R94. Packed fused multiply-add. -/
  | ffmaX2 (bf : BitVec 1) (rm : BitVec 3) (w : A64)
  /-- R94. Binary64 add. -/
  | faddF64 (w : A64)
  /-- R94. Binary64 subtract. -/
  | fsubF64 (w : A64)
  /-- R94. Binary64 multiply. -/
  | fmulF64 (w : A64)
  /-- R94. Binary64 divide, variable latency. -/
  | fdivF64 (w : A64)
  /-- R94. Binary64 square root, variable latency. -/
  | fsqrtF64 (w : A64)
  /-- R97. Round binary64 to an integral value. -/
  | frndF64 (w : A64)
  /-- R97. Binary64 scale by 2^b. -/
  | ldexpF64 (w : A64)
  /-- R95. Binary64 minimumNumber. -/
  | fminF64 (w : A64)
  /-- R95. Binary64 maximumNumber. -/
  | fmaxF64 (w : A64)
  /-- R95. Binary64 NaN-propagating minimum. -/
  | fminNanF64 (w : A64)
  /-- R95. Binary64 NaN-propagating maximum. -/
  | fmaxNanF64 (w : A64)
  /-- R96. Clear the binary64 sign bit. -/
  | fabsF64 (w : A64)
  /-- R96. Invert the binary64 sign bit. -/
  | fnegF64 (w : A64)
  /-- R96. Binary64 class mask. -/
  | fclassF64 (w : A64)
  /-- R94. Binary64 fused multiply-add. -/
  | ffmaF64 (rm : BitVec 3) (w : A64)
  /-- R100. Conversion between integer and floating-point types. -/
  | cvt (w : A64)
  /-- R101. Encode eight binary32 values into q4x nibbles. -/
  | q4xEnc (w : A64)
  /-- R102. Decode eight q4x nibbles into binary32 registers. -/
  | q4xDec (w : A64)
  /-- R98. Reciprocal. -/
  | frcp (w : A64)
  /-- R98. Reciprocal square root. -/
  | frsq (w : A64)
  /-- R98. Base-2 exponential. -/
  | fexp2 (w : A64)
  /-- R98. Base-2 logarithm. -/
  | flog2 (w : A64)
  /-- R98. Sine in radians. -/
  | fsin (w : A64)
  /-- R98. Cosine in radians. -/
  | fcos (w : A64)
  /-- R98. Hyperbolic tangent. -/
  | ftanh (w : A64)
  /-- R103. Conditional PC-relative branch with a uniform guard. -/
  | br (w : AI)
  /-- R103. Conditional indirect branch to a uniform register. -/
  | brInd (w : A64)
  /-- R103. Conditional call writing a uniform link register. -/
  | call (w : AI)
  /-- R103. Conditional return to a uniform register address. -/
  | ret (w : A64)
  /-- R107. Retire the active guarded-in lanes. -/
  | exit (w : A64)
  /-- R108. No operation. -/
  | nop (w : A64)
  /-- R108. Move the group behind every other ready group. -/
  | yield (w : A64)
  /-- R108. Trap software with the immediate in tval. -/
  | trap (w : AI)
  /-- R108. Trap breakpoint. -/
  | brk (w : A64)
  /-- R29. Return from a trap handler to tepc. -/
  | tret (w : A64)
  /-- R121. Read a special register into rd. -/
  | movSr (w : A64)
  /-- R123. Read a CSR into a uniform register. -/
  | csrRd (w : AI)
  /-- R123. Write a uniform register into a CSR. -/
  | csrWr (w : AI)
  /-- R119. Read a vector register whose number is computed per lane. -/
  | rget (w : A64)
  /-- R119. Write a vector register whose number is computed per lane. -/
  | rput (w : A64)
  /-- R164. Scalar 64-bit add. -/
  | sAdd (w : A64)
  /-- R164. Scalar 64-bit subtract. -/
  | sSub (w : A64)
  /-- R164. Scalar 64-bit multiply. -/
  | sMul (w : A64)
  /-- R164. Scalar AND. -/
  | sAnd (w : A64)
  /-- R164. Scalar OR. -/
  | sOr (w : A64)
  /-- R164. Scalar XOR. -/
  | sXor (w : A64)
  /-- R164. Scalar left shift. -/
  | sShl (w : A64)
  /-- R164. Scalar logical right shift. -/
  | sShr (w : A64)
  /-- R164. Scalar arithmetic right shift. -/
  | sSar (w : A64)
  /-- R164. Scalar load of a sign-extended 32-bit immediate. -/
  | sLi (w : AI)
  /-- R164. Scalar register copy. -/
  | sMov (w : A64)
  /-- R165. Scalar compare into a predicate of every active lane. -/
  | sCmp (w : A64)
  /-- R165. Scalar select by a uniform predicate. -/
  | sSel (w : A64)
  /-- R166. Scalar 8-byte load into a uniform register. -/
  | sLd (w : AM)
  /-- R167. Read one lane of a vector register into a uniform register. -/
  | sRdl (w : A64)
  /-- R170. Cross-lane shuffle. -/
  | shfl (w : A64)
  /-- R171. OR of a predicate over participants. -/
  | voteAny (w : A64)
  /-- R171. AND of a predicate over participants. -/
  | voteAll (w : A64)
  /-- R171. 64-bit mask of participants with a true predicate. -/
  | voteBallot (w : A64)
  /-- R172. Mask of participants with an equal value. -/
  | matchEq (w : A64)
  /-- R175. Reduction over all participants. -/
  | redLane (w : A64)
  /-- R175. Inclusive or exclusive running reduction. -/
  | scanLane (w : A64)
  /-- R176. Segmented reduction by head predicates. -/
  | segred (w : A64)
  /-- R177. Masked synchronisation of named threads. -/
  | lsync (w : A64)
  /-- R178. Insert a scored pair into a sorted per-lane list. -/
  | topkIns (w : A64)
  /-- R144. Divergent branch that keeps or ships out the minority. -/
  | brDiv (w : AI)
  /-- R147. Resolve one reconvergence level. -/
  | join (w : A64)
  /-- R183. Write a whole barrier word. -/
  | barInit (w : A64)
  /-- R184. Arrive at a barrier with a count per participant. -/
  | barArr (w : A64)
  /-- R185. Park until a barrier's phase equals the awaited phase. -/
  | barWait (w : A64)
  /-- R186. Arrive and wait for the phase to change. -/
  | barSync (w : A64)
  /-- R187. Wait until a stage word's phase equals the awaited value. -/
  | stgAcq (w : A64)
  /-- R187. Toggle a stage word after the sp counter drains. -/
  | stgRel (w : A64)
  /-- R111. Global load of 1 to 16 bytes per lane. -/
  | ld (w : AM)
  /-- R114. Global store of 1 to 16 bytes per lane. -/
  | st (w : AM)
  /-- R118. Non-faulting line prefetch. -/
  | prefetch (w : AM)
  /-- R271. Scratchpad load. -/
  | ldSp (w : AM)
  /-- R271. Scratchpad store. -/
  | stSp (w : AM)
  /-- R274. Global atomic read-modify-write returning the old value. -/
  | atom (w : AMT)
  /-- R274. Global compare-and-swap. -/
  | atomCas (w : AMT)
  /-- R274. Global bounded add writing success to the guard predicate. -/
  | atomAddlim (w : AMT)
  /-- R277. Scratchpad atomic at the word's bank. -/
  | atomSp (w : AMT)
  /-- R278. Global reduction with no return value. -/
  | red (w : AMT)
  /-- R280. Wait until a path counter is at most n. -/
  | waitCnt (w : A64)
  /-- R281. Wait until global time has passed wct and raise the floor. -/
  | waitWct (w : A64)
  /-- R282. Wait on a timeline counter for count or poison. -/
  | waitTl (w : A64)
  /-- R283. Invalidate leased L1 copies in a range. -/
  | inval (w : A64)
  /-- R284. End ownership of lines in a range with write-back. -/
  | wb (w : A64)
  /-- R285. Add a sealed range to the context. -/
  | seal (w : A64)
  /-- R286. Remove a sealed range and invalidate its copies. -/
  | unseal (w : A64)
  /-- R287. Pin lines of a range in L2. -/
  | l2Pin (w : A64)
  /-- R288. End pins on lines of a range. -/
  | l2Unpin (w : A64)
  /-- R289. Set banks of the allocation to cache mode. -/
  | bankCfgCache (w : A64)
  /-- R289. Set banks of the allocation to scratchpad mode. -/
  | bankCfgSp (w : A64)
  /-- R289. Set banks of the allocation to FIFO mode. -/
  | bankCfgFifo (w : A64)
  /-- R290. Describe one bank of the allocation. -/
  | bankCfgQuery (w : A64)
  /-- R291. Open a forwarding atomic region. -/
  | farBegin (w : AI)
  /-- R292. Drain region accesses and request commit. -/
  | farEnd (w : A64)
  /-- R293. Abort the open region with status 6. -/
  | farAbort (w : A64)
  /-- R293. Read the region state without waiting. -/
  | farStat (w : A64)
  /-- R294. Open a scratchpad subscription. -/
  | subOpen (w : A64)
  /-- R295. Close a subscriber entry. -/
  | subClose (w : A64)
  /-- R295. Flush the team's publisher buffers. -/
  | subFlush (w : A64)
  /-- R296. Send one receive-ring message per lane. -/
  | msgSend (w : A64)
  /-- R298. Wait until a ring holds n unread messages. -/
  | msgWait (w : A64)
  /-- R298. Advance a ring's head. -/
  | msgPop (w : A64)
  /-- R355. Per-lane element copy in the group's batch. -/
  | cp (w : A64)
  /-- R356. Close the batch naming a counter and stage word. -/
  | cpCommit (w : A64)
  /-- R357. Strided tile copy. -/
  | cpTile (w : A64)
  /-- R358. Zero a scratchpad range. -/
  | cpZero (w : A64)
  /-- R359. Tower-base gather by index list, with a ticket. -/
  | cpGather (w : A64)
  /-- R359. Tower-base scatter by index list, with a ticket. -/
  | cpScatter (w : A64)
  /-- R317. Expand a sparse layout to a dense tile. -/
  | cpUnpack (w : A64)
  /-- R317. Compress a dense tile to bitmap and values. -/
  | cpPack (w : A64)
  /-- R318. Pair values of two bitmaps' intersection. -/
  | cpIsect (w : A64)
  /-- R319. Pair positions of keys common to two sorted streams. -/
  | cpMerge (w : A64)
  /-- R362. One matrix step on an accumulator tile, emptying the latch. -/
  | mma (w : A64)
  /-- R326. One matrix step that leaves A in the latch. -/
  | mmaReuse (w : A64)
  /-- R332. A counted loop of matrix steps with a split granule. -/
  | mloop (w : A64)
  /-- R334. Zero an accumulator tile. -/
  | maccZero (w : A64)
  /-- R334. Load an accumulator tile from scratchpad. -/
  | maccLd (w : A64)
  /-- R334. Store an accumulator tile to scratchpad in a format. -/
  | maccSt (w : A64)
  /-- R335. In-place Hadamard transform of a scratchpad tile. -/
  | mhad (w : A64)
  /-- R367. Claim a launch-queue slot and store a record. -/
  | lqPush (w : A64)
  /-- R368. Read a launch queue's claimed and pending counts. -/
  | lqPoll (w : A64)
  /-- R160. C1 barrier arrival applied at its target bank or saved image, or dropped. -/
  | remoteArrival (k : Nat)
  /-- R162. C1 stage-word toggle applied at its target. -/
  | stageToggle (k : Nat)
  /-- R238. Atomic add to a timeline counter at its home. -/
  | counterAdvance (k : Nat)
  /-- R261. C1 update written to the subscriber's range. -/
  | subscriptionUpdate (k : Nat)
  /-- R262. Write-combining buffer flushes 64 ns after its first write. -/
  | subBufferTimeout (k : Nat)
  /-- R203. C2 load, store, atomic or reduction performed at its home slice. -/
  | sliceRequest (u : Nat) (r : Nat) (l : Nat) (act : ReqAction)
  /-- R203. C3 recall fetches or invalidates words of an owned line. -/
  | wordRecall (k : Nat)
  /-- R203. C3 recall ends ownership of a line. -/
  | lineRecall (k : Nat)
  /-- R206. C4 request served by the slice fronting the pseudo-channel. -/
  | towerRequest (k : Nat)
  /-- R201. C5 redirect makes the port resend to the home or canonical name. -/
  | redirectReply (cluster : Nat) (asid : Nat) (vpn : Nat)
  /-- R251. Edge or forward exchanged between signal boxes. -/
  | regionEdge (k : Nat)
  /-- R117. Load value written to registers and ld counter lowered. -/
  | loadReturn (u : Nat) (r : Nat)
  /-- R117. Completion time returns, st counter lowered, wct raised. -/
  | storeCompletion (u : Nat) (r : Nat)
  /-- R275. Old value and completion time return and at counter lowered. -/
  | atomicReturn (u : Nat) (r : Nat)
  /-- R227. Scratchpad access performed at its bank and sp counter lowered. -/
  | spAccessPerformed (u : Nat)
  /-- R224. An L1 leased copy becomes invalid at its expiry. -/
  | leaseExpiry (k : Nat)
  /-- R216. A line's pin ends when its pin expiry passes. -/
  | pinExpiry (k : Nat)
  /-- R149. Fragment's first word issues on a narrow core after parent writes are readable. -/
  | fragmentLaunch (u : Nat)
  /-- R151. Pulled register arrives over the siding link. -/
  | registerPull (u : Nat) (reg : Nat)
  /-- R152. A fragment thread's register write-back lands in the parent's file. -/
  | writeBack (u : Nat)
  /-- R152. Join completion reaches the parent and merges flags and wct. -/
  | joinCompletion (u : Nat)
  /-- R253. Region commits after its predecessors at one commit instant. -/
  | regionCommit (r : Nat)
  /-- R256. Group takes a decided abort and continues at the handler. -/
  | abortTaken (u : Nat)
  /-- R255. Region open longer than farto aborts with status 4. -/
  | regionTimeout (r : Nat)
  /-- R266. C0 message received by the NI and written into slot tail. -/
  | ringMessage (k : Nat)
  /-- R267. Sending NI resends a refused message after head advances. -/
  | messageRetry (k : Nat)
  /-- R414. Ring agent on the home device lands a message in a global ring. -/
  | ringAgentMessage (k : Nat)
  /-- R415. Back-off ends and a parked message is sent again. -/
  | backoffExpiry (k : Nat)
  /-- R309. Copy engine performs one page piece of a transfer. -/
  | copyPiece (k : Nat)
  /-- R311. Tower base reads one indexed element into scratchpad. -/
  | gatherElement (k : Nat)
  /-- R312. Tower base writes one indexed element to global memory. -/
  | scatterElement (k : Nat)
  /-- R316. Copy engine performs a sparse conversion and its status word. -/
  | sparseConversion (k : Nat)
  /-- R302. A closed batch lands and advances its counter and toggles its stage word. -/
  | batchLanding (u : Nat)
  /-- R303. Tower timeline advances for a finished gather or scatter. -/
  | towerTicketAdvance (t : Nat)
  /-- R310. A faulting piece or element terminates the issuing team. -/
  | engineFault (t : Nat)
  /-- R308. Fault on the spill ring stops the whole context. -/
  | spillRingFault (c : Nat) (reason : Nat)
  /-- R322. Matrix engine performs one step on an accumulator tile. -/
  | matrixStep (t : Nat)
  /-- R334. Engine performs macc.zero, macc.ld or macc.st. -/
  | matrixTileMove (t : Nat)
  /-- R335. Engine performs an mhad transform. -/
  | hadamardTransform (t : Nat)
  /-- R321. Team's matrix timeline advances once per finished command. -/
  | matrixTimelineAdvance (t : Nat)
  /-- R367. After wct and tail = k, lq.push stores k+1 to tail. -/
  | lqPushPublish (u : Nat)
  /-- R337. Dispatcher judges a written queue header. -/
  | queueHeaderJudge (c : Nat) (q : Nat)
  /-- R339. Dispatcher reads the record at head and advances head. -/
  | recordConsume (c : Nat) (q : Nat)
  /-- R344. Grid starts once conflicting grids ahead have finished. -/
  | gridStart (g : Nat)
  /-- R347. Dispatcher places the next team in curve order. -/
  | teamPlacement (g : Nat) (core : Nat)
  /-- R132. Team's groups begin at the entry with start state. -/
  | teamStart (t : Nat)
  /-- R348. Team counts as exited and releases its banks and tiles. -/
  | teamExited (t : Nat)
  /-- R385. Team at its save point written to the save area. -/
  | teamSave (t : Nat)
  /-- R388. Saved team restored onto its core once resources are free. -/
  | teamRestore (t : Nat)
  /-- R392. Held signal applied to a saved team's image. -/
  | imageSignalApply (k : Nat)
  /-- R393. Firmware saves a core whose teams all wait and gates it. -/
  | powerGate (core : Nat)
  /-- R393. Firmware restores a power-gated team whose wait now holds. -/
  | powerGateRestore (t : Nat)
  /-- R394. Firmware resets a wide core and terminates its teams. -/
  | coreReset (core : Nat)
  /-- R391. Team misses its save point within prelim and the context is killed. -/
  | watchdogPreempt (t : Nat)
  /-- R391. Team stalled for prelim and the context is killed. -/
  | watchdogStall (t : Nat)
  /-- R395. Detected storage error corrected, refetched or marked poisoned. -/
  | softError (site : ErrorSite)
  /-- R397. Periodic scrub read corrects or poisons. -/
  | patrolScrub (site : ErrorSite)
  /-- R398. Failing DRAM row remapped to a spare. -/
  | rowSparing (tower : Nat)
  /-- R398. Tower re-interleaved over 63 channels after host vacates frames. -/
  | pseudoChannelRetirement (tower : Nat)
  /-- R398. Teams moved to a spare cluster taking the same numbers. -/
  | clusterRetirement (cluster : Nat)
  /-- R398. Failing Jolorlink lane replaced by a spare. -/
  | laneSparing (port : Nat)
  /-- R213. System software invalidates mappings of an ASID range. -/
  | shootdown (asid : Nat) (base : BitVec 64) (len : Nat)
  /-- R409. Jolorlink data flit received and checked. -/
  | dataFlit (port : Nat) (f : Flit)
  /-- R409. Idle flit carrying acks and grants received. -/
  | idleFlit (port : Nat) (f : Flit)
  /-- R411. Sender replays from the named sequence number. -/
  | retryRequest (port : Nat) (f : Flit)
  /-- R412. Every 4,096 data flits the sender inserts an audit flit. -/
  | auditPoint (port : Nat)
  /-- R412. Receiver checks the send-window total on an audit flit. -/
  | audit (port : Nat) (f : Flit)
  /-- R412. Resync flit grants or discards window units. -/
  | resync (port : Nat) (f : Flit)
  /-- R402. Time-sync flit exchanged and reference slewed. -/
  | timeSync (port : Nat) (f : SyncFlit)
  /-- R401. Periodic start of a time-sync exchange on each link. -/
  | timeSyncTimer (port : Nat)
  /-- R411. Link retrained after 16 failed retries in a row. -/
  | linkRetrain (port : Nat) (ok : Bool)
  /-- R403. Firmware declares a device out of step and unreachable. -/
  | deviceOutOfStep (dev : Nat)
  /-- R402. Joining device reaches step with the master. -/
  | deviceInStep (dev : Nat)
  /-- R405. Home port checks an shared window and performs a remote request. -/
  | remoteRequest (q : RemoteReq)
  /-- R419. Host CXL.mem or BAR2 read performed through the frame directory. -/
  | hostRead (pa : Nat) (len : Nat)
  /-- R419. Host CXL.mem or BAR2 write performed through the frame directory. -/
  | hostWrite (pa : Nat) (bytes : List (BitVec 8))
  /-- R421. Host window register write taking effect after old accesses drain. -/
  | hostWindowWrite (k : Nat) (part : Nat) (value : BitVec 64)
  /-- R422. Doorbell command 1 registers a context. -/
  | register (slot : Nat) (entry : Nat)
  /-- R424. Doorbell command 2 sets the context's enable flag. -/
  | enable (slot : Nat)
  /-- R424. Doorbell command 3 clears the enable flag. -/
  | disable (slot : Nat)
  /-- R383. Doorbell command 4 requests pre-emption. -/
  | preEmpt (slot : Nat)
  /-- R388. Doorbell command 5 restores a saved context. -/
  | restore (slot : Nat)
  /-- R382. Doorbell command 6 kills the context. -/
  | kill (slot : Nat)
  /-- R423. Doorbell command 7 kills, shoots down and frees the ASID. -/
  | destroy (slot : Nat)
  /-- R423. Unknown command code sets status 3 and does nothing. -/
  | doorbellIllegalCommand (slot : Nat) (value : BitVec 64)
  /-- R378. Response action 0 replays the parked instruction. -/
  | faultResponseReplay (slot : Nat) (id : Nat)
  /-- R378. Response action 1 delivers a translation trap. -/
  | faultResponseDeliver (slot : Nat) (id : Nat)
  /-- R378. Response action 2 terminates the team. -/
  | faultResponseTerminate (slot : Nat) (id : Nat)
  /-- R420. Write to a BAR0 register with no behaviour of its own. -/
  | registerWrite (off : Nat) (value : BitVec 64)
  /-- R429. Signed link policy written through the mailbox. -/
  | linkPolicyWrite (p : LinkPolicy)
  /-- R430. Host reports frames vacated for a channel retirement. -/
  | hostVacateReply (tower : Nat)
  /-- R428. Signed measurement report answering a host nonce. -/
  | attestationReport (nonce : List (BitVec 8))
  /-- R207. Firmware loads a tower encryption key slot. -/
  | keyLoad (k : KeySlot)
  /-- R426. Mask ROM verifies firmware and configuration at reset. -/
  | moduleReset (fw : Firmware) (cfg : ConfigRecord)
  /-- R429. Governor lowers clocks to keep power and temperature limits. -/
  | thermalThrottle (level : Nat)
  /-- R429. Above 115 °C the module stops. -/
  | thermalShutdown
  /-- R47. A fetched word that is no instruction (parcel 0x0000, class 23-31, unlisted op, malformed field) traps illegal-encoding before any effect. -/
  | illegalEncoding (nbytes : Nat) (raw : BitVec 64)
  /-- R21. A variable-latency result (div, rem, fdiv, fsqrt, class 8, class 12, csr.rd, mov.sr, rget, s.rdl, a ticket) is written to its register and releases the scoreboard. -/
  | variableLatencyResult (u : Nat) (k : Nat)
  /-- R226. The waiting agent's clock passes wct + 2 epsilon, so wait.wct, or lq.push step 5, ends and the floor rises. -/
  | wctPassed (u : Nat)
  /-- R409. A Jolorlink link trains and comes up, resetting sequence numbers, acks and the send window. -/
  | linkTraining (port : Nat)
  /-- R421. The host's CXL.cache completion returns for a device access through a host window and fixes the write's completion time. -/
  | hostCompletion (u : Nat) (r : Nat)
deriving DecidableEq, Repr

end Sys2Proof
end

