-- ==== Sys2Proof/WellFormed.lean ====
section
/-!
DEFINITION. Which field values make an instruction (R36, R41, R42, R44, R47): the checks that do not depend on the group's width or on any other state.
-/

namespace Sys2Proof

/-- R36: guard 1111 names no lane set. -/
def guardOk (g : BitVec 4) : Bool := g != 15

/-- R36: an operation marked always. -/
def guardAlways (g : BitVec 4) : Bool := g == 7

/-- R41: a uniform field of 7 or 8 bits. -/
def uniOk {n : Nat} (x : BitVec n) : Bool := decide (x.toNat < 24)

/-- R41: a predicate field. -/
def predOk (x : BitVec 7) : Bool := decide (x.toNat < 8)

/-- R41: a vector field aligned to its span. -/
def vecOk (align : Nat) (x : BitVec 7) : Bool := x.toNat % align == 0

/-- R44, Table 2.8: a rounding code. -/
def rmOk {n : Nat} (x : BitVec n) : Bool := x.toNat % 8 ≤ 4 || x.toNat % 8 == 7

/-- R42, Table 2.7: the patterns on which the width of the group has no say; `imm` allows pattern 0x02. -/
def patOk (imm : Bool) (p : BitVec 8) (r : BitVec 7) : Bool :=
  let kind := p.toNat / 64
  let param := p.toNat % 64
  if kind = 0 then param == 0 || (param == 1 && uniOk r) || (param == 2 && imm)
  else if kind = 3 then param / 8 % 4 == 0
  else true

/-- R41, R42: a vector source of span `align`; a uniform register or an immediate needs no alignment. -/
def srcOk (imm : Bool) (align : Nat) (p : BitVec 8) (r : BitVec 7) : Bool :=
  patOk imm p r && (p == 1 || p == 2 || vecOk align r)

/-- Forms 2R of classes 0 to 7: the spans of rd, ra and rb and a check of m. -/
def A64.ok2R (w : A64) (sd sa sb : Nat) (m : BitVec 7 → Bool) : Bool :=
  guardOk w.guard && vecOk sd w.rd && srcOk false sa w.pa w.ra && srcOk true sb w.pb w.rb && m w.rc

/-- Form 3R. -/
def A64.ok3R (w : A64) (s : Nat) : Bool :=
  guardOk w.guard && vecOk s w.rd && srcOk false s w.pa w.ra && srcOk true s w.pb w.rb && vecOk s w.rc

/-- Form 1R: rb and pb are zero. -/
def A64.ok1R (w : A64) (sd sa : Nat) (m : BitVec 7 → Bool) : Bool :=
  guardOk w.guard && vecOk sd w.rd && srcOk false sa w.pa w.ra && w.rb == 0 && w.pb == 0 && m w.rc

/-- m is not used. -/
def mZero (m : BitVec 7) : Bool := m == 0

/-- m is a rounding code (R44). -/
def mRound (m : BitVec 7) : Bool := m.toNat < 8 && rmOk m

/-- R80: `addc` and `subb` leave m `[6]` zero. -/
def mCarry (m : BitVec 7) : Bool := decide (m.toNat < 64)

/-- R91, R165: `sel` and `s.sel` use m `[3:0]`. -/
def mSel (m : BitVec 7) : Bool := decide (m.toNat < 16)

/-- R44, R89: a compare condition and a compare type below `types`. -/
def mCmp (types : Nat) (m : BitVec 7) : Bool := m.toNat % 8 ≤ 5 && decide (m.toNat / 8 < types)

/-- The span of a compare's sources: pairs for the 64-bit types (R89, R90). -/
def cmpSpan (wide : Nat) (m : BitVec 7) : Nat := if wide ≤ m.toNat / 8 then 2 else 1

/-- R89, R90: compares write a predicate. -/
def A64.okCmp (w : A64) (types wide : Nat) : Bool :=
  guardOk w.guard && predOk w.rd && srcOk false (cmpSpan wide w.rc) w.pa w.ra && srcOk true (cmpSpan wide w.rc) w.pb w.rb
    && mCmp types w.rc

/-- R92: predicate fields only. -/
def A64.okPred (w : A64) (two : Bool) : Bool :=
  guardOk w.guard && predOk w.rd && predOk w.ra && (if two then predOk w.rb else w.rb == 0) && w.pa == 0 && w.pb == 0
    && w.rc == 0

/-- R99: the span of a conversion's operand, by its type code. -/
def tySpan (code : Nat) : Nat := if code = 3 ∨ code = 7 ∨ code = 11 then 2 else 1

/-- R99. -/
def A64.okCvt (w : A64) : Bool :=
  guardOk w.guard && w.pa == 0 && w.rc.toNat < 16 && rmOk w.rc && w.rb.toNat < 14 && w.pb.toNat < 14
    && w.rb.toNat != w.pb.toNat && vecOk (tySpan w.rb.toNat) w.rd && vecOk (tySpan w.pb.toNat) w.ra

/-- Every field but guard and stall is zero. -/
def A64.okEmpty (w : A64) : Bool :=
  w.rd == 0 && w.ra == 0 && w.pa == 0 && w.rb == 0 && w.pb == 0 && w.rc == 0

/-- `br.ind` and `ret` (Table 5.1). -/
def A64.okIndirect (w : A64) : Bool :=
  guardOk w.guard && w.rd == 0 && uniOk w.ra && w.pa == 0 && w.rb == 0 && w.pb == 0 && w.rc == 0

/-- R121, Table 5.6. -/
def srOk (n : Nat) : Bool := n ≤ 9 || n == 16 || n == 17 || n == 18

def A64.okMovSr (w : A64) : Bool :=
  guardOk w.guard && srOk w.rb.toNat && vecOk (if 16 ≤ w.rb.toNat then 2 else 1) w.rd && w.ra == 0 && w.pa == 0
    && w.pb == 0 && w.rc == 0

/-- R123: a CSR number of 12 bits and a uniform field. -/
def AI.okCsr (w : AI) : Bool := guardAlways w.guard && uniOk w.rd && decide (w.imm.toNat < 4096)

/-- R119. -/
def A64.okRel (w : A64) : Bool :=
  guardOk w.guard && srcOk false 1 w.pa w.ra && w.pb == 0 && w.rc == 0

/-- R164: the second source of a scalar-pipe word, a uniform register or imm7. -/
def A64.okUniB (w : A64) : Bool := (w.pb == 0 && uniOk w.rb) || w.pb == 2

/-- R164: form 2R on uniform fields. -/
def A64.okS2R (w : A64) (m : BitVec 7 → Bool) : Bool :=
  guardAlways w.guard && uniOk w.rd && uniOk w.ra && w.pa == 0 && w.okUniB && m w.rc

/-- R165. -/
def A64.okSCmp (w : A64) : Bool :=
  guardAlways w.guard && predOk w.rd && uniOk w.ra && w.pa == 0 && w.okUniB && mCmp 4 w.rc

/-- R38: scope, base and index of a memory operand. -/
def memOk (mode : BitVec 2) (scope : BitVec 3) (scale : BitVec 2) (vindex : BitVec 7) (sbase : BitVec 5) : Bool :=
  mode != 3 && (mode != 2 || (vindex == 0 && scale == 0)) && scope.toNat ≤ 5 && uniOk sbase

def AM.memOk (w : AM) : Bool := Sys2Proof.memOk w.mode w.scope w.scale w.vindex w.sbase

/-- Table 5.3: the register span of an access code. -/
def codeSpan (code : Nat) : Nat := match code % 8 with | 3 => if 8 ≤ code then 2 else 1 | 4 => if 8 ≤ code then 4 else 1 | 5 => 2 | 6 => 4 | _ => 1

def AM.okLd (w : AM) : Bool := guardOk w.guard && w.memOk && w.code.toNat ≤ 6 && vecOk (codeSpan w.code.toNat) w.rd

def AM.okSt (w : AM) : Bool :=
  guardOk w.guard && w.memOk && 8 ≤ w.code.toNat && w.code.toNat ≤ 12 && vecOk (codeSpan w.code.toNat) w.rd

/-- R38: scratchpad words require scope and type zero. -/
def AM.okSp (w : AM) : Bool := w.scope == 0 && w.rtype == 0

/-- R273, Table 13.2: the types an operation accepts. -/
def atomTyOk (code ety : Nat) : Bool :=
  let int := ety == 2 || ety == 3 || ety == 6 || ety == 7
  if code ≤ 5 ∨ code = 7 ∨ code = 8 then int
  else if code = 6 then int || ety == 10 || ety == 11
  else if code ≤ 11 then ety == 8 || ety == 9 || ety == 10 || ety == 11
  else false

/-- R272, Table 13.1: the register group of a class 16 word. -/
def atomSpan (code ety : Nat) : Nat := if code = 7 ∨ code = 8 then 2 * tySpan ety else tySpan ety

def AMT.ok (w : AMT) : Bool :=
  guardOk w.guard && Sys2Proof.memOk w.mode w.scope w.scale w.vindex w.sbase && atomTyOk w.code.toNat w.ety.toNat
    && vecOk (atomSpan w.code.toNat w.ety.toNat) w.rd

/-- R173, Table 8.3: operation and type of a lane reduction. -/
def redOk (m : Nat) : Bool :=
  let op := m % 16
  let ty := m / 16 % 4
  if op ≤ 2 then ty ≤ 1
  else if op ≤ 5 then ty == 0
  else if 9 ≤ op ∧ op ≤ 11 then ty == 2
  else false

/-- R182: an address operand and the second operand of a barrier or stage word. -/
def A64.okBar (w : A64) (second : Bool) : Bool :=
  w.rd == 0 && srcOk false 1 w.pa w.ra && (if second then srcOk false 1 w.pb w.rb else w.rb == 0 && w.pb == 0)

/-- Table 8.6: `bar.wait` and `stg.acq`: an immediate phase or a phase in a register. -/
def A64.okPhase (w : A64) : Bool :=
  guardAlways w.guard && ((w.okBar false && (w.rc == 2 || w.rc == 3)) || (w.okBar true && w.rc == 0))

/-- Classes 17 to 19 take no pattern (R279). -/
def A64.noPat (w : A64) : Bool := w.pa == 0 && w.pb == 0

/-- Table 13.4: two uniform operands, and a uniform result when `res`. -/
def A64.okRange (w : A64) (res : Bool) : Bool :=
  guardAlways w.guard && w.noPat && (if res then uniOk w.rd else w.rd == 0) && uniOk w.ra && uniOk w.rb

/-- R279: `wait.cnt`. -/
def A64.okWaitCnt (w : A64) : Bool :=
  guardAlways w.guard && w.noPat && w.rd == 0 && w.rc.toNat < 16 && w.rc.toNat % 8 ≤ 5
    && (if 8 ≤ w.rc.toNat then uniOk w.ra && w.rb == 0 else w.ra == 0)

/-- R289, R290: `bank.cfg` of one mode. -/
def A64.okBank (w : A64) (mode : Nat) : Bool :=
  guardAlways w.guard && w.noPat && uniOk w.rd && uniOk w.ra && w.rc.toNat == mode
    && (if mode = 3 then w.rb == 0 else w.rb != 0)

/-- R298: `msg.wait` and `msg.pop`. -/
def A64.okMsg (w : A64) : Bool :=
  guardAlways w.guard && w.noPat && w.rd == 0 && uniOk w.ra && w.rc.toNat < 4
    && (if w.rc.toNat % 2 = 1 then uniOk w.rb else w.rb != 0)

/-- A block of `n` consecutive uniform registers (R350). -/
def blockOk {k : Nat} (n : Nat) (x : BitVec k) : Bool := decide (x.toNat + n ≤ 24)

/-- Table 18.1: `cp`. -/
def A64.okCp (w : A64) : Bool :=
  let p := w.pa.toNat
  guardOk w.guard && p < 128 && p % 4 ≤ 2 && p / 4 % 4 ≤ 2 && w.pb == 0 && w.rc == 0
    && (if p / 4 % 4 = 1 then w.rb == 0 && p / 16 == 0 else uniOk w.rb)

/-- Table 18.1: `cp.commit`. -/
def A64.okCommit (w : A64) : Bool :=
  guardAlways w.guard && w.rd == 0 && uniOk w.ra && w.pa.toNat < 4 && uniOk w.rc
    && (if 2 ≤ w.pa.toNat then w.rb == 0 else uniOk w.rb && w.pb == 0)

/-- Table 18.1: `cp.tile`. -/
def A64.okTile (w : A64) : Bool :=
  guardAlways w.guard && uniOk w.rd && uniOk w.ra && w.pa.toNat < 16 && w.pa.toNat % 4 ≤ 2 && w.pa.toNat / 4 ≤ 2
    && blockOk 2 w.rb && w.pb == 0 && w.rc == 0

/-- Table 18.1: `cp.gather` and `cp.scatter`. -/
def A64.okGather (w : A64) : Bool :=
  guardOk w.guard && uniOk w.pa && decide (w.pb.toNat % 32 < 24) && w.pb.toNat / 64 ≤ 2 && uniOk w.rc

/-- Tables 18.1 and 18.2: the sparse conversions, with the block P of `n` registers. -/
def A64.okSparse (w : A64) (layouts n : Nat) (merge : Bool) : Bool :=
  guardAlways w.guard && w.rd == 0 && uniOk w.ra && w.pa.toNat < 32 && decide (w.pa.toNat % 4 < layouts)
    && (!merge || w.pa.toNat / 4 % 4 == 0) && uniOk w.rb && blockOk n w.pb && uniOk w.rc

/-- Table 18.5: `mma` and `mma.reuse`. -/
def A64.okMma (w : A64) : Bool :=
  guardAlways w.guard && uniOk w.rd && vecOk 4 w.ra && w.pa.toNat < 8 && uniOk w.rb && w.pb == 0

/-- Table 18.5: `mloop`. -/
def A64.okMloop (w : A64) : Bool :=
  guardAlways w.guard && uniOk w.rd && w.pa.toNat < 128 && (if 64 ≤ w.pa.toNat then uniOk w.ra else vecOk 4 w.ra)
    && uniOk w.rb && blockOk 3 w.pb

/-- Table 18.5: the tile moves; `top` bounds pa. -/
def A64.okMacc (w : A64) (top : Nat) : Bool :=
  guardAlways w.guard && uniOk w.rd && uniOk w.ra && decide (w.pa.toNat < top) && uniOk w.rb && w.pb == 0 && uniOk w.rc

/-- R361: `.sat` with `.f32` is not an encoding of `macc.st`. -/
def A64.okMaccSt (w : A64) : Bool := w.okMacc 64 && !(w.pa.toNat / 8 % 4 == 0 && w.pa.toNat / 32 == 1)

def A64.okMhad (w : A64) : Bool :=
  guardAlways w.guard && uniOk w.rd && uniOk w.ra && w.pa.toNat < 8 && w.pa.toNat % 4 ≤ 2 && uniOk w.rb && uniOk w.pb
    && uniOk w.rc

/-- R34: a major with one source leaves field `[31:25]` zero. -/
def B32.ok1R (w : B32) : Bool := w.b == 0

/-- R41: a 64-bit major uses even registers. -/
def B32.okPair (w : B32) : Bool := vecOk 2 w.b && vecOk 2 w.a && vecOk 2 w.d

/-- The check of the fields of an instruction; a step that has no word passes. -/
def Instr.wf : Instr → Bool
  | .movB32C16 w => !(w.b == 0 && w.d == 0 && w.s == 0)
  | .addS32C16 _ => true
  | .subS32C16 _ => true
  | .andB32C16 _ => true
  | .orB32C16 _ => true
  | .xorB32C16 _ => true
  | .shlB32C16 _ => true
  | .shrB32C16 _ => true
  | .sarB32C16 _ => true
  | .minS32C16 _ => true
  | .maxS32C16 _ => true
  | .faddF32C16 _ => true
  | .fsubF32C16 _ => true
  | .fmulF32C16 _ => true
  | .fminF32C16 _ => true
  | .fmaxF32C16 _ => true
  | .addS32B32 _ => true
  | .addS32ImmB32 _ => true
  | .subS32B32 _ => true
  | .subS32ImmB32 _ => true
  | .minS32B32 _ => true
  | .maxS32B32 _ => true
  | .minN32B32 _ => true
  | .maxN32B32 _ => true
  | .absS32B32 w => w.ok1R
  | .addSatS32B32 _ => true
  | .mulLoS32B32 _ => true
  | .mulHiN32B32 _ => true
  | .madLoS32B32 _ => true
  | .dp4S8B32 _ => true
  | .andB32B32 _ => true
  | .orB32B32 _ => true
  | .xorB32B32 _ => true
  | .andnB32B32 _ => true
  | .andB32ImmB32 _ => true
  | .orB32ImmB32 _ => true
  | .notB32B32 w => w.ok1R
  | .shlB32B32 _ => true
  | .shrB32B32 _ => true
  | .sarB32B32 _ => true
  | .shlB32ImmB32 _ => true
  | .shrB32ImmB32 _ => true
  | .sarB32ImmB32 _ => true
  | .popcB32B32 w => w.ok1R
  | .popcLoB32B32 _ => true
  | .clzB32B32 w => w.ok1R
  | .hcellB32 _ => true
  | .movB32B32 w => w.ok1R
  | .cmpEqS32B32 w => predOk w.d
  | .cmpLtS32B32 w => predOk w.d
  | .cmpLtN32B32 w => predOk w.d
  | .cmpGeS32B32 w => predOk w.d
  | .fcmpLtF32B32 w => predOk w.d
  | .fcmpGeF32B32 w => predOk w.d
  | .faddF32B32 _ => true
  | .fsubF32B32 _ => true
  | .fmulF32B32 _ => true
  | .ffmaF32B32 _ => true
  | .fminF32B32 _ => true
  | .fmaxF32B32 _ => true
  | .fabsF32B32 w => w.ok1R
  | .fnegF32B32 w => w.ok1R
  | .faddF16x2B32 _ => true
  | .fmulF16x2B32 _ => true
  | .ffmaF16x2B32 _ => true
  | .faddBf16x2B32 _ => true
  | .fmulBf16x2B32 _ => true
  | .ffmaBf16x2B32 _ => true
  | .faddF64B32 w => w.okPair
  | .fmulF64B32 w => w.okPair
  | .ffmaF64B32 w => w.okPair
  | .cvtF32S32B32 w => w.ok1R
  | .cvtRzS32F32B32 w => w.ok1R
  | .frcpF32B32 w => w.ok1R
  | .frsqF32B32 w => w.ok1R
  | .fexp2F32B32 w => w.ok1R
  | .flog2F32B32 w => w.ok1R
  | .sAddB32 w => uniOk w.b && uniOk w.a && uniOk w.d
  | .sAddImmB32 w => uniOk w.a && uniOk w.d
  | .sMovB32 w => w.b == 0 && uniOk w.a && uniOk w.d
  | .add w => w.ok2R 1 1 1 mZero
  | .sub w => w.ok2R 1 1 1 mZero
  | .addc w => w.ok2R 1 1 1 mCarry
  | .subb w => w.ok2R 1 1 1 mCarry
  | .addSatS32 w => w.ok2R 1 1 1 mZero
  | .addSatN32 w => w.ok2R 1 1 1 mZero
  | .subSatS32 w => w.ok2R 1 1 1 mZero
  | .subSatN32 w => w.ok2R 1 1 1 mZero
  | .minS32 w => w.ok2R 1 1 1 mZero
  | .minN32 w => w.ok2R 1 1 1 mZero
  | .maxS32 w => w.ok2R 1 1 1 mZero
  | .maxN32 w => w.ok2R 1 1 1 mZero
  | .absS32 w => w.ok1R 1 1 mZero
  | .negS32 w => w.ok1R 1 1 mZero
  | .addB64 w => w.ok2R 2 2 2 mZero
  | .subB64 w => w.ok2R 2 2 2 mZero
  | .minS64 w => w.ok2R 2 2 2 mZero
  | .minN64 w => w.ok2R 2 2 2 mZero
  | .maxS64 w => w.ok2R 2 2 2 mZero
  | .maxN64 w => w.ok2R 2 2 2 mZero
  | .mulLo w => w.ok2R 1 1 1 mZero
  | .mulHiS32 w => w.ok2R 1 1 1 mZero
  | .mulHiN32 w => w.ok2R 1 1 1 mZero
  | .madLo w => w.ok3R 1
  | .madHiS32 w => w.ok3R 1
  | .madHiN32 w => w.ok3R 1
  | .divS32 w => w.ok2R 1 1 1 mZero
  | .divN32 w => w.ok2R 1 1 1 mZero
  | .remS32 w => w.ok2R 1 1 1 mZero
  | .remN32 w => w.ok2R 1 1 1 mZero
  | .dp4S8 w => w.ok3R 1
  | .dp4N8 w => w.ok3R 1
  | .and w => w.ok2R 1 1 1 mZero
  | .or w => w.ok2R 1 1 1 mZero
  | .xor w => w.ok2R 1 1 1 mZero
  | .andn w => w.ok2R 1 1 1 mZero
  | .not w => w.ok1R 1 1 mZero
  | .shl w => w.ok2R 1 1 1 mZero
  | .shr w => w.ok2R 1 1 1 mZero
  | .sar w => w.ok2R 1 1 1 mZero
  | .rol w => w.ok2R 1 1 1 mZero
  | .bfeS32 w => w.ok3R 1
  | .bfeN32 w => w.ok3R 1
  | .bfi w => w.ok3R 1
  | .brev w => w.ok1R 1 1 mZero
  | .popc w => w.ok1R 1 1 mZero
  | .popcLo w => w.ok2R 1 1 1 mZero
  | .clz w => w.ok1R 1 1 mZero
  | .ctz w => w.ok1R 1 1 mZero
  | .hcell w => w.ok3R 1
  | .shlB64 w => w.ok2R 2 2 1 mZero
  | .shrB64 w => w.ok2R 2 2 1 mZero
  | .sarB64 w => w.ok2R 2 2 1 mZero
  | .cmp w => w.okCmp 4 2
  | .fcmp w => w.okCmp 2 1
  | .sel w => w.ok2R 1 1 1 mSel
  | .mov w => w.ok1R 1 1 mZero
  | .li w => guardOk w.guard
  | .pand w => w.okPred true
  | .por w => w.okPred true
  | .pxor w => w.okPred true
  | .pnot w => w.okPred false
  | .faddF32 w => w.ok2R 1 1 1 mRound
  | .fsubF32 w => w.ok2R 1 1 1 mRound
  | .fmulF32 w => w.ok2R 1 1 1 mRound
  | .fdivF32 w => w.ok2R 1 1 1 mRound
  | .fsqrtF32 w => w.ok1R 1 1 mRound
  | .frndF32 w => w.ok1R 1 1 mRound
  | .ldexpF32 w => w.ok2R 1 1 1 mRound
  | .fminF32 w => w.ok2R 1 1 1 mZero
  | .fmaxF32 w => w.ok2R 1 1 1 mZero
  | .fminNanF32 w => w.ok2R 1 1 1 mZero
  | .fmaxNanF32 w => w.ok2R 1 1 1 mZero
  | .fabsF32 w => w.ok1R 1 1 mZero
  | .fnegF32 w => w.ok1R 1 1 mZero
  | .fclassF32 w => w.ok1R 1 1 mZero
  | .ffmaF32 rm w => rmOk rm && w.ok3R 1
  | .faddX2 _ w => w.ok2R 1 1 1 mRound
  | .fsubX2 _ w => w.ok2R 1 1 1 mRound
  | .fmulX2 _ w => w.ok2R 1 1 1 mRound
  | .fminX2 _ w => w.ok2R 1 1 1 mZero
  | .fmaxX2 _ w => w.ok2R 1 1 1 mZero
  | .fminNanX2 _ w => w.ok2R 1 1 1 mZero
  | .fmaxNanX2 _ w => w.ok2R 1 1 1 mZero
  | .fabsX2 _ w => w.ok1R 1 1 mZero
  | .fnegX2 _ w => w.ok1R 1 1 mZero
  | .ffmaX2 _ rm w => rmOk rm && w.ok3R 1
  | .faddF64 w => w.ok2R 2 2 2 mRound
  | .fsubF64 w => w.ok2R 2 2 2 mRound
  | .fmulF64 w => w.ok2R 2 2 2 mRound
  | .fdivF64 w => w.ok2R 2 2 2 mRound
  | .fsqrtF64 w => w.ok1R 2 2 mRound
  | .frndF64 w => w.ok1R 2 2 mRound
  | .ldexpF64 w => w.ok2R 2 2 1 mRound
  | .fminF64 w => w.ok2R 2 2 2 mZero
  | .fmaxF64 w => w.ok2R 2 2 2 mZero
  | .fminNanF64 w => w.ok2R 2 2 2 mZero
  | .fmaxNanF64 w => w.ok2R 2 2 2 mZero
  | .fabsF64 w => w.ok1R 2 2 mZero
  | .fnegF64 w => w.ok1R 2 2 mZero
  | .fclassF64 w => w.ok1R 1 2 mZero
  | .ffmaF64 rm w => rmOk rm && w.ok3R 2
  | .cvt w => w.okCvt
  | .q4xEnc w => w.ok2R 1 8 1 mRound
  | .q4xDec w => w.ok2R 8 1 1 mRound
  | .frcp w => w.ok1R 1 1 mZero
  | .frsq w => w.ok1R 1 1 mZero
  | .fexp2 w => w.ok1R 1 1 mZero
  | .flog2 w => w.ok1R 1 1 mZero
  | .fsin w => w.ok1R 1 1 mZero
  | .fcos w => w.ok1R 1 1 mZero
  | .ftanh w => w.ok1R 1 1 mZero
  | .br w => guardOk w.guard && w.rd == 0
  | .brInd w => w.okIndirect
  | .call w => guardOk w.guard && uniOk w.rd
  | .ret w => w.okIndirect
  | .exit w => guardOk w.guard && w.okEmpty
  | .nop w => guardAlways w.guard && w.okEmpty
  | .yield w => guardAlways w.guard && w.okEmpty
  | .trap w => guardAlways w.guard && w.rd == 0
  | .brk w => guardAlways w.guard && w.okEmpty
  | .tret w => guardAlways w.guard && w.okEmpty
  | .movSr w => w.okMovSr
  | .csrRd w => w.okCsr
  | .csrWr w => w.okCsr
  | .rget w => w.okRel
  | .rput w => w.okRel
  | .sAdd w => w.okS2R mZero
  | .sSub w => w.okS2R mZero
  | .sMul w => w.okS2R mZero
  | .sAnd w => w.okS2R mZero
  | .sOr w => w.okS2R mZero
  | .sXor w => w.okS2R mZero
  | .sShl w => w.okS2R mZero
  | .sShr w => w.okS2R mZero
  | .sSar w => w.okS2R mZero
  | .sLi w => guardAlways w.guard && uniOk w.rd
  | .sMov w => guardAlways w.guard && uniOk w.rd && uniOk w.ra && w.pa == 0 && w.rb == 0 && w.pb == 0 && w.rc == 0
  | .sCmp w => w.okSCmp
  | .sSel w => w.okS2R mSel
  | .sLd w => guardAlways w.guard && w.memOk && w.mode == 2 && w.code == 5 && uniOk w.rd
  | .sRdl w => guardAlways w.guard && uniOk w.rd && w.pa == 0 && w.pb == 0 && w.rc == 0
  | .shfl w => guardOk w.guard && w.pa == 0 && srcOk false 1 w.pb w.rb && decide (w.rc.toNat < 4)
  | .voteAny w => guardOk w.guard && predOk w.rd && predOk w.ra && w.noPat && w.rb == 0 && w.rc == 0
  | .voteAll w => guardOk w.guard && predOk w.rd && predOk w.ra && w.noPat && w.rb == 0 && w.rc == 0
  | .voteBallot w => guardOk w.guard && vecOk 2 w.rd && predOk w.ra && w.noPat && w.rb == 0 && w.rc == 0
  | .matchEq w => guardOk w.guard && vecOk 2 w.rd && w.noPat && w.rb == 0 && w.rc.toNat < 2 && vecOk (1 + w.rc.toNat) w.ra
  | .redLane w => guardOk w.guard && w.noPat && w.rb == 0 && w.rc.toNat < 64 && redOk w.rc.toNat
  | .scanLane w => guardOk w.guard && w.noPat && w.rb == 0 && redOk w.rc.toNat
  | .segred w => guardOk w.guard && w.noPat && predOk w.rb && w.rc.toNat < 64 && redOk w.rc.toNat
  | .lsync w => guardOk w.guard && w.rd == 0 && w.rb == 0 && w.pb == 0 && w.rc == 0 && ((w.pa == 0 && vecOk 2 w.ra) || (w.pa == 1 && uniOk w.ra))
  | .topkIns w => guardOk w.guard && w.noPat && 1 ≤ w.rc.toNat && w.rc.toNat < 4 && vecOk (2 ^ (w.rc.toNat + 1)) w.rd
  | .brDiv w => guardAlways w.guard && decide (w.rd.toNat < 16)
  | .join w => guardAlways w.guard && w.okEmpty
  | .barInit w => guardOk w.guard && w.okBar true && decide (w.rc.toNat < 2)
  | .barArr w => guardOk w.guard && w.okBar true && w.rc == 0
  | .barWait w => w.okPhase
  | .barSync w => guardAlways w.guard && w.okBar false && w.rc == 0
  | .stgAcq w => w.okPhase
  | .stgRel w => guardAlways w.guard && w.okBar false && w.rc == 0
  | .ld w => w.okLd
  | .st w => w.okSt
  | .prefetch w => guardOk w.guard && w.memOk && w.code == 13 && w.rd == 0
  | .ldSp w => w.okLd && w.okSp
  | .stSp w => w.okSt && w.okSp
  | .atom w => w.ok && w.code != 7 && w.code != 8 && decide (w.code.toNat ≤ 9)
  | .atomCas w => w.ok && w.code == 7
  | .atomAddlim w => w.ok && w.code == 8
  | .atomSp w => w.ok && w.code.toNat ≤ 9 && w.rtype == 0
  | .red w => w.ok && !(6 ≤ w.code.toNat && w.code.toNat ≤ 8)
  | .waitCnt w => w.okWaitCnt
  | .waitWct w => guardAlways w.guard && w.okEmpty
  | .waitTl w => guardAlways w.guard && w.noPat && predOk w.rd && uniOk w.ra && uniOk w.rb && decide (w.rc.toNat < 2)
  | .inval w => w.okRange false && w.rc == 0
  | .wb w => w.okRange false && w.rc == 0
  | .seal w => w.okRange true && w.rc == 0
  | .unseal w => w.okRange true && w.rc == 0
  | .l2Pin w => w.okRange true && uniOk w.rc
  | .l2Unpin w => w.okRange false && w.rc == 0
  | .bankCfgCache w => w.okBank 0
  | .bankCfgSp w => w.okBank 1
  | .bankCfgFifo w => w.okBank 2
  | .bankCfgQuery w => w.okBank 3
  | .farBegin w => guardAlways w.guard && uniOk w.rd
  | .farEnd w => guardAlways w.guard && uniOk w.rd && w.ra == 0 && w.rb == 0 && w.noPat && w.rc == 0
  | .farAbort w => guardAlways w.guard && w.okEmpty
  | .farStat w => guardAlways w.guard && uniOk w.rd && w.ra == 0 && w.rb == 0 && w.noPat && w.rc == 0
  | .subOpen w => w.okRange true && uniOk w.rc
  | .subClose w => guardAlways w.guard && uniOk w.rd && w.ra == 0 && w.rb.toNat < 32 && w.noPat && w.rc == 0
  | .subFlush w => guardAlways w.guard && w.okEmpty
  | .msgSend w => guardOk w.guard && w.rd == 0 && srcOk false 1 w.pa w.ra && w.pb == 0 && vecOk 2 w.rb && decide (w.rc.toNat < 16)
  | .msgWait w => w.okMsg
  | .msgPop w => w.okMsg
  | .cp w => w.okCp
  | .cpCommit w => w.okCommit
  | .cpTile w => w.okTile
  | .cpZero w => guardAlways w.guard && w.rd == 0 && uniOk w.ra && w.pa == 0 && uniOk w.rb && w.pb == 0 && w.rc == 0
  | .cpGather w => w.okGather
  | .cpScatter w => w.okGather
  | .cpUnpack w => w.okSparse 3 (if w.pa.toNat % 4 = 0 then 2 else 3) false
  | .cpPack w => w.okSparse 1 2 false
  | .cpIsect w => w.okSparse 1 5 false
  | .cpMerge w => w.okSparse 1 3 true
  | .mma w => w.okMma
  | .mmaReuse w => w.okMma
  | .mloop w => w.okMloop
  | .maccZero w => guardAlways w.guard && uniOk w.rd && w.ra == 0 && w.pa.toNat < 8 && w.rb == 0 && w.pb == 0 && w.rc == 0
  | .maccLd w => w.okMacc 8
  | .maccSt w => w.okMaccSt
  | .mhad w => w.okMhad
  | .lqPush w => guardAlways w.guard && uniOk w.rd && uniOk w.ra && w.pa.toNat < 32 && w.rb == 0 && w.pb == 0 && w.rc == 0
  | .lqPoll w => guardAlways w.guard && uniOk w.rd && w.ra == 0 && w.pa.toNat < 16 && w.rb == 0 && w.pb == 0 && w.rc == 0
  | .remoteArrival _ => true
  | .stageToggle _ => true
  | .counterAdvance _ => true
  | .subscriptionUpdate _ => true
  | .subBufferTimeout _ => true
  | .sliceRequest _ _ _ _ => true
  | .wordRecall _ => true
  | .lineRecall _ => true
  | .towerRequest _ => true
  | .redirectReply _ _ _ => true
  | .regionEdge _ => true
  | .loadReturn _ _ => true
  | .storeCompletion _ _ => true
  | .atomicReturn _ _ => true
  | .spAccessPerformed _ => true
  | .leaseExpiry _ => true
  | .pinExpiry _ => true
  | .fragmentLaunch _ => true
  | .registerPull _ _ => true
  | .writeBack _ => true
  | .joinCompletion _ => true
  | .regionCommit _ => true
  | .abortTaken _ => true
  | .regionTimeout _ => true
  | .ringMessage _ => true
  | .messageRetry _ => true
  | .ringAgentMessage _ => true
  | .backoffExpiry _ => true
  | .copyPiece _ => true
  | .gatherElement _ => true
  | .scatterElement _ => true
  | .sparseConversion _ => true
  | .batchLanding _ => true
  | .towerTicketAdvance _ => true
  | .engineFault _ => true
  | .spillRingFault _ _ => true
  | .matrixStep _ => true
  | .matrixTileMove _ => true
  | .hadamardTransform _ => true
  | .matrixTimelineAdvance _ => true
  | .lqPushPublish _ => true
  | .queueHeaderJudge _ _ => true
  | .recordConsume _ _ => true
  | .gridStart _ => true
  | .teamPlacement _ _ => true
  | .teamStart _ => true
  | .teamExited _ => true
  | .teamSave _ => true
  | .teamRestore _ => true
  | .imageSignalApply _ => true
  | .powerGate _ => true
  | .powerGateRestore _ => true
  | .coreReset _ => true
  | .watchdogPreempt _ => true
  | .watchdogStall _ => true
  | .softError _ => true
  | .patrolScrub _ => true
  | .rowSparing _ => true
  | .pseudoChannelRetirement _ => true
  | .clusterRetirement _ => true
  | .laneSparing _ => true
  | .shootdown _ _ _ => true
  | .dataFlit _ _ => true
  | .idleFlit _ _ => true
  | .retryRequest _ _ => true
  | .auditPoint _ => true
  | .audit _ _ => true
  | .resync _ _ => true
  | .timeSync _ _ => true
  | .timeSyncTimer _ => true
  | .linkRetrain _ _ => true
  | .deviceOutOfStep _ => true
  | .deviceInStep _ => true
  | .remoteRequest _ => true
  | .hostRead _ _ => true
  | .hostWrite _ _ => true
  | .hostWindowWrite _ _ _ => true
  | .register _ _ => true
  | .enable _ => true
  | .disable _ => true
  | .preEmpt _ => true
  | .restore _ => true
  | .kill _ => true
  | .destroy _ => true
  | .doorbellIllegalCommand _ _ => true
  | .faultResponseReplay _ _ => true
  | .faultResponseDeliver _ _ => true
  | .faultResponseTerminate _ _ => true
  | .registerWrite _ _ => true
  | .linkPolicyWrite _ => true
  | .hostVacateReply _ => true
  | .attestationReport _ => true
  | .keyLoad _ => true
  | .moduleReset _ _ => true
  | .thermalThrottle _ => true
  | .thermalShutdown => true
  | .illegalEncoding _ _ => true
  | .variableLatencyResult _ _ => true
  | .wctPassed _ => true
  | .linkTraining _ => true
  | .hostCompletion _ _ => true

end Sys2Proof
end

