-- ==== Sys2Proof/Decode.lean ====
section
/-!
DEFINITION. Decoding and encoding of the instruction words (R32 to R47). `decode` is total on any bytes and rejects by name; `encode` lays an instruction out as the hardware stores it. Both are written from Tables 2.1 to 2.10.
-/

namespace Sys2Proof

/-- Why bytes are no instruction (R47, Table 2.11). -/
inductive Reject where
  /-- Fewer bytes than the length in the first parcel asks for. -/
  | short
  /-- The parcel 0x0000 (R33). -/
  | zeroParcel
  /-- A class or op that Table 2.10 does not list, or an A64-I word with one of bits `[63:59]` set. -/
  | unassigned
  /-- A listed operation whose fields break R36, R41, R42 or R44, or use a field that must be zero. -/
  | malformed
deriving DecidableEq, Repr

/-- The bits `[63:27]` of an A64 word (R35). -/
def A64.high (w : A64) : BitVec 37 := w.rc ++ w.pb ++ w.rb ++ w.pa ++ w.ra

/-- An A64 word from its bits `[63:27]` and the fields every form shares. -/
def A64.ofHigh (h : BitVec 37) (rd : BitVec 7) (guard : BitVec 4) (stall : BitVec 3) : A64 :=
  { rc := h.extractLsb' 30 7, pb := h.extractLsb' 22 8, rb := h.extractLsb' 15 7, pa := h.extractLsb' 7 8,
    ra := h.extractLsb' 0 7, rd := rd, guard := guard, stall := stall }

/-- Bits `[63:59]`, which must be zero in an A64-I word (R37). -/
def A64.aiHigh (w : A64) : BitVec 5 := w.high.extractLsb' 32 5

def A64.toAI (w : A64) : AI :=
  { imm := w.high.extractLsb' 0 32, rd := w.rd, guard := w.guard, stall := w.stall }

def AI.toA64 (w : AI) : A64 := A64.ofHigh (0#5 ++ w.imm) w.rd w.guard w.stall

def A64.toAM (w : A64) (mode : BitVec 2) (code : BitVec 4) : AM :=
  let h := w.high
  { mode := mode, code := code, off := h.extractLsb' 19 18, scope := h.extractLsb' 16 3, rtype := h.extractLsb' 14 2,
    scale := h.extractLsb' 12 2, vindex := h.extractLsb' 5 7, sbase := h.extractLsb' 0 5,
    rd := w.rd, guard := w.guard, stall := w.stall }

def AM.toA64 (w : AM) : A64 :=
  A64.ofHigh (w.off ++ w.scope ++ w.rtype ++ w.scale ++ w.vindex ++ w.sbase) w.rd w.guard w.stall

def A64.toAMT (w : A64) (code : BitVec 4) : AMT :=
  let h := w.high
  { code := code, off := h.extractLsb' 25 12, ety := h.extractLsb' 21 4, mode := h.extractLsb' 19 2,
    scope := h.extractLsb' 16 3, rtype := h.extractLsb' 14 2, scale := h.extractLsb' 12 2, vindex := h.extractLsb' 5 7,
    sbase := h.extractLsb' 0 5, rd := w.rd, guard := w.guard, stall := w.stall }

def AMT.toA64 (w : AMT) : A64 :=
  A64.ofHigh (w.off ++ w.ety ++ w.mode ++ w.scope ++ w.rtype ++ w.scale ++ w.vindex ++ w.sbase) w.rd w.guard w.stall

/-- A word by its length and the field that selects the operation: op of a C16 word, major of a B32 word, class and op of an A64 word; `none` for a step that has no word. -/
inductive RawWord where
  | c16 (op : BitVec 4) (w : C16)
  | b32 (major : BitVec 6) (w : B32)
  | a64 (cls : BitVec 5) (op : BitVec 6) (w : A64)
  | none
deriving DecidableEq, Repr

/-- Tables 2.2, 2.4 and 2.10: where each instruction stands in the opcode map. -/
def Instr.raw : Instr → RawWord
  | .movB32C16 w => .c16 0 w
  | .addS32C16 w => .c16 1 w
  | .subS32C16 w => .c16 2 w
  | .andB32C16 w => .c16 3 w
  | .orB32C16 w => .c16 4 w
  | .xorB32C16 w => .c16 5 w
  | .shlB32C16 w => .c16 6 w
  | .shrB32C16 w => .c16 7 w
  | .sarB32C16 w => .c16 8 w
  | .minS32C16 w => .c16 9 w
  | .maxS32C16 w => .c16 10 w
  | .faddF32C16 w => .c16 11 w
  | .fsubF32C16 w => .c16 12 w
  | .fmulF32C16 w => .c16 13 w
  | .fminF32C16 w => .c16 14 w
  | .fmaxF32C16 w => .c16 15 w
  | .addS32B32 w => .b32 0 w
  | .addS32ImmB32 w => .b32 1 w
  | .subS32B32 w => .b32 2 w
  | .subS32ImmB32 w => .b32 3 w
  | .minS32B32 w => .b32 4 w
  | .maxS32B32 w => .b32 5 w
  | .minN32B32 w => .b32 6 w
  | .maxN32B32 w => .b32 7 w
  | .absS32B32 w => .b32 8 w
  | .addSatS32B32 w => .b32 9 w
  | .mulLoS32B32 w => .b32 10 w
  | .mulHiN32B32 w => .b32 11 w
  | .madLoS32B32 w => .b32 12 w
  | .dp4S8B32 w => .b32 13 w
  | .andB32B32 w => .b32 14 w
  | .orB32B32 w => .b32 15 w
  | .xorB32B32 w => .b32 16 w
  | .andnB32B32 w => .b32 17 w
  | .andB32ImmB32 w => .b32 18 w
  | .orB32ImmB32 w => .b32 19 w
  | .notB32B32 w => .b32 20 w
  | .shlB32B32 w => .b32 21 w
  | .shrB32B32 w => .b32 22 w
  | .sarB32B32 w => .b32 23 w
  | .shlB32ImmB32 w => .b32 24 w
  | .shrB32ImmB32 w => .b32 25 w
  | .sarB32ImmB32 w => .b32 26 w
  | .popcB32B32 w => .b32 27 w
  | .popcLoB32B32 w => .b32 28 w
  | .clzB32B32 w => .b32 29 w
  | .hcellB32 w => .b32 30 w
  | .movB32B32 w => .b32 31 w
  | .cmpEqS32B32 w => .b32 32 w
  | .cmpLtS32B32 w => .b32 33 w
  | .cmpLtN32B32 w => .b32 34 w
  | .cmpGeS32B32 w => .b32 35 w
  | .fcmpLtF32B32 w => .b32 36 w
  | .fcmpGeF32B32 w => .b32 37 w
  | .faddF32B32 w => .b32 38 w
  | .fsubF32B32 w => .b32 39 w
  | .fmulF32B32 w => .b32 40 w
  | .ffmaF32B32 w => .b32 41 w
  | .fminF32B32 w => .b32 42 w
  | .fmaxF32B32 w => .b32 43 w
  | .fabsF32B32 w => .b32 44 w
  | .fnegF32B32 w => .b32 45 w
  | .faddF16x2B32 w => .b32 46 w
  | .fmulF16x2B32 w => .b32 47 w
  | .ffmaF16x2B32 w => .b32 48 w
  | .faddBf16x2B32 w => .b32 49 w
  | .fmulBf16x2B32 w => .b32 50 w
  | .ffmaBf16x2B32 w => .b32 51 w
  | .faddF64B32 w => .b32 52 w
  | .fmulF64B32 w => .b32 53 w
  | .ffmaF64B32 w => .b32 54 w
  | .cvtF32S32B32 w => .b32 55 w
  | .cvtRzS32F32B32 w => .b32 56 w
  | .frcpF32B32 w => .b32 57 w
  | .frsqF32B32 w => .b32 58 w
  | .fexp2F32B32 w => .b32 59 w
  | .flog2F32B32 w => .b32 60 w
  | .sAddB32 w => .b32 61 w
  | .sAddImmB32 w => .b32 62 w
  | .sMovB32 w => .b32 63 w
  | .add w => .a64 0 0 w
  | .sub w => .a64 0 1 w
  | .addc w => .a64 0 2 w
  | .subb w => .a64 0 3 w
  | .addSatS32 w => .a64 0 4 w
  | .addSatN32 w => .a64 0 5 w
  | .subSatS32 w => .a64 0 6 w
  | .subSatN32 w => .a64 0 7 w
  | .minS32 w => .a64 0 8 w
  | .minN32 w => .a64 0 9 w
  | .maxS32 w => .a64 0 10 w
  | .maxN32 w => .a64 0 11 w
  | .absS32 w => .a64 0 12 w
  | .negS32 w => .a64 0 13 w
  | .addB64 w => .a64 0 16 w
  | .subB64 w => .a64 0 17 w
  | .minS64 w => .a64 0 24 w
  | .minN64 w => .a64 0 25 w
  | .maxS64 w => .a64 0 26 w
  | .maxN64 w => .a64 0 27 w
  | .mulLo w => .a64 1 0 w
  | .mulHiS32 w => .a64 1 1 w
  | .mulHiN32 w => .a64 1 2 w
  | .madLo w => .a64 1 3 w
  | .madHiS32 w => .a64 1 4 w
  | .madHiN32 w => .a64 1 5 w
  | .divS32 w => .a64 1 6 w
  | .divN32 w => .a64 1 7 w
  | .remS32 w => .a64 1 8 w
  | .remN32 w => .a64 1 9 w
  | .dp4S8 w => .a64 1 10 w
  | .dp4N8 w => .a64 1 11 w
  | .and w => .a64 2 0 w
  | .or w => .a64 2 1 w
  | .xor w => .a64 2 2 w
  | .andn w => .a64 2 3 w
  | .not w => .a64 2 4 w
  | .shl w => .a64 2 5 w
  | .shr w => .a64 2 6 w
  | .sar w => .a64 2 7 w
  | .rol w => .a64 2 8 w
  | .bfeS32 w => .a64 2 9 w
  | .bfeN32 w => .a64 2 10 w
  | .bfi w => .a64 2 11 w
  | .brev w => .a64 2 12 w
  | .popc w => .a64 2 13 w
  | .popcLo w => .a64 2 14 w
  | .clz w => .a64 2 15 w
  | .ctz w => .a64 2 16 w
  | .hcell w => .a64 2 17 w
  | .shlB64 w => .a64 2 24 w
  | .shrB64 w => .a64 2 25 w
  | .sarB64 w => .a64 2 26 w
  | .cmp w => .a64 3 0 w
  | .fcmp w => .a64 3 1 w
  | .sel w => .a64 3 2 w
  | .mov w => .a64 3 3 w
  | .li w => .a64 3 4 w.toA64
  | .pand w => .a64 3 8 w
  | .por w => .a64 3 9 w
  | .pxor w => .a64 3 10 w
  | .pnot w => .a64 3 11 w
  | .faddF32 w => .a64 4 0 w
  | .fsubF32 w => .a64 4 1 w
  | .fmulF32 w => .a64 4 2 w
  | .fdivF32 w => .a64 4 3 w
  | .fsqrtF32 w => .a64 4 4 w
  | .frndF32 w => .a64 4 5 w
  | .ldexpF32 w => .a64 4 6 w
  | .fminF32 w => .a64 4 7 w
  | .fmaxF32 w => .a64 4 8 w
  | .fminNanF32 w => .a64 4 9 w
  | .fmaxNanF32 w => .a64 4 10 w
  | .fabsF32 w => .a64 4 11 w
  | .fnegF32 w => .a64 4 12 w
  | .fclassF32 w => .a64 4 13 w
  | .faddF64 w => .a64 6 0 w
  | .fsubF64 w => .a64 6 1 w
  | .fmulF64 w => .a64 6 2 w
  | .fdivF64 w => .a64 6 3 w
  | .fsqrtF64 w => .a64 6 4 w
  | .frndF64 w => .a64 6 5 w
  | .ldexpF64 w => .a64 6 6 w
  | .fminF64 w => .a64 6 7 w
  | .fmaxF64 w => .a64 6 8 w
  | .fminNanF64 w => .a64 6 9 w
  | .fmaxNanF64 w => .a64 6 10 w
  | .fabsF64 w => .a64 6 11 w
  | .fnegF64 w => .a64 6 12 w
  | .fclassF64 w => .a64 6 13 w
  | .cvt w => .a64 7 0 w
  | .q4xEnc w => .a64 7 1 w
  | .q4xDec w => .a64 7 2 w
  | .frcp w => .a64 8 0 w
  | .frsq w => .a64 8 1 w
  | .fexp2 w => .a64 8 2 w
  | .flog2 w => .a64 8 3 w
  | .fsin w => .a64 8 4 w
  | .fcos w => .a64 8 5 w
  | .ftanh w => .a64 8 6 w
  | .br w => .a64 9 0 w.toA64
  | .brInd w => .a64 9 1 w
  | .call w => .a64 9 2 w.toA64
  | .ret w => .a64 9 3 w
  | .exit w => .a64 9 4 w
  | .nop w => .a64 9 5 w
  | .yield w => .a64 9 6 w
  | .trap w => .a64 9 7 w.toA64
  | .brk w => .a64 9 8 w
  | .tret w => .a64 9 9 w
  | .movSr w => .a64 10 0 w
  | .csrRd w => .a64 10 1 w.toA64
  | .csrWr w => .a64 10 2 w.toA64
  | .rget w => .a64 10 3 w
  | .rput w => .a64 10 4 w
  | .sAdd w => .a64 11 0 w
  | .sSub w => .a64 11 1 w
  | .sMul w => .a64 11 2 w
  | .sAnd w => .a64 11 3 w
  | .sOr w => .a64 11 4 w
  | .sXor w => .a64 11 5 w
  | .sShl w => .a64 11 6 w
  | .sShr w => .a64 11 7 w
  | .sSar w => .a64 11 8 w
  | .sLi w => .a64 11 9 w.toA64
  | .sMov w => .a64 11 10 w
  | .sCmp w => .a64 11 11 w
  | .sSel w => .a64 11 12 w
  | .sLd w => .a64 11 13 w.toA64
  | .sRdl w => .a64 11 14 w
  | .shfl w => .a64 12 0 w
  | .voteAny w => .a64 12 1 w
  | .voteAll w => .a64 12 2 w
  | .voteBallot w => .a64 12 3 w
  | .matchEq w => .a64 12 4 w
  | .redLane w => .a64 12 5 w
  | .scanLane w => .a64 12 6 w
  | .segred w => .a64 12 7 w
  | .lsync w => .a64 12 8 w
  | .topkIns w => .a64 12 9 w
  | .brDiv w => .a64 13 0 w.toA64
  | .join w => .a64 13 1 w
  | .barInit w => .a64 13 2 w
  | .barArr w => .a64 13 3 w
  | .barWait w => .a64 13 4 w
  | .barSync w => .a64 13 5 w
  | .stgAcq w => .a64 13 6 w
  | .stgRel w => .a64 13 7 w
  | .waitCnt w => .a64 17 0 w
  | .waitWct w => .a64 17 1 w
  | .waitTl w => .a64 17 2 w
  | .inval w => .a64 17 3 w
  | .wb w => .a64 17 4 w
  | .seal w => .a64 17 5 w
  | .unseal w => .a64 17 6 w
  | .l2Pin w => .a64 17 7 w
  | .l2Unpin w => .a64 17 8 w
  | .farBegin w => .a64 18 0 w.toA64
  | .farEnd w => .a64 18 1 w
  | .farAbort w => .a64 18 2 w
  | .farStat w => .a64 18 3 w
  | .subOpen w => .a64 19 0 w
  | .subClose w => .a64 19 1 w
  | .subFlush w => .a64 19 2 w
  | .msgSend w => .a64 19 3 w
  | .msgWait w => .a64 19 4 w
  | .msgPop w => .a64 19 5 w
  | .cp w => .a64 20 0 w
  | .cpCommit w => .a64 20 1 w
  | .cpTile w => .a64 20 2 w
  | .cpZero w => .a64 20 3 w
  | .cpGather w => .a64 20 4 w
  | .cpScatter w => .a64 20 5 w
  | .cpUnpack w => .a64 20 6 w
  | .cpPack w => .a64 20 7 w
  | .cpIsect w => .a64 20 8 w
  | .cpMerge w => .a64 20 9 w
  | .mma w => .a64 21 0 w
  | .mmaReuse w => .a64 21 1 w
  | .mloop w => .a64 21 2 w
  | .maccZero w => .a64 21 3 w
  | .maccLd w => .a64 21 4 w
  | .maccSt w => .a64 21 5 w
  | .mhad w => .a64 21 6 w
  | .lqPush w => .a64 22 0 w
  | .lqPoll w => .a64 22 1 w
  | .ffmaF32 rm w => .a64 4 (0b010#3 ++ rm) w
  | .ffmaF64 rm w => .a64 6 (0b010#3 ++ rm) w
  | .faddX2 bf w => .a64 5 (bf ++ 0#5) w
  | .fsubX2 bf w => .a64 5 (bf ++ 1#5) w
  | .fmulX2 bf w => .a64 5 (bf ++ 2#5) w
  | .fminX2 bf w => .a64 5 (bf ++ 7#5) w
  | .fmaxX2 bf w => .a64 5 (bf ++ 8#5) w
  | .fminNanX2 bf w => .a64 5 (bf ++ 9#5) w
  | .fmaxNanX2 bf w => .a64 5 (bf ++ 10#5) w
  | .fabsX2 bf w => .a64 5 (bf ++ 11#5) w
  | .fnegX2 bf w => .a64 5 (bf ++ 12#5) w
  | .ffmaX2 bf rm w => .a64 5 (bf ++ 0b10#2 ++ rm) w
  | .ld w => .a64 14 (w.mode ++ w.code) w.toA64
  | .st w => .a64 14 (w.mode ++ w.code) w.toA64
  | .prefetch w => .a64 14 (w.mode ++ w.code) w.toA64
  | .ldSp w => .a64 15 (w.mode ++ w.code) w.toA64
  | .stSp w => .a64 15 (w.mode ++ w.code) w.toA64
  | .atom w => .a64 16 (0#2 ++ w.code) w.toA64
  | .atomCas w => .a64 16 (0#2 ++ w.code) w.toA64
  | .atomAddlim w => .a64 16 (0#2 ++ w.code) w.toA64
  | .atomSp w => .a64 16 (1#2 ++ w.code) w.toA64
  | .red w => .a64 16 (2#2 ++ w.code) w.toA64
  | .bankCfgCache w => .a64 17 9 w
  | .bankCfgSp w => .a64 17 9 w
  | .bankCfgFifo w => .a64 17 9 w
  | .bankCfgQuery w => .a64 17 9 w
  | .remoteArrival _ => .none
  | .stageToggle _ => .none
  | .counterAdvance _ => .none
  | .subscriptionUpdate _ => .none
  | .subBufferTimeout _ => .none
  | .sliceRequest _ _ _ _ => .none
  | .wordRecall _ => .none
  | .lineRecall _ => .none
  | .towerRequest _ => .none
  | .redirectReply _ _ _ => .none
  | .regionEdge _ => .none
  | .loadReturn _ _ => .none
  | .storeCompletion _ _ => .none
  | .atomicReturn _ _ => .none
  | .spAccessPerformed _ => .none
  | .leaseExpiry _ => .none
  | .pinExpiry _ => .none
  | .fragmentLaunch _ => .none
  | .registerPull _ _ => .none
  | .writeBack _ => .none
  | .joinCompletion _ => .none
  | .regionCommit _ => .none
  | .abortTaken _ => .none
  | .regionTimeout _ => .none
  | .ringMessage _ => .none
  | .messageRetry _ => .none
  | .ringAgentMessage _ => .none
  | .backoffExpiry _ => .none
  | .copyPiece _ => .none
  | .gatherElement _ => .none
  | .scatterElement _ => .none
  | .sparseConversion _ => .none
  | .batchLanding _ => .none
  | .towerTicketAdvance _ => .none
  | .engineFault _ => .none
  | .spillRingFault _ _ => .none
  | .matrixStep _ => .none
  | .matrixTileMove _ => .none
  | .hadamardTransform _ => .none
  | .matrixTimelineAdvance _ => .none
  | .lqPushPublish _ => .none
  | .queueHeaderJudge _ _ => .none
  | .recordConsume _ _ => .none
  | .gridStart _ => .none
  | .teamPlacement _ _ => .none
  | .teamStart _ => .none
  | .teamExited _ => .none
  | .teamSave _ => .none
  | .teamRestore _ => .none
  | .imageSignalApply _ => .none
  | .powerGate _ => .none
  | .powerGateRestore _ => .none
  | .coreReset _ => .none
  | .watchdogPreempt _ => .none
  | .watchdogStall _ => .none
  | .softError _ => .none
  | .patrolScrub _ => .none
  | .rowSparing _ => .none
  | .pseudoChannelRetirement _ => .none
  | .clusterRetirement _ => .none
  | .laneSparing _ => .none
  | .shootdown _ _ _ => .none
  | .dataFlit _ _ => .none
  | .idleFlit _ _ => .none
  | .retryRequest _ _ => .none
  | .auditPoint _ => .none
  | .audit _ _ => .none
  | .resync _ _ => .none
  | .timeSync _ _ => .none
  | .timeSyncTimer _ => .none
  | .linkRetrain _ _ => .none
  | .deviceOutOfStep _ => .none
  | .deviceInStep _ => .none
  | .remoteRequest _ => .none
  | .hostRead _ _ => .none
  | .hostWrite _ _ => .none
  | .hostWindowWrite _ _ _ => .none
  | .register _ _ => .none
  | .enable _ => .none
  | .disable _ => .none
  | .preEmpt _ => .none
  | .restore _ => .none
  | .kill _ => .none
  | .destroy _ => .none
  | .doorbellIllegalCommand _ _ => .none
  | .faultResponseReplay _ _ => .none
  | .faultResponseDeliver _ _ => .none
  | .faultResponseTerminate _ _ => .none
  | .registerWrite _ _ => .none
  | .linkPolicyWrite _ => .none
  | .hostVacateReply _ => .none
  | .attestationReport _ => .none
  | .keyLoad _ => .none
  | .moduleReset _ _ => .none
  | .thermalThrottle _ => .none
  | .thermalShutdown => .none
  | .illegalEncoding _ _ => .none
  | .variableLatencyResult _ _ => .none
  | .wctPassed _ => .none
  | .linkTraining _ => .none
  | .hostCompletion _ _ => .none

/-- R33, Table 2.1. -/
def bitsC16 (op : BitVec 4) (w : C16) : BitVec 16 := w.b ++ w.d ++ op ++ w.s ++ 0#1

/-- R34, Table 2.3. -/
def bitsB32 (major : BitVec 6) (w : B32) : BitVec 32 := w.b ++ w.a ++ w.d ++ major ++ w.stall ++ 1#2

/-- R35, Table 2.5. -/
def bitsA64 (cls : BitVec 5) (op : BitVec 6) (w : A64) : BitVec 64 :=
  w.high ++ w.rd ++ w.guard ++ cls ++ op ++ w.stall ++ 3#2

/-- The length of a word in bytes (R32); 0 for a step that has no word. -/
def RawWord.len : RawWord → Nat
  | .c16 _ _ => 2
  | .b32 _ _ => 4
  | .a64 _ _ _ => 8
  | .none => 0

/-- The word's parcels, zero-extended to 64 bits. -/
def RawWord.bits : RawWord → BitVec 64
  | .c16 op w => (bitsC16 op w).setWidth 64
  | .b32 m w => (bitsB32 m w).setWidth 64
  | .a64 c o w => bitsA64 c o w
  | .none => 0

/-- The stall value of a word (R19). -/
def RawWord.stall : RawWord → Nat
  | .c16 _ w => 2 * w.s.toNat
  | .b32 _ w => w.stall.toNat
  | .a64 _ _ w => w.stall.toNat
  | .none => 0

/-- The low n bytes of a word, lowest address first (R4). -/
def bytesLE (n : Nat) (v : BitVec 64) : List Byte := (List.range n).map fun i => v.extractLsb' (8 * i) 8

/-- The number that bytes stand for, lowest address first (R4). -/
def natLE : List Byte → Nat
  | [] => 0
  | b :: bs => b.toNat + 256 * natLE bs

/-- The bytes of an instruction as memory holds them. -/
def encode (i : Instr) : List Byte := bytesLE i.raw.len i.raw.bits

/-- Table 2.10, class 0. -/
def decodeClass0 (op : Nat) (w : A64) : Option Instr :=
  match op with
  | 0 => some (.add w)
  | 1 => some (.sub w)
  | 2 => some (.addc w)
  | 3 => some (.subb w)
  | 4 => some (.addSatS32 w)
  | 5 => some (.addSatN32 w)
  | 6 => some (.subSatS32 w)
  | 7 => some (.subSatN32 w)
  | 8 => some (.minS32 w)
  | 9 => some (.minN32 w)
  | 10 => some (.maxS32 w)
  | 11 => some (.maxN32 w)
  | 12 => some (.absS32 w)
  | 13 => some (.negS32 w)
  | 16 => some (.addB64 w)
  | 17 => some (.subB64 w)
  | 24 => some (.minS64 w)
  | 25 => some (.minN64 w)
  | 26 => some (.maxS64 w)
  | 27 => some (.maxN64 w)
  | _ => none

/-- Table 2.10, class 1. -/
def decodeClass1 (op : Nat) (w : A64) : Option Instr :=
  match op with
  | 0 => some (.mulLo w)
  | 1 => some (.mulHiS32 w)
  | 2 => some (.mulHiN32 w)
  | 3 => some (.madLo w)
  | 4 => some (.madHiS32 w)
  | 5 => some (.madHiN32 w)
  | 6 => some (.divS32 w)
  | 7 => some (.divN32 w)
  | 8 => some (.remS32 w)
  | 9 => some (.remN32 w)
  | 10 => some (.dp4S8 w)
  | 11 => some (.dp4N8 w)
  | _ => none

/-- Table 2.10, class 2. -/
def decodeClass2 (op : Nat) (w : A64) : Option Instr :=
  match op with
  | 0 => some (.and w)
  | 1 => some (.or w)
  | 2 => some (.xor w)
  | 3 => some (.andn w)
  | 4 => some (.not w)
  | 5 => some (.shl w)
  | 6 => some (.shr w)
  | 7 => some (.sar w)
  | 8 => some (.rol w)
  | 9 => some (.bfeS32 w)
  | 10 => some (.bfeN32 w)
  | 11 => some (.bfi w)
  | 12 => some (.brev w)
  | 13 => some (.popc w)
  | 14 => some (.popcLo w)
  | 15 => some (.clz w)
  | 16 => some (.ctz w)
  | 17 => some (.hcell w)
  | 24 => some (.shlB64 w)
  | 25 => some (.shrB64 w)
  | 26 => some (.sarB64 w)
  | _ => none

/-- Table 2.10, class 3. -/
def decodeClass3 (op : Nat) (w : A64) : Option Instr :=
  match op with
  | 0 => some (.cmp w)
  | 1 => some (.fcmp w)
  | 2 => some (.sel w)
  | 3 => some (.mov w)
  | 4 => if w.aiHigh == 0 then some (.li w.toAI) else none
  | 8 => some (.pand w)
  | 9 => some (.por w)
  | 10 => some (.pxor w)
  | 11 => some (.pnot w)
  | _ => none

/-- Table 2.10, class 4. -/
def decodeClass4 (op : Nat) (w : A64) : Option Instr :=
  match op with
  | 0 => some (.faddF32 w)
  | 1 => some (.fsubF32 w)
  | 2 => some (.fmulF32 w)
  | 3 => some (.fdivF32 w)
  | 4 => some (.fsqrtF32 w)
  | 5 => some (.frndF32 w)
  | 6 => some (.ldexpF32 w)
  | 7 => some (.fminF32 w)
  | 8 => some (.fmaxF32 w)
  | 9 => some (.fminNanF32 w)
  | 10 => some (.fmaxNanF32 w)
  | 11 => some (.fabsF32 w)
  | 12 => some (.fnegF32 w)
  | 13 => some (.fclassF32 w)
  | 16 => some (.ffmaF32 0 w)
  | 17 => some (.ffmaF32 1 w)
  | 18 => some (.ffmaF32 2 w)
  | 19 => some (.ffmaF32 3 w)
  | 20 => some (.ffmaF32 4 w)
  | 21 => some (.ffmaF32 5 w)
  | 22 => some (.ffmaF32 6 w)
  | 23 => some (.ffmaF32 7 w)
  | _ => none

/-- Table 2.10, class 5. -/
def decodeClass5 (op : Nat) (w : A64) : Option Instr :=
  match op with
  | 0 => some (.faddX2 0 w)
  | 32 => some (.faddX2 1 w)
  | 1 => some (.fsubX2 0 w)
  | 33 => some (.fsubX2 1 w)
  | 2 => some (.fmulX2 0 w)
  | 34 => some (.fmulX2 1 w)
  | 7 => some (.fminX2 0 w)
  | 39 => some (.fminX2 1 w)
  | 8 => some (.fmaxX2 0 w)
  | 40 => some (.fmaxX2 1 w)
  | 9 => some (.fminNanX2 0 w)
  | 41 => some (.fminNanX2 1 w)
  | 10 => some (.fmaxNanX2 0 w)
  | 42 => some (.fmaxNanX2 1 w)
  | 11 => some (.fabsX2 0 w)
  | 43 => some (.fabsX2 1 w)
  | 12 => some (.fnegX2 0 w)
  | 44 => some (.fnegX2 1 w)
  | 16 => some (.ffmaX2 0 0 w)
  | 17 => some (.ffmaX2 0 1 w)
  | 18 => some (.ffmaX2 0 2 w)
  | 19 => some (.ffmaX2 0 3 w)
  | 20 => some (.ffmaX2 0 4 w)
  | 21 => some (.ffmaX2 0 5 w)
  | 22 => some (.ffmaX2 0 6 w)
  | 23 => some (.ffmaX2 0 7 w)
  | 48 => some (.ffmaX2 1 0 w)
  | 49 => some (.ffmaX2 1 1 w)
  | 50 => some (.ffmaX2 1 2 w)
  | 51 => some (.ffmaX2 1 3 w)
  | 52 => some (.ffmaX2 1 4 w)
  | 53 => some (.ffmaX2 1 5 w)
  | 54 => some (.ffmaX2 1 6 w)
  | 55 => some (.ffmaX2 1 7 w)
  | _ => none

/-- Table 2.10, class 6. -/
def decodeClass6 (op : Nat) (w : A64) : Option Instr :=
  match op with
  | 0 => some (.faddF64 w)
  | 1 => some (.fsubF64 w)
  | 2 => some (.fmulF64 w)
  | 3 => some (.fdivF64 w)
  | 4 => some (.fsqrtF64 w)
  | 5 => some (.frndF64 w)
  | 6 => some (.ldexpF64 w)
  | 7 => some (.fminF64 w)
  | 8 => some (.fmaxF64 w)
  | 9 => some (.fminNanF64 w)
  | 10 => some (.fmaxNanF64 w)
  | 11 => some (.fabsF64 w)
  | 12 => some (.fnegF64 w)
  | 13 => some (.fclassF64 w)
  | 16 => some (.ffmaF64 0 w)
  | 17 => some (.ffmaF64 1 w)
  | 18 => some (.ffmaF64 2 w)
  | 19 => some (.ffmaF64 3 w)
  | 20 => some (.ffmaF64 4 w)
  | 21 => some (.ffmaF64 5 w)
  | 22 => some (.ffmaF64 6 w)
  | 23 => some (.ffmaF64 7 w)
  | _ => none

/-- Table 2.10, class 7. -/
def decodeClass7 (op : Nat) (w : A64) : Option Instr :=
  match op with
  | 0 => some (.cvt w)
  | 1 => some (.q4xEnc w)
  | 2 => some (.q4xDec w)
  | _ => none

/-- Table 2.10, class 8. -/
def decodeClass8 (op : Nat) (w : A64) : Option Instr :=
  match op with
  | 0 => some (.frcp w)
  | 1 => some (.frsq w)
  | 2 => some (.fexp2 w)
  | 3 => some (.flog2 w)
  | 4 => some (.fsin w)
  | 5 => some (.fcos w)
  | 6 => some (.ftanh w)
  | _ => none

/-- Table 2.10, class 9. -/
def decodeClass9 (op : Nat) (w : A64) : Option Instr :=
  match op with
  | 0 => if w.aiHigh == 0 then some (.br w.toAI) else none
  | 1 => some (.brInd w)
  | 2 => if w.aiHigh == 0 then some (.call w.toAI) else none
  | 3 => some (.ret w)
  | 4 => some (.exit w)
  | 5 => some (.nop w)
  | 6 => some (.yield w)
  | 7 => if w.aiHigh == 0 then some (.trap w.toAI) else none
  | 8 => some (.brk w)
  | 9 => some (.tret w)
  | _ => none

/-- Table 2.10, class 10. -/
def decodeClass10 (op : Nat) (w : A64) : Option Instr :=
  match op with
  | 0 => some (.movSr w)
  | 1 => if w.aiHigh == 0 then some (.csrRd w.toAI) else none
  | 2 => if w.aiHigh == 0 then some (.csrWr w.toAI) else none
  | 3 => some (.rget w)
  | 4 => some (.rput w)
  | _ => none

/-- Table 2.10, class 11. -/
def decodeClass11 (op : Nat) (w : A64) : Option Instr :=
  match op with
  | 0 => some (.sAdd w)
  | 1 => some (.sSub w)
  | 2 => some (.sMul w)
  | 3 => some (.sAnd w)
  | 4 => some (.sOr w)
  | 5 => some (.sXor w)
  | 6 => some (.sShl w)
  | 7 => some (.sShr w)
  | 8 => some (.sSar w)
  | 9 => if w.aiHigh == 0 then some (.sLi w.toAI) else none
  | 10 => some (.sMov w)
  | 11 => some (.sCmp w)
  | 12 => some (.sSel w)
  | 13 => some (.sLd (w.toAM 2#2 5#4))
  | 14 => some (.sRdl w)
  | _ => none

/-- Table 2.10, class 12. -/
def decodeClass12 (op : Nat) (w : A64) : Option Instr :=
  match op with
  | 0 => some (.shfl w)
  | 1 => some (.voteAny w)
  | 2 => some (.voteAll w)
  | 3 => some (.voteBallot w)
  | 4 => some (.matchEq w)
  | 5 => some (.redLane w)
  | 6 => some (.scanLane w)
  | 7 => some (.segred w)
  | 8 => some (.lsync w)
  | 9 => some (.topkIns w)
  | _ => none

/-- Table 2.10, class 13. -/
def decodeClass13 (op : Nat) (w : A64) : Option Instr :=
  match op with
  | 0 => if w.aiHigh == 0 then some (.brDiv w.toAI) else none
  | 1 => some (.join w)
  | 2 => some (.barInit w)
  | 3 => some (.barArr w)
  | 4 => some (.barWait w)
  | 5 => some (.barSync w)
  | 6 => some (.stgAcq w)
  | 7 => some (.stgRel w)
  | _ => none

/-- Table 2.10, class 17. -/
noncomputable def decodeClass17 (op : Nat) (w : A64) : Option Instr :=
  match op with
  | 0 => some (.waitCnt w)
  | 1 => some (.waitWct w)
  | 2 => some (.waitTl w)
  | 3 => some (.inval w)
  | 4 => some (.wb w)
  | 5 => some (.seal w)
  | 6 => some (.unseal w)
  | 7 => some (.l2Pin w)
  | 8 => some (.l2Unpin w)
  | 9 => some (match w.rc.toNat % 4 with | 0 => .bankCfgCache w | 1 => .bankCfgSp w | 2 => .bankCfgFifo w | _ => .bankCfgQuery w)
  | _ => none

/-- Table 2.10, class 18. -/
noncomputable def decodeClass18 (op : Nat) (w : A64) : Option Instr :=
  match op with
  | 0 => if w.aiHigh == 0 then some (.farBegin w.toAI) else none
  | 1 => some (.farEnd w)
  | 2 => some (.farAbort w)
  | 3 => some (.farStat w)
  | _ => none

/-- Table 2.10, class 19. -/
noncomputable def decodeClass19 (op : Nat) (w : A64) : Option Instr :=
  match op with
  | 0 => some (.subOpen w)
  | 1 => some (.subClose w)
  | 2 => some (.subFlush w)
  | 3 => some (.msgSend w)
  | 4 => some (.msgWait w)
  | 5 => some (.msgPop w)
  | _ => none

/-- Table 2.10, class 20. -/
noncomputable def decodeClass20 (op : Nat) (w : A64) : Option Instr :=
  match op with
  | 0 => some (.cp w)
  | 1 => some (.cpCommit w)
  | 2 => some (.cpTile w)
  | 3 => some (.cpZero w)
  | 4 => some (.cpGather w)
  | 5 => some (.cpScatter w)
  | 6 => some (.cpUnpack w)
  | 7 => some (.cpPack w)
  | 8 => some (.cpIsect w)
  | 9 => some (.cpMerge w)
  | _ => none

/-- Table 2.10, class 21. -/
noncomputable def decodeClass21 (op : Nat) (w : A64) : Option Instr :=
  match op with
  | 0 => some (.mma w)
  | 1 => some (.mmaReuse w)
  | 2 => some (.mloop w)
  | 3 => some (.maccZero w)
  | 4 => some (.maccLd w)
  | 5 => some (.maccSt w)
  | 6 => some (.mhad w)
  | _ => none

/-- Table 2.10, class 22. -/
noncomputable def decodeClass22 (op : Nat) (w : A64) : Option Instr :=
  match op with
  | 0 => some (.lqPush w)
  | 1 => some (.lqPoll w)
  | _ => none

/-- Table 2.10, class 14: op is index mode and code (R109). -/
def decodeClass14 (op : BitVec 6) (w : A64) : Option Instr :=
  let mode := op.extractLsb' 4 2
  let code := op.extractLsb' 0 4
  let m := w.toAM mode code
  if code.toNat ≤ 6 then some (.ld m)
  else if 8 ≤ code.toNat ∧ code.toNat ≤ 12 then some (.st m)
  else if code = 13 then some (.prefetch m)
  else none

/-- Table 2.10, class 15 (R269). -/
noncomputable def decodeClass15 (op : BitVec 6) (w : A64) : Option Instr :=
  let mode := op.extractLsb' 4 2
  let code := op.extractLsb' 0 4
  let m := w.toAM mode code
  if code.toNat ≤ 6 then some (.ldSp m)
  else if 8 ≤ code.toNat ∧ code.toNat ≤ 12 then some (.stSp m)
  else none

/-- Table 2.10, class 16 (R272). -/
noncomputable def decodeClass16 (op : BitVec 6) (w : A64) : Option Instr :=
  let code := op.extractLsb' 0 4
  let m := w.toAMT code
  match (op.extractLsb' 4 2).toNat with
  | 0 => if code = 7 then some (.atomCas m) else if code = 8 then some (.atomAddlim m) else some (.atom m)
  | 1 => some (.atomSp m)
  | 2 => some (.red m)
  | _ => none

/-- Table 2.10: the operation an A64 word names. -/
noncomputable def decodeA64 (cls : BitVec 5) (op : BitVec 6) (w : A64) : Option Instr :=
  match cls.toNat with
  | 0 => decodeClass0 op.toNat w
  | 1 => decodeClass1 op.toNat w
  | 2 => decodeClass2 op.toNat w
  | 3 => decodeClass3 op.toNat w
  | 4 => decodeClass4 op.toNat w
  | 5 => decodeClass5 op.toNat w
  | 6 => decodeClass6 op.toNat w
  | 7 => decodeClass7 op.toNat w
  | 8 => decodeClass8 op.toNat w
  | 9 => decodeClass9 op.toNat w
  | 10 => decodeClass10 op.toNat w
  | 11 => decodeClass11 op.toNat w
  | 12 => decodeClass12 op.toNat w
  | 13 => decodeClass13 op.toNat w
  | 14 => decodeClass14 op w
  | 15 => decodeClass15 op w
  | 16 => decodeClass16 op w
  | 17 => decodeClass17 op.toNat w
  | 18 => decodeClass18 op.toNat w
  | 19 => decodeClass19 op.toNat w
  | 20 => decodeClass20 op.toNat w
  | 21 => decodeClass21 op.toNat w
  | 22 => decodeClass22 op.toNat w
  | _ => none

/-- Table 2.2. -/
def decodeC16 (op : BitVec 4) (w : C16) : Instr :=
  match op.toNat with
  | 0 => .movB32C16 w
  | 1 => .addS32C16 w
  | 2 => .subS32C16 w
  | 3 => .andB32C16 w
  | 4 => .orB32C16 w
  | 5 => .xorB32C16 w
  | 6 => .shlB32C16 w
  | 7 => .shrB32C16 w
  | 8 => .sarB32C16 w
  | 9 => .minS32C16 w
  | 10 => .maxS32C16 w
  | 11 => .faddF32C16 w
  | 12 => .fsubF32C16 w
  | 13 => .fmulF32C16 w
  | 14 => .fminF32C16 w
  | _ => .fmaxF32C16 w

/-- Table 2.4. -/
def decodeB32 (major : BitVec 6) (w : B32) : Instr :=
  match major.toNat with
  | 0 => .addS32B32 w
  | 1 => .addS32ImmB32 w
  | 2 => .subS32B32 w
  | 3 => .subS32ImmB32 w
  | 4 => .minS32B32 w
  | 5 => .maxS32B32 w
  | 6 => .minN32B32 w
  | 7 => .maxN32B32 w
  | 8 => .absS32B32 w
  | 9 => .addSatS32B32 w
  | 10 => .mulLoS32B32 w
  | 11 => .mulHiN32B32 w
  | 12 => .madLoS32B32 w
  | 13 => .dp4S8B32 w
  | 14 => .andB32B32 w
  | 15 => .orB32B32 w
  | 16 => .xorB32B32 w
  | 17 => .andnB32B32 w
  | 18 => .andB32ImmB32 w
  | 19 => .orB32ImmB32 w
  | 20 => .notB32B32 w
  | 21 => .shlB32B32 w
  | 22 => .shrB32B32 w
  | 23 => .sarB32B32 w
  | 24 => .shlB32ImmB32 w
  | 25 => .shrB32ImmB32 w
  | 26 => .sarB32ImmB32 w
  | 27 => .popcB32B32 w
  | 28 => .popcLoB32B32 w
  | 29 => .clzB32B32 w
  | 30 => .hcellB32 w
  | 31 => .movB32B32 w
  | 32 => .cmpEqS32B32 w
  | 33 => .cmpLtS32B32 w
  | 34 => .cmpLtN32B32 w
  | 35 => .cmpGeS32B32 w
  | 36 => .fcmpLtF32B32 w
  | 37 => .fcmpGeF32B32 w
  | 38 => .faddF32B32 w
  | 39 => .fsubF32B32 w
  | 40 => .fmulF32B32 w
  | 41 => .ffmaF32B32 w
  | 42 => .fminF32B32 w
  | 43 => .fmaxF32B32 w
  | 44 => .fabsF32B32 w
  | 45 => .fnegF32B32 w
  | 46 => .faddF16x2B32 w
  | 47 => .fmulF16x2B32 w
  | 48 => .ffmaF16x2B32 w
  | 49 => .faddBf16x2B32 w
  | 50 => .fmulBf16x2B32 w
  | 51 => .ffmaBf16x2B32 w
  | 52 => .faddF64B32 w
  | 53 => .fmulF64B32 w
  | 54 => .ffmaF64B32 w
  | 55 => .cvtF32S32B32 w
  | 56 => .cvtRzS32F32B32 w
  | 57 => .frcpF32B32 w
  | 58 => .frsqF32B32 w
  | 59 => .fexp2F32B32 w
  | 60 => .flog2F32B32 w
  | 61 => .sAddB32 w
  | 62 => .sAddImmB32 w
  | _ => .sMovB32 w

/-- R32: the length in bytes that a first parcel names. -/
def parcelLen (p : BitVec 16) : Nat :=
  if p.extractLsb' 0 1 = 0 then 2 else if p.extractLsb' 0 2 = 1 then 4 else 8

/-- The fields of the word whose parcels are `v`. -/
def fieldsC16 (v : BitVec 64) : C16 := { b := v.extractLsb' 11 5, d := v.extractLsb' 6 5, s := v.extractLsb' 1 1 }

def fieldsB32 (v : BitVec 64) : B32 :=
  { b := v.extractLsb' 25 7, a := v.extractLsb' 18 7, d := v.extractLsb' 11 7, stall := v.extractLsb' 2 3 }

def fieldsA64 (v : BitVec 64) : A64 :=
  A64.ofHigh (v.extractLsb' 27 37) (v.extractLsb' 20 7) (v.extractLsb' 16 4) (v.extractLsb' 2 3)

/-- The instruction a whole word of `n` bytes names, before the check of its fields. -/
noncomputable def decodeFields (n : Nat) (v : BitVec 64) : Option Instr :=
  match n with
  | 2 => some (decodeC16 (v.extractLsb' 2 4) (fieldsC16 v))
  | 4 => some (decodeB32 (v.extractLsb' 5 6) (fieldsB32 v))
  | _ => decodeA64 (v.extractLsb' 11 5) (v.extractLsb' 5 6) (fieldsA64 v)

/-- R47: the instruction a whole word names, or why it names none. -/
noncomputable def decodeWord (n : Nat) (v : BitVec 64) : Except Reject Instr :=
  if n = 2 ∧ v = 0 then .error .zeroParcel
  else match decodeFields n v with
    | none => .error .unassigned
    | some i => if i.wf then .ok i else .error .malformed

/-- R32, R47: the first instruction of a list of bytes and the bytes after it. -/
noncomputable def decode (bs : List Byte) : Except Reject (Instr × List Byte) :=
  match bs with
  | b0 :: b1 :: _ =>
    let n := parcelLen (b1 ++ b0)
    if bs.length < n then .error .short
    else match decodeWord n (BitVec.ofNat 64 (natLE (bs.take n))) with
      | .ok i => .ok (i, bs.drop n)
      | .error r => .error r
  | _ => .error .short

/-- The bytes of the word whose bits are `w`, numbered as the opcode table numbers them: the bits above `nbits` are zero. -/
def tableBytes (nbits w : Nat) : List Byte :=
  bytesLE 8 (BitVec.ofNat 64 (w % 2 ^ min nbits 64))

/-- The instruction that `decode` reads from the bytes of a word of the opcode table. -/
noncomputable def decodeTableWord (nbits w : Nat) : Option Instr :=
  match decode (tableBytes nbits w) with
  | .ok (i, _) => some i
  | .error _ => none

end Sys2Proof
end

