-- ==== Sys2Proof/Machine/Cipher.lean ====
section
/-!
DEFINITION. AES-256-XTS as R207 names it: the cipher of FIPS 197 on blocks of 16 bytes and the mode of IEEE 1619 on lines of 128 bytes. Bytes are numbers below 256, a block their list in order. Log entry 44.
-/

namespace Sys2Proof.Machine.Aes

/-- Multiplication in the field of 256 elements, modulo x^8 + x^4 + x^3 + x + 1. -/
def double (x : Nat) : Nat := if 128 ≤ x then (2 * x) ^^^ 0x11B else 2 * x

def mul (a b : Nat) : Nat := (List.range 8).foldr (fun (i acc : Nat) => double acc ^^^ (if b.testBit i then a else 0)) 0

/-- The inverse of an element, 0 for 0: its power 254. -/
def inv (x : Nat) : Nat := ((List.range 7).foldl (fun (p : Nat × Nat) (_ : Nat) => (mul p.1 p.1, mul p.2 (mul p.1 p.1))) (x, 1)).2

def rotl (x n : Nat) : Nat := (x <<< n ||| x >>> (8 - n)) % 256

/-- The substitution box and its inverse. -/
def sub (x : Nat) : Nat := let b := inv x; b ^^^ rotl b 1 ^^^ rotl b 2 ^^^ rotl b 3 ^^^ rotl b 4 ^^^ 0x63

def unsub (y : Nat) : Nat := inv (rotl y 1 ^^^ rotl y 3 ^^^ rotl y 6 ^^^ 0x05)

def xorAll (xs ys : List Nat) : List Nat := List.zipWith (fun x y => x ^^^ y) xs ys

def byteAt (xs : List Nat) (i : Nat) : Nat := xs.getD i 0

/-- The next word of the key schedule, word `i`, of those before it, latest first. -/
def nextWord (i : Nat) (ws : List (List Nat)) : List Nat :=
  let prev := ws.headD []
  let x := if i % 8 = 0 then xorAll ((prev.drop 1 ++ prev.take 1).map sub) [(List.range (i / 8 - 1)).foldl (fun (r _ : Nat) => double r) 1, 0, 0, 0]
    else if i % 8 = 4 then prev.map sub
    else prev
  xorAll (ws.getD 7 []) x

/-- The 15 round keys of a key of 32 bytes. -/
def roundKeys (key : List Nat) : List (List Nat) :=
  let first := ((List.range 8).map fun i => (key.drop (4 * i)).take 4).reverse
  let words := ((List.range 52).foldl (fun (ws : List (List Nat)) (i : Nat) => nextWord (i + 8) ws :: ws) first).reverse
  (List.range 15).map fun r => ((words.drop (4 * r)).take 4).flatten

/-- The rows of a block, which stands by columns, shifted; and its columns mixed by a row of coefficients. -/
def shift (by_ : Nat) (b : List Nat) : List Nat := (List.range 16).map fun i => byteAt b ((i + by_ * (i % 4)) % 16)

def mix (row b : List Nat) : List Nat :=
  (List.range 16).map fun i => (List.range 4).foldl (fun (a j : Nat) => a ^^^ mul (byteAt b (i / 4 * 4 + (i + j) % 4)) (byteAt row j)) 0

def encrypt (keys : List (List Nat)) (b : List Nat) : List Nat :=
  let round (x : List Nat) (r : Nat) : List Nat :=
    let y := shift 4 (x.map sub)
    xorAll (if r = 14 then y else mix [2, 3, 1, 1] y) (keys.getD r [])
  ((List.range 14).map fun i => i + 1).foldl round (xorAll b (keys.getD 0 []))

def decrypt (keys : List (List Nat)) (b : List Nat) : List Nat :=
  let round (x : List Nat) (r : Nat) : List Nat :=
    let y := xorAll ((shift 12 x).map unsub) (keys.getD r [])
    if r = 0 then y else mix [14, 11, 13, 9] y
  (List.range 14).reverse.foldl round (xorAll b (keys.getD 14 []))

/-- The 16 bytes of a number, lowest first, and back. -/
def block (x : Nat) : List Nat := (List.range 16).map fun i => x / 256 ^ i % 256

def number (b : List Nat) : Nat := b.foldr (fun (x acc : Nat) => x + 256 * acc) 0

/-- The tweak of the next block: multiplication by x in the field of 2^128 elements. -/
def nextTweak (t : Nat) : Nat := if 2 ^ 127 ≤ t then (2 * t - 2 ^ 128) ^^^ 0x87 else 2 * t

/-- One data unit of eight blocks, enciphered or deciphered; the key's first half is for the data, its second for the tweak, and the unit's number is the line's address. -/
def xts (crypt : List (List Nat) → List Nat → List Nat) (key : BitVec 512) (addr : Nat) (line : BitVec 1024) : BitVec 1024 :=
  let half (i : Nat) : List (List Nat) := roundKeys ((List.range 32).map fun j => key.toNat / 256 ^ (32 * i + j) % 256)
  let data := half 0
  let step (a : Nat × Nat) (j : Nat) : Nat × Nat :=
    let x := crypt data (block ((line.toNat / 2 ^ (128 * j) % 2 ^ 128) ^^^ a.1))
    (nextTweak a.1, a.2 + (number x ^^^ a.1) * 2 ^ (128 * j))
  BitVec.ofNat 1024 ((List.range 8).foldl step (number (encrypt (half 1) (block addr)), 0)).2

end Sys2Proof.Machine.Aes
end

