-- ==== Sys2Proof/Config.lean ====
section
/-!
DEFINITION. What the manual leaves open: free values with no body, so that no proof can lean on one. The named numbers of the part (Tables 1.1 and 10.1) stand beside the state that they size.
-/

namespace Sys2Proof

/-- A free value (R8): the value number `n` of the run, for the use `tag`. `State.free` is the counter that numbers them. Log entry 1. -/
opaque Config.free : Nat → Nat → BitVec 64

/-- R98: which of the two neighbours of an inexact result a transcendental delivers, a fixed function of the operation (0 `frcp` to 6 `ftanh`) and the input; true takes the one of larger magnitude. Log entry 10. -/
opaque Config.transAway : Nat → BitVec 32 → Bool

/-- R223: how far the clock of an agent stands from true global time at a time, in ns. Log entry 2. -/
opaque Config.skew : Nat → Nat → Nat

/-- R403: after how many ns without a time-sync exchange firmware can no longer show that the reference has drifted by less than the bound. Log entry 2. -/
opaque Config.driftTime : Nat

/-- R201: the hash that gives a line its home slice. Log entry 11. -/
opaque Config.homeHash : Nat → Nat → Nat

end Sys2Proof
end

