-- ==== Sys2Proof/Machine/Float.lean ====
section
/-!
DEFINITION. Floating-point encodings, rounding and flags (R53 to R60): exact dyadic values, one rounding function, and the IEEE operations over them.
-/

namespace Sys2Proof.Machine

/-- Table 2.8: the five rounding modes. -/
inductive Rm where
  | rn | rz | ru | rd | ra
deriving DecidableEq, Repr

/-- R53, Table 3.2: a format by its exponent width, significand width and whether it has infinities. -/
structure Fmt where
  e : Nat
  m : Nat
  inf : Bool
deriving DecidableEq, Repr

def Fmt.f64 : Fmt := ⟨11, 52, true⟩
def Fmt.f32 : Fmt := ⟨8, 23, true⟩
def Fmt.f16 : Fmt := ⟨5, 10, true⟩
def Fmt.bf16 : Fmt := ⟨8, 7, true⟩
def Fmt.e5m2 : Fmt := ⟨5, 2, true⟩
def Fmt.e4m3 : Fmt := ⟨4, 3, false⟩

def Fmt.width (f : Fmt) : Nat := 1 + f.e + f.m

/-- The exponent of the smallest normal value. -/
def Fmt.emin (f : Fmt) : Int := 2 - (2 ^ (f.e - 1) : Nat)

/-- The quantum of the subnormals. -/
def Fmt.qmin (f : Fmt) : Int := f.emin - f.m

/-- The largest exponent field, all ones. -/
def Fmt.top (f : Fmt) : Nat := 2 ^ f.e - 1

/-- The quantum of the largest finite values. -/
def Fmt.qmax (f : Fmt) : Int := f.qmin + ((if f.inf then f.top - 2 else f.top - 1 : Nat) : Int)

/-- The largest finite significand, in quanta of `qmax` (R54, R58). -/
def Fmt.maxSig (f : Fmt) : Nat := if f.inf then 2 ^ (f.m + 1) - 1 else 2 ^ (f.m + 1) - 2

/-- The encoding of the largest finite value. -/
def Fmt.maxBits (f : Fmt) : Nat := if f.inf then f.top * 2 ^ f.m - 1 else f.top * 2 ^ f.m + 2 ^ f.m - 2

/-- Table 3.3: the canonical NaN. -/
def Fmt.nan (f : Fmt) : Nat :=
  if f.inf then f.top * 2 ^ f.m + 2 ^ (f.m - 1) else f.top * 2 ^ f.m + 2 ^ f.m - 1

/-- Table 3.4: what the table writes as an infinity; E4M3 has none and delivers its NaN 0x7F. -/
def Fmt.infBits (f : Fmt) (neg : Bool) : Nat :=
  if f.inf then (if neg then 2 ^ (f.e + f.m) else 0) + f.top * 2 ^ f.m else f.nan

def Fmt.signBits (f : Fmt) (neg : Bool) : Nat := if neg then 2 ^ (f.e + f.m) else 0

/-- R59, Table 3.5: the sticky flags, invalid in bit 0 to inexact in bit 4. -/
abbrev Flags := BitVec 5

def Flags.none : Flags := 0
def Flags.invalid : Flags := 1
def Flags.divzero : Flags := 2
def Flags.overflow : Flags := 4
def Flags.underflow : Flags := 8
def Flags.inexact : Flags := 16

/-- R76: the value an encoding denotes; a finite value is `(-1)^neg * mant * 2^exp`. -/
inductive FVal where
  | nan (signalling : Bool)
  | inf (neg : Bool)
  | fin (neg : Bool) (mant : Nat) (exp : Int)
deriving DecidableEq, Repr

/-- R53, R54: the value of an encoding. -/
def Fmt.value (f : Fmt) (x : Nat) : FVal :=
  let neg := x.testBit (f.e + f.m)
  let ef := (x >>> f.m) % 2 ^ f.e
  let mf := x % 2 ^ f.m
  if f.inf then
    if ef = f.top then
      if mf = 0 then .inf neg
      else .nan (decide (f ≠ Fmt.e5m2) && decide (mf < 2 ^ (f.m - 1)))
    else if ef = 0 then .fin neg mf f.qmin
    else .fin neg (mf + 2 ^ f.m) (f.qmin + (ef : Int) - 1)
  else if ef = f.top ∧ mf = 2 ^ f.m - 1 then .nan false
  else if ef = 0 then .fin neg mf f.qmin
  else .fin neg (mf + 2 ^ f.m) (f.qmin + (ef : Int) - 1)

/-- The flags a consumed operand raises: a signalling NaN raises invalid (R60). -/
def FVal.sig : FVal → Flags
  | .nan true => Flags.invalid
  | _ => Flags.none

def FVal.isNan : FVal → Bool
  | .nan _ => true
  | _ => false

def FVal.negate : FVal → FVal
  | .nan b => .nan b
  | .inf n => .inf (!n)
  | .fin n m e => .fin (!n) m e

/-- A delivered encoding and the flags it raises. -/
structure Rounded where
  bits : Nat
  flags : Flags
deriving DecidableEq, Repr

/-- An exact magnitude `mant * 2^exp`, or, with `sticky`, a value strictly between that and `(mant + 1) * 2^exp`. -/
structure Mag where
  mant : Nat
  exp : Int
  sticky : Bool
deriving DecidableEq, Repr

/-- The number of bits of a magnitude's significand. -/
def bitLen (n : Nat) : Nat := if n = 0 then 0 else n.log2 + 1

/-- R57: whether a magnitude cut to `quot` rounds away from zero, from its last kept bit and how the rest compares with half. -/
def roundsUp (rm : Rm) (neg odd : Bool) (rest : Ordering) (inexact : Bool) : Bool :=
  match rm with
  | .rn => match rest with
    | .lt => false
    | .eq => odd
    | .gt => true
  | .ra => match rest with
    | .lt => false
    | _ => true
  | .rz => false
  | .ru => inexact && !neg
  | .rd => inexact && neg

/-- R57: a magnitude in quanta of `2^q`, rounded, and whether that is inexact. -/
def Mag.roundAt (a : Mag) (neg : Bool) (rm : Rm) (q : Int) : Nat × Bool :=
  if q ≤ a.exp then (a.mant <<< (a.exp - q).toNat, a.sticky)
  else
    let sh := (q - a.exp).toNat
    if bitLen a.mant + 1 < sh then
      let ix := a.sticky || a.mant != 0
      (if roundsUp rm neg false .lt ix then 1 else 0, ix)
    else
      let quot := a.mant >>> sh
      let rem := a.mant % 2 ^ sh
      let half := 2 ^ (sh - 1)
      let ix := a.sticky || rem != 0
      let rest := if rem < half then Ordering.lt else if rem = half && !a.sticky then .eq else .gt
      (if roundsUp rm neg (quot % 2 == 1) rest ix then quot + 1 else quot, ix)

/-- Table 3.4: the result on overflow. -/
def Fmt.overflowBits (f : Fmt) (rm : Rm) (sat neg : Bool) : Nat :=
  let toMax := sat || (match rm with
    | .rn => false
    | .ra => false
    | .rz => true
    | .ru => neg
    | .rd => !neg)
  if toMax then f.signBits neg + f.maxBits else f.infBits neg

/-- R56 to R58: `round_to` of a finite value (R76). A zero keeps the sign it is given. -/
def Fmt.round (f : Fmt) (rm : Rm) (sat neg : Bool) (a : Mag) : Rounded :=
  if a.mant = 0 && !a.sticky then ⟨f.signBits neg, Flags.none⟩
  else
    let top : Int := a.exp + (bitLen a.mant : Int) - 1
    let q0 := top - f.m
    let q := if q0 < f.qmin then f.qmin else q0
    let r := a.roundAt neg rm q
    if f.qmax < q || (f.qmax = q && f.maxSig < r.1) then
      ⟨f.overflowBits rm sat neg, Flags.overflow ||| Flags.inexact⟩
    else
      let free := a.roundAt neg rm q0
      let tiny := decide (top + 1 < f.emin) || (decide (top + 1 = f.emin) && free.1 != 2 ^ (f.m + 1))
      let bits := f.signBits neg + (q - f.qmin).toNat * 2 ^ f.m + r.1
      ⟨bits, (if r.2 then Flags.inexact else Flags.none) ||| (if r.2 && tiny then Flags.underflow else Flags.none)⟩

/-- R76: `round_to` of a value that is already a dyadic number, an infinity or a NaN; a NaN raises nothing here. -/
def Fmt.roundVal (f : Fmt) (rm : Rm) (sat : Bool) : FVal → Rounded
  | .nan _ => ⟨f.nan, Flags.none⟩
  | .inf n => ⟨if sat then f.signBits n + f.maxBits else f.infBits n, Flags.none⟩
  | .fin n m e => f.round rm sat n ⟨m, e, false⟩

def Fmt.invalidNan (f : Fmt) : Rounded := ⟨f.nan, Flags.invalid⟩

/-- The signed integer significand of a finite value in quanta of `2^q`, for a `q` not above its exponent. -/
def signedAt (neg : Bool) (mant : Nat) (exp q : Int) : Int :=
  let v : Int := (mant <<< (exp - q).toNat : Nat)
  if neg then -v else v

/-- R57, R94: the rounded sum of two finite values; an exact zero sum takes its sign from R57. -/
def Fmt.addFin (f : Fmt) (rm : Rm) (n1 : Bool) (m1 : Nat) (e1 : Int) (n2 : Bool) (m2 : Nat) (e2 : Int) : Rounded :=
  let q := if e1 ≤ e2 then e1 else e2
  let t := signedAt n1 m1 e1 q + signedAt n2 m2 e2 q
  if t = 0 then
    let neg := if n1 = n2 then n1 else decide (rm = .rd)
    ⟨f.signBits neg, Flags.none⟩
  else f.round rm false (decide (t < 0)) ⟨t.natAbs, q, false⟩

/-- R94: addition of two values. -/
def Fmt.addVal (f : Fmt) (rm : Rm) (x y : FVal) : Rounded :=
  match x, y with
  | .nan _, _ => ⟨f.nan, x.sig ||| y.sig⟩
  | _, .nan _ => ⟨f.nan, x.sig ||| y.sig⟩
  | .inf a, .inf b => if a = b then ⟨f.infBits a, Flags.none⟩ else f.invalidNan
  | .inf a, .fin .. => ⟨f.infBits a, Flags.none⟩
  | .fin .., .inf b => ⟨f.infBits b, Flags.none⟩
  | .fin n1 m1 e1, .fin n2 m2 e2 => f.addFin rm n1 m1 e1 n2 m2 e2

/-- R94: `fadd`, `fsub`, `fmul`, `ffma`, `fdiv`, `fsqrt` on encodings. -/
def Fmt.add (f : Fmt) (rm : Rm) (x y : Nat) : Rounded := f.addVal rm (f.value x) (f.value y)

def Fmt.sub (f : Fmt) (rm : Rm) (x y : Nat) : Rounded := f.addVal rm (f.value x) (f.value y).negate

def Fmt.mul (f : Fmt) (rm : Rm) (x y : Nat) : Rounded :=
  match f.value x, f.value y with
  | .nan a, v => ⟨f.nan, (FVal.nan a).sig ||| v.sig⟩
  | v, .nan b => ⟨f.nan, v.sig ||| (FVal.nan b).sig⟩
  | .inf a, .inf b => ⟨f.infBits (a != b), Flags.none⟩
  | .inf a, .fin b m _ => if m = 0 then f.invalidNan else ⟨f.infBits (a != b), Flags.none⟩
  | .fin a m _, .inf b => if m = 0 then f.invalidNan else ⟨f.infBits (a != b), Flags.none⟩
  | .fin a m1 e1, .fin b m2 e2 => f.round rm false (a != b) ⟨m1 * m2, e1 + e2, false⟩

/-- The exact product of two values that are no NaN; `none` for infinity times zero. -/
def FVal.mul : FVal → FVal → Option FVal
  | .inf a, .inf b => some (.inf (a != b))
  | .inf a, .fin b m _ => if m = 0 then none else some (.inf (a != b))
  | .fin a m _, .inf b => if m = 0 then none else some (.inf (a != b))
  | .fin a m1 e1, .fin b m2 e2 => some (.fin (a != b) (m1 * m2) (e1 + e2))
  | x, _ => some x

/-- R94: fused multiply-add; infinity times zero raises invalid even beside a quiet NaN. -/
def Fmt.fma (f : Fmt) (rm : Rm) (x y z : Nat) : Rounded :=
  let a := f.value x
  let b := f.value y
  let c := f.value z
  if a.isNan || b.isNan then ⟨f.nan, a.sig ||| b.sig ||| c.sig⟩
  else match a.mul b with
    | none => f.invalidNan
    | some p => f.addVal rm p c

/-- R94: division; the quotient carries `2 m + 5` significant bits and a sticky bit. -/
def Fmt.div (f : Fmt) (rm : Rm) (x y : Nat) : Rounded :=
  match f.value x, f.value y with
  | .nan a, v => ⟨f.nan, (FVal.nan a).sig ||| v.sig⟩
  | v, .nan b => ⟨f.nan, v.sig ||| (FVal.nan b).sig⟩
  | .inf _, .inf _ => f.invalidNan
  | .inf a, .fin b _ _ => ⟨f.infBits (a != b), Flags.none⟩
  | .fin a _ _, .inf b => ⟨f.signBits (a != b), Flags.none⟩
  | .fin a m1 e1, .fin b m2 e2 =>
    if m2 = 0 then (if m1 = 0 then f.invalidNan else ⟨f.infBits (a != b), Flags.divzero⟩)
    else
      let k := 2 * f.m + 5
      let num := m1 <<< k
      f.round rm false (a != b) ⟨num / m2, e1 - e2 - (k : Int), num % m2 != 0⟩

/-- The integer square root, bit by bit from bit `k - 1`. -/
def isqrt (n : Nat) : Nat → Nat → Nat
  | 0, r => r
  | k + 1, r =>
    let r' := r + 2 ^ k
    isqrt n k (if r' * r' ≤ n then r' else r)

/-- The magnitude of the square root of `mant * 2^exp`, with at least `p` significant bits. -/
def sqrtMag (p mant : Nat) (exp : Int) : Mag :=
  let sh := 2 * p + (if (exp - 2 * (p : Int)) % 2 = 0 then 0 else 1)
  let n := mant <<< sh
  let r := isqrt n ((bitLen n + 1) / 2) 0
  ⟨r, (exp - (sh : Int)) / 2, r * r != n⟩

def Fmt.sqrt (f : Fmt) (rm : Rm) (x : Nat) : Rounded :=
  match f.value x with
  | .nan s => ⟨f.nan, (FVal.nan s).sig⟩
  | .inf false => ⟨f.infBits false, Flags.none⟩
  | .inf true => f.invalidNan
  | .fin n m e =>
    if m = 0 then ⟨f.signBits n, Flags.none⟩
    else if n then f.invalidNan
    else f.round rm false false (sqrtMag (f.m + 4) m e)

/-- The integer that a dyadic value rounds to. -/
def roundInt (rm : Rm) (neg : Bool) (mant : Nat) (exp : Int) : Int × Bool :=
  let r := Mag.roundAt ⟨mant, exp, false⟩ neg rm 0
  (if neg then -(r.1 : Int) else (r.1 : Int), r.2)

/-- R97: `frnd`. -/
def Fmt.rnd (f : Fmt) (rm : Rm) (x : Nat) : Rounded :=
  match f.value x with
  | .nan s => ⟨f.nan, (FVal.nan s).sig⟩
  | .inf n => ⟨f.infBits n, Flags.none⟩
  | .fin n m e =>
    if 0 ≤ e ∨ m = 0 then ⟨x % 2 ^ f.width, Flags.none⟩
    else ⟨(f.round .rz false n ⟨(roundInt rm n m e).1.natAbs, 0, false⟩).bits, Flags.none⟩

/-- R97: `ldexp` by a signed count. -/
def Fmt.ldexp (f : Fmt) (rm : Rm) (x : Nat) (n : Int) : Rounded :=
  match f.value x with
  | .nan s => ⟨f.nan, (FVal.nan s).sig⟩
  | .inf b => ⟨f.infBits b, Flags.none⟩
  | .fin b m e => f.round rm false b ⟨m, e + n, false⟩

/-- The order of two values that are no NaN, with -0 = +0. -/
def FVal.cmp : FVal → FVal → Ordering
  | .inf a, .inf b => if a = b then .eq else if a then .lt else .gt
  | .inf a, _ => if a then .lt else .gt
  | _, .inf b => if b then .gt else .lt
  | .fin n1 m1 e1, .fin n2 m2 e2 =>
    let q := if e1 ≤ e2 then e1 else e2
    let x := signedAt n1 m1 e1 q
    let y := signedAt n2 m2 e2 q
    if x < y then .lt else if x = y then .eq else .gt
  | _, _ => .eq

/-- R95: whether `x` is taken before `y` as the lesser, with -0 below +0. -/
def Fmt.lesser (f : Fmt) (x y : Nat) : Bool :=
  match (f.value x).cmp (f.value y) with
  | .lt => true
  | .gt => false
  | .eq => x.testBit (f.e + f.m)

/-- R95, Table 4.6: minimum and maximum, number-returning or NaN-propagating. -/
def Fmt.minmax (f : Fmt) (max nanProp : Bool) (x y : Nat) : Rounded :=
  let a := f.value x
  let b := f.value y
  let fl := a.sig ||| b.sig
  let clean (z : Nat) : Nat := z % 2 ^ f.width
  if a.isNan && b.isNan then ⟨f.nan, fl⟩
  else if a.isNan then ⟨if nanProp then f.nan else clean y, fl⟩
  else if b.isNan then ⟨if nanProp then f.nan else clean x, fl⟩
  else ⟨clean (if f.lesser x y != max then x else y), fl⟩

/-- R96. -/
def Fmt.abs (f : Fmt) (x : Nat) : Rounded := ⟨x % 2 ^ (f.e + f.m), Flags.none⟩

def Fmt.neg (f : Fmt) (x : Nat) : Rounded :=
  ⟨x % 2 ^ (f.e + f.m) + f.signBits (!x.testBit (f.e + f.m)), Flags.none⟩

/-- R96: the class mask. -/
def Fmt.classMask (f : Fmt) (x : Nat) : Nat :=
  match f.value x with
  | .nan true => 2 ^ 8
  | .nan false => 2 ^ 9
  | .inf true => 2 ^ 0
  | .inf false => 2 ^ 7
  | .fin n m _ =>
    let sub := decide ((x >>> f.m) % 2 ^ f.e = 0)
    if m = 0 then (if n then 2 ^ 3 else 2 ^ 4)
    else if sub then (if n then 2 ^ 2 else 2 ^ 5)
    else (if n then 2 ^ 1 else 2 ^ 6)

/-- Table 2.9 and R44: the compare conditions eq, ne, lt, le, gt, ge in codes 0 to 5. -/
def condHolds (cc : Nat) (o : Ordering) : Bool :=
  match cc with
  | 0 => decide (o = .eq)
  | 1 => decide (o ≠ .eq)
  | 2 => decide (o = .lt)
  | 3 => decide (o ≠ .gt)
  | 4 => decide (o = .gt)
  | _ => decide (o ≠ .lt)

/-- R90: a floating-point compare and the flags it raises. -/
def Fmt.compare (f : Fmt) (cc : Nat) (x y : Nat) : Bool × Flags :=
  let a := f.value x
  let b := f.value y
  if a.isNan || b.isNan then
    (decide (cc = 1), if cc ≤ 1 then a.sig ||| b.sig else Flags.invalid)
  else (condHolds cc (a.cmp b), Flags.none)

end Sys2Proof.Machine
end

