-- ==== Sys2Proof/Machine/Convert.lean ====
section
/-!
DEFINITION. Conversions between the element types of Table 2.9 (R61 to R64, R99, R100) and the q4x format (R67 to R69, R101, R102).
-/

namespace Sys2Proof.Machine

/-- Table 2.9: the width in bits of an element type. -/
def tyBits (t : Nat) : Nat :=
  match t with
  | 0 => 8
  | 1 => 16
  | 2 => 32
  | 3 => 64
  | 4 => 8
  | 5 => 16
  | 6 => 32
  | 7 => 64
  | 8 => 16
  | 9 => 16
  | 10 => 32
  | 11 => 64
  | 12 => 8
  | 13 => 8
  | _ => 4

/-- Table 2.9: the floating-point format of a type code. -/
def tyFmt (t : Nat) : Option Fmt :=
  match t with
  | 8 => some .f16
  | 9 => some .bf16
  | 10 => some .f32
  | 11 => some .f64
  | 12 => some .e4m3
  | 13 => some .e5m2
  | _ => none

def tySigned (t : Nat) : Bool := decide (t ≤ 3)

/-- The low `w` bits of a number read as two's complement. -/
def toSigned (w x : Nat) : Int :=
  let v := x % 2 ^ w
  if v < 2 ^ (w - 1) then (v : Int) else (v : Int) - (2 ^ w : Nat)

/-- The two's-complement pattern of an integer in `w` bits (R50: wrapping). -/
def wrapInt (w : Nat) (x : Int) : Nat := (x % (2 ^ w : Nat)).toNat

/-- R50: the range of an integer type. -/
def intLo (signed : Bool) (w : Nat) : Int := if signed then -((2 ^ (w - 1) : Nat) : Int) else 0

def intHi (signed : Bool) (w : Nat) : Int := if signed then ((2 ^ (w - 1) : Nat) : Int) - 1 else ((2 ^ w : Nat) : Int) - 1

/-- R50: clamping to the range of an integer type. -/
def clampInt (signed : Bool) (w : Nat) (x : Int) : Int :=
  if x < intLo signed w then intLo signed w else if intHi signed w < x then intHi signed w else x

/-- The integer value of an integer-typed pattern. -/
def intValue (t x : Nat) : Int :=
  if tySigned t then toSigned (tyBits t) x else ((x % 2 ^ tyBits t : Nat) : Int)

/-- R61, R62: conversion between floating-point formats. -/
def cvtFloat (dst src : Fmt) (rm : Rm) (sat : Bool) (x : Nat) : Rounded :=
  match src.value (x % 2 ^ src.width) with
  | .nan s => ⟨dst.nan, (FVal.nan s).sig⟩
  | .inf n =>
    if src.width < dst.width then ⟨dst.infBits n, Flags.none⟩
    else if sat then ⟨dst.signBits n + dst.maxBits, Flags.none⟩
    else ⟨dst.infBits n, if dst.inf then Flags.none else Flags.invalid⟩
  | .fin n m e => dst.round rm sat n ⟨m, e, false⟩

/-- R63: conversion from a floating-point format to an integer type. -/
def cvtToInt (dst : Nat) (src : Fmt) (rm : Rm) (x : Nat) : Rounded :=
  let w := tyBits dst
  let sg := tySigned dst
  match src.value (x % 2 ^ src.width) with
  | .nan _ => ⟨0, Flags.invalid⟩
  | .inf n => ⟨wrapInt w (if n then intLo sg w else intHi sg w), Flags.invalid⟩
  | .fin n m e =>
    let r := roundInt rm n m e
    let c := clampInt sg w r.1
    ⟨wrapInt w c, if c ≠ r.1 then Flags.invalid else if r.2 then Flags.inexact else Flags.none⟩

/-- R64: conversion from an integer to a floating-point format. -/
def cvtFromInt (dst : Fmt) (rm : Rm) (sat : Bool) (v : Int) : Rounded :=
  dst.round rm sat (decide (v < 0)) ⟨v.natAbs, 0, false⟩

/-- R64: conversion between integer types. -/
def cvtInt (dst src : Nat) (sat : Bool) (x : Nat) : Rounded :=
  let v := intValue src x
  let w := tyBits dst
  if sat && decide (w ≤ tyBits src) then ⟨wrapInt w (clampInt (tySigned dst) w v), Flags.none⟩
  else ⟨wrapInt w v, Flags.none⟩

/-- R100, Table 4.8. -/
def convert (dst src : Nat) (rm : Rm) (sat : Bool) (x : Nat) : Rounded :=
  match tyFmt dst, tyFmt src with
  | some d, some s => cvtFloat d s rm sat x
  | none, some s => cvtToInt dst s rm x
  | some d, none => cvtFromInt d rm sat (intValue src x)
  | none, none => cvtInt dst src sat x

/-- Table 3.1: a value of type `t` as it stands in a 32-bit register or a pair. -/
def place (t : Nat) (x : Nat) : BitVec 64 :=
  if tyBits t = 64 then BitVec.ofNat 64 x
  else if tySigned t then BitVec.ofNat 64 (wrapInt 32 (toSigned (tyBits t) x))
  else BitVec.ofNat 64 (x % 2 ^ tyBits t)

/-- Table 3.7: the granule scale and the outlier exponent of a scale word. -/
def q4xSe (sw : Nat) : Nat := sw / 256 % 256

def q4xOe (sw : Nat) : Nat := sw / 16 % 16

/-- R68: the value of the low or high element of a byte, and whether the byte is the reserved 0x88. -/
def q4xElem (byte sw : Nat) (high : Bool) : FVal × Bool :=
  let se : Int := q4xSe sw
  let lo := byte % 16
  let hi := byte / 16 % 16
  let own := if high then hi else lo
  let other := if high then lo else hi
  if q4xSe sw = 255 then (.nan false, false)
  else if lo = 8 ∧ hi = 8 then (.fin false 0 0, true)
  else if own = 8 then (.fin (other.testBit 3) (8 + other % 8) ((q4xOe sw : Int) - 10 + (se - 127)), false)
  else if other = 8 then (.fin false 0 0, false)
  else
    let v := toSigned 4 own
    (.fin (decide (v < 0)) v.natAbs (se - 127), false)

/-- R102: the eight elements of a register, each rounded to binary32, and the flags of all. -/
def q4xDecode (x sw : Nat) (rm : Rm) : List Nat × Flags :=
  let rs := (List.range 8).map fun k =>
    let v := q4xElem (x / 256 ^ (k / 2) % 256) sw (k % 2 == 1)
    let r := Fmt.f32.roundVal rm false v.1
    (r.bits, r.flags ||| (if v.2 then Flags.invalid else Flags.none))
  (rs.map Prod.fst, rs.foldl (fun a r => a ||| r.2) Flags.none)

/-- One element on its way into q4x (R101): its scaled value, its integer code, and its outlier candidate as sign and m. -/
structure Q4xCand where
  v : FVal
  code : Int
  out : Option (Bool × Nat)
deriving DecidableEq, Repr

/-- R101 steps 2 and 3 for one binary32 input. Below the least magnitude of the grid, a directed rounding that leads away from the sign of y gives the grid value next to zero on the other side, which lapses: as byte `0x88`, or as farther from y than the code. For `.rz` there: log entry 104. -/
def q4xCand (x sw : Nat) (rm : Rm) : Q4xCand :=
  match Fmt.f32.value x with
  | .nan s => ⟨.nan s, 0, none⟩
  | .inf n => ⟨.inf n, if n then -7 else 7, some (n, 7)⟩
  | .fin n m e0 =>
    let e := e0 + 127 - (q4xSe sw : Int)
    let i := (roundInt rm n m e).1
    let c := if i < -7 then -7 else if 7 < i then 7 else i
    let v := FVal.fin n m e
    if i = c then ⟨v, c, none⟩
    else
      let g : Int := (q4xOe sw : Int) - 10
      let u := (Mag.roundAt ⟨m, e, false⟩ n rm g).1
      let k := if u < 8 then 8 else if 15 < u then 15 else u
      let across := decide (u < 8) && (if n then rm == .ru else rm == .rd)
      let q := min (min e g) 0
      let y := signedAt n m e q
      let dO := (signedAt n k g q - y).natAbs
      let dI := (signedAt (decide (c < 0)) c.natAbs 0 q - y).natAbs
      ⟨v, c, if across || (n && k == 8) || decide (dI ≤ dO) then none else some (n, k - 8)⟩

/-- R101 step 4: whether the odd element of a byte has the larger magnitude. -/
def q4xOddLarger (even odd : FVal) : Bool :=
  match even, odd with
  | .fin _ m e, .fin _ m' e' => decide (FVal.cmp (.fin false m e) (.fin false m' e') = .lt)
  | .fin .., .inf _ => true
  | _, _ => false

/-- R101 step 6: the flags of one element; `partner` says its nibble serves an outlier, `kept` that its own candidate survives. -/
def q4xFlags (c : Q4xCand) (sw : Nat) (kept partner : Bool) : Flags :=
  match c.v with
  | .fin n m e =>
    let oe : Int := q4xOe sw
    if partner then (if m = 0 then Flags.none else Flags.inexact)
    else if kept then
      let d := (c.out.getD (false, 0)).2
      (if FVal.cmp (.fin false m e) (.fin false 15 (oe - 10)) = .gt then Flags.overflow else Flags.none) |||
      (if FVal.cmp (.fin n m e) (.fin n (8 + d) (oe - 10)) = .eq then Flags.none else Flags.inexact)
    else
      (if FVal.cmp (.fin false m e) (.fin false 7 0) = .gt then Flags.overflow else Flags.none) |||
      (if FVal.cmp (.fin n m e) (.fin (decide (c.code < 0)) c.code.natAbs 0) = .eq then Flags.none else Flags.inexact)
  | _ => Flags.invalid

/-- R101 steps 4 to 6 for the two elements of one byte. -/
def q4xByte (a b : Q4xCand) (sw : Nat) : Nat × Flags :=
  let oddWins := b.out.isSome && (a.out.isNone || q4xOddLarger a.v b.v)
  let evenWins := a.out.isSome && !oddWins
  let nib (o : Option (Bool × Nat)) : Nat :=
    match o with
    | some (n, m) => (if n then 8 else 0) + m
    | none => 0
  let lo := if evenWins then 8 else if oddWins then nib b.out else wrapInt 4 a.code
  let hi := if oddWins then 8 else if evenWins then nib a.out else wrapInt 4 b.code
  (hi * 16 + lo, q4xFlags a sw evenWins oddWins ||| q4xFlags b sw oddWins evenWins)

/-- R101: the eight elements encoded into one register. -/
def q4xEncode (xs : List Nat) (sw : Nat) (rm : Rm) : Nat × Flags :=
  if q4xSe sw = 255 then (0, Flags.none)
  else
    let rec go : List Nat → Nat × Flags
      | x0 :: x1 :: rest =>
        let b := q4xByte (q4xCand x0 sw rm) (q4xCand x1 sw rm) sw
        let r := go rest
        (b.1 + 256 * r.1, b.2 ||| r.2)
      | _ => (0, Flags.none)
    go xs

end Sys2Proof.Machine
end

