-- ==== Sys2Proof/Machine/Bits.lean ====
section
/-!
DEFINITION. The integer and bit operations of one lane (R79 to R88), and the lane-mask helpers the group instructions share.
-/

namespace Sys2Proof.Machine

/-- R50, R79: the saturating sum or difference, exact and then clamped. -/
def addSat (signed : Bool) (a b : W32) : W32 :=
  if signed then BitVec.ofInt 32 (clampInt true 32 (a.toInt + b.toInt))
  else BitVec.ofInt 32 (clampInt false 32 ((a.toNat : Int) + b.toNat))

def subSat (signed : Bool) (a b : W32) : W32 :=
  if signed then BitVec.ofInt 32 (clampInt true 32 (a.toInt - b.toInt))
  else BitVec.ofInt 32 (clampInt false 32 ((a.toNat : Int) - b.toNat))

/-- R79: the lesser or greater of two values, compared signed or unsigned. -/
def minmaxInt {w : Nat} (signed max : Bool) (a b : BitVec w) : BitVec w :=
  let lt := if signed then a.slt b else a.ult b
  if lt != max then a else b

/-- R79: |a| modulo 2^32. -/
def absS (a : W32) : W32 := if a.msb then -a else a

/-- R81: the high half of the exact product. -/
def mulHi (signed : Bool) (a b : W32) : W32 :=
  if signed then ((a.signExtend 64) * (b.signExtend 64)).extractLsb' 32 32
  else ((a.zeroExtend 64) * (b.zeroExtend 64)).extractLsb' 32 32

/-- R82: the quotient toward zero and the remainder with the sign of a, with the edge cases the rule lists. -/
def divInt (signed : Bool) (a b : W32) : W32 :=
  if b = 0 then BitVec.allOnes 32 else if signed then a.sdiv b else a.udiv b

def remInt (signed : Bool) (a b : W32) : W32 :=
  if b = 0 then a else if signed then a.srem b else a.umod b

/-- R83: four byte products added to c. -/
def dp4 (signed : Bool) (a b c : W32) : W32 :=
  (List.range 4).foldl (fun sum k =>
    let x := a.extractLsb' (8 * k) 8
    let y := b.extractLsb' (8 * k) 8
    sum + (if signed then x.signExtend 32 * y.signExtend 32 else x.zeroExtend 32 * y.zeroExtend 32)) c

/-- R85: bit-field extract, position `b[4:0]` and length `c[5:0]` cut at bit 31. -/
def bfe (signed : Bool) (a b c : W32) : W32 :=
  let pos := b.toNat % 32
  let len := min (c.toNat % 64) (32 - pos)
  if len = 0 then 0
  else
    let f := a.toNat / 2 ^ pos % 2 ^ len
    if signed then BitVec.ofInt 32 (toSigned len f) else BitVec.ofNat 32 f

/-- R86: bit-field insert into the base c. -/
def bfi (a b c : W32) : W32 :=
  let pos := b.toNat % 32
  let len := min (b.toNat / 256 % 64) (32 - pos)
  let mask := BitVec.ofNat 32 ((2 ^ len - 1) * 2 ^ pos)
  (c &&& ~~~mask) ||| ((a <<< pos) &&& mask)

/-- The number of set bits among the low `n`. -/
def popLow {w : Nat} (x : BitVec w) (n : Nat) : Nat :=
  (List.range n).foldl (fun c i => if x.getLsbD i then c + 1 else c) 0

/-- R87. -/
def popc (a : W32) : W32 := BitVec.ofNat 32 (popLow a 32)

def popcLo (a b : W32) : W32 := BitVec.ofNat 32 (popLow a (min b.toNat 32))

def brev (a : W32) : W32 :=
  (List.range 32).foldl (fun r i => if a.getLsbD i then r ||| (1#32 <<< (31 - i)) else r) 0

def clz (a : W32) : W32 := BitVec.ofNat 32 (32 - bitLen a.toNat)

def ctz (a : W32) : W32 := if a = 0 then 32 else BitVec.ofNat 32 (a &&& -a).toNat.log2

/-- R88: the 30-bit Morton key. -/
def hcell (x y z : W32) : W32 :=
  (List.range 10).foldl (fun r k =>
    let bit (v : W32) (at' : Nat) : W32 := if v.getLsbD k then 1#32 <<< at' else 0
    r ||| bit x (3 * k) ||| bit y (3 * k + 1) ||| bit z (3 * k + 2)) 0

/-- R89: an integer compare under a condition code of R44. -/
def cmpInt {w : Nat} (cc : Nat) (signed : Bool) (a b : BitVec w) : Bool :=
  condHolds cc (if a = b then .eq else if (if signed then a.slt b else a.ult b) then .lt else .gt)

/-- The lanes 0 to `w - 1` of a mask, in ascending order. -/
def lanesOf (mask : W64) : List Nat := (List.range 64).filter fun l => mask.getLsbD l

/-- The mask with exactly the lanes of a list. -/
def maskOf (ls : List Nat) : W64 := ls.foldl (fun m l => m ||| (1#64 <<< l)) 0

/-- The mask of the lanes below `n`. -/
def maskBelow (n : Nat) : W64 := BitVec.ofNat 64 (2 ^ n - 1)

/-- The value of a list at an index, or a default past its end. -/
def nth {α : Type} (d : α) : List α → Nat → α
  | [], _ => d
  | x :: _, 0 => x
  | _ :: xs, n + 1 => nth d xs n

/-- A list with one element replaced by its image. -/
def modNth {α : Type} (f : α → α) : List α → Nat → List α
  | [], _ => []
  | x :: xs, 0 => f x :: xs
  | x :: xs, n + 1 => x :: modNth f xs n

/-- A list without its element at an index. -/
def dropNth {α : Type} : List α → Nat → List α
  | [], _ => []
  | _ :: xs, 0 => xs
  | x :: xs, n + 1 => x :: dropNth xs n

/-- The element of a list at an index. -/
def nth? {α : Type} : List α → Nat → Option α
  | [], _ => none
  | x :: _, 0 => some x
  | _ :: xs, n + 1 => nth? xs n

/-- A list that begins at some place and wraps around. -/
def rotated {α : Type} (xs : List α) (k : Nat) : List α := xs.drop (k % xs.length) ++ xs.take (k % xs.length)

end Sys2Proof.Machine
end

