-- ==== Sys2Proof/Machine/Sparse.lean ====
section
/-!
DEFINITION. Sparse stores: lists of key and value pairs in one canonical form, strictly rising keys and no zero value. Memory, cluster SRAM, vector registers, uniform registers, predicates and accumulators are held so.
-/

namespace Sys2Proof.Machine

/-- The value at a key; an unlisted key reads zero. -/
def sget {w : Nat} : Sparse w → Nat → BitVec w
  | [], _ => 0
  | (k, v) :: rest, a => if a < k then 0 else if k = a then v else sget rest a

/-- Put a value in front, unless it is zero. -/
def scons {w : Nat} (k : Nat) (v : BitVec w) (s : Sparse w) : Sparse w := if v = 0 then s else (k, v) :: s

/-- Write a value at a key; writing zero removes the entry, so that equal stores are equal lists. -/
def sset {w : Nat} : Sparse w → Nat → BitVec w → Sparse w
  | [], a, x => scons a x []
  | (k, v) :: rest, a, x =>
    if a < k then scons a x ((k, v) :: rest)
    else if k = a then scons a x rest
    else (k, v) :: sset rest a x

/-- Every key is above a bound, keys rise strictly, and no value is zero. -/
def swfFrom {w : Nat} : Nat → Sparse w → Bool
  | _, [] => true
  | lo, (k, v) :: rest => decide (lo ≤ k) && decide (v ≠ 0) && swfFrom (k + 1) rest

/-- The canonical form. -/
def swf {w : Nat} (s : Sparse w) : Bool := swfFrom 0 s

/-- Clear every key from `lo` below `hi`. -/
def sclear {w : Nat} : Sparse w → Nat → Nat → Sparse w
  | [], _, _ => []
  | (k, v) :: rest, lo, hi => if lo ≤ k ∧ k < hi then sclear rest lo hi else (k, v) :: sclear rest lo hi

/-- Write a list of values at ascending keys. -/
def ssetMany {w : Nat} (s : Sparse w) (a : Nat) : List (BitVec w) → Sparse w
  | [] => s
  | v :: vs => ssetMany (sset s a v) (a + 1) vs

/-- The values at `n` ascending keys. -/
def sgetMany {w : Nat} (s : Sparse w) (a n : Nat) : List (BitVec w) := (List.range n).map fun i => sget s (a + i)

end Sys2Proof.Machine
end

