-- ==== Sys2Proof/Machine/Parts.lean ====
section
/-!
DEFINITION. The pieces of state of groups, memory levels, regions, subscriptions and rings, as plain data (chapters 01, 07, 10, 11, 12). Each reset or start value stands with the rule that gives it.
-/

namespace Sys2Proof.Machine

/-- The files an instruction writes: vector, predicate, uniform, and the sticky flags. -/
inductive RegKind where
  | v | p | u | fl
deriving DecidableEq, Repr

/-- R20: a fixed-latency write that stands in its window until issue step `due`: lane and value pairs of one register. A uniform register or the flags use lane 0. `hidden` says that a later producer of the register is readable already, so that this one is no longer the newest write a read could miss (R24). -/
structure PendWrite where
  kind : RegKind
  idx : Nat
  vals : List (Nat × W64)
  due : Nat
  hidden : Bool
deriving DecidableEq, Repr

/-- The writes of one register. -/
structure RegWrite where
  kind : RegKind
  idx : Nat
  vals : List (Nat × W64)
deriving DecidableEq, Repr

/-- R21: a variable-latency result that is not yet written, with the registers it holds, the flags it accumulates, and the issue step of its word. -/
structure VarResult where
  writes : List RegWrite
  flags : Flags
  step : Nat
deriving DecidableEq, Repr

/-- R145: what a level of the reconvergence stack records beside its join PC and mask. An exported level keeps, by register and lane, every value that a write-back has replaced in the parent's file since the `br.div`: with the file's own they are the values R153 lets the parent read. -/
inductive LevelKind where
  | kept (second : W64) (secondPc : BitVec 57) (begun : Bool)
  | exported (ctr : Nat) (lanes : W64) (old : List (Nat × W32)) (complete : Bool)
deriving DecidableEq, Repr

structure Level where
  joinPc : BitVec 57
  mask : W64
  kind : LevelKind
deriving DecidableEq, Repr

/-- R149 to R152: what a fragment thread has beside the state of a thread. `cache` lists the cached registers, most recently used first, with their dirty marks; `back` the write-backs on their way; `late` the uniform registers whose value was still returning at the `br.div` and has not come yet, `since` the operation number then and `step` the parent's issue step. -/
structure FragInfo where
  parent : Nat
  ctr : Nat
  lane : Nat
  lanes : W64
  joinPc : BitVec 57
  launched : Bool
  cache : List (Nat × Bool)
  back : List (Nat × W32)
  late : List Nat
  since : Nat
  step : Nat
  joined : Bool
  exited : Bool
  counted : Bool
deriving DecidableEq, Repr

/-- Table 11.2: the path counters. -/
inductive Path where
  | ld | st | at_ | sp | cp | msg
deriving DecidableEq, Repr

/-- R227, R228: a counted operation that is not yet retired. -/
structure PathOp where
  seq : Nat
  path : Path
  returned : Bool
deriving DecidableEq, Repr

/-- Table 10.8 and R206: what a walk gives an access beside its physical address; `host` is how far the host address lies from the frame under the host window that the walk met, and `window` the number of that one (R421). -/
structure PageAttr where
  ms : Bool
  near : Bool
  key : Nat
  device : Option Nat
  host : Option Int
  window : Nat := 0
deriving DecidableEq, Repr

/-- The kinds of global request (R109, R166, R272, R237, R296). -/
inductive ReqKind where
  | load (signed : Bool)
  | store
  | atom
  | red
  | prefetch
deriving DecidableEq, Repr

/-- R235: the words of a line that a pending `.wt` read has been given at the slice. -/
structure Fill where
  mask : BitVec 32
  words : Sparse 32
deriving DecidableEq, Repr

/-- One lane of a global request. `va` is the address under which the line is cached, the canonical name (R212), and `shared` says that the access came through another; `floor` is the floor its packet carries (R231); `at_` counts the bytes of it that are performed (R113, R300); `sent` says that its device has been asked (R407); `held` that a region's words hold it, and `waitsFor` lists the regions whose end a refused access awaits (R252, R259); `fill` is what a `.wt` load performed and `barred` the words for which a group may no longer merge into it (R232, R235); `merged` says that an older packet carries this reduction and `tags` which lanes a packet carries (R244). -/
structure LaneReq where
  lane : Nat
  ea : W64
  asid : Nat
  va : Nat
  pa : Nat
  attr : PageAttr
  shared : Bool
  permW : Bool
  data : BitVec 128
  data2 : BitVec 64
  floor : Nat
  at_ : Nat
  sent : Bool
  done : Bool
  held : Bool
  waitsFor : List Nat
  result : BitVec 128
  ok : Bool
  wrote : Bool
  stamp : Nat
  ctime : Nat
  fill : Option Fill
  barred : List (Nat × BitVec 32)
  merged : Bool
  tags : List (Nat × Nat × Nat)
deriving DecidableEq, Repr

/-- R227: a global request in flight, with the address of its word. `dest` is the first destination register, `span` how many; `uni` says the destination is a uniform register. Requests that the threads of a fragment have issued together bear one `joint` number (R114, R150). -/
structure Req where
  seq : Nat
  pc : W64
  kind : ReqKind
  size : Nat
  rtype : Nat
  scope : Nat
  op : Nat
  ety : Nat
  lease : Nat
  det : Bool
  region : Bool
  joint : Nat
  uni : Bool
  dest : Nat
  span : Nat
  okPred : Option Nat
  lanes : List LaneReq
deriving DecidableEq, Repr

/-- Scratchpad and barrier operations, which a group performs in program order (R230). -/
inductive SpKind where
  | load (signed : Bool)
  | store
  | atom (op ety : Nat)
  | barInit
  | arrive
deriving DecidableEq, Repr

/-- One lane of a scratchpad access; `at_` counts the bytes of it that are performed, with what they return. For an arrival `data2` is the barrier address as it was given (R181). -/
structure SpLane where
  lane : Nat
  addr : Nat
  data : BitVec 128
  data2 : BitVec 64
  at_ : Nat
  result : BitVec 128
  ok : Bool
deriving DecidableEq, Repr

/-- A scratchpad access that is checked and not yet performed; those that the threads of a fragment have issued together bear one `joint` number (R114, R150). -/
structure SpAcc where
  seq : Nat
  joint : Nat
  kind : SpKind
  size : Nat
  cluster : Nat
  dest : Nat
  span : Nat
  okPred : Option Nat
  lanes : List SpLane
deriving DecidableEq, Repr

/-- Why a unit does not go on (R141, Table 21.8). All but a park and a region's end are tested again when the word issues again. -/
inductive Wait where
  | none
  | scoreboard
  | pull (reg : Nat)
  | barrier (sram : Nat)
  | stage (sram : Nat)
  | counter
  | timeline (addr : W64)
  | join
  | msgWait (addr : W64)
  | wct
  | drain
  | launch
  | rendezvous
  | sealing (seq : Nat)
  | lsync (mask : W64) (stall : Nat)
  | parked (id : Nat) (addr : W64) (what : Nat)
  | farEnd (rd : Nat) (pcNext : BitVec 57) (stepNext : Nat)
  | lqPush
deriving DecidableEq, Repr

/-- R302: a copy batch of a group: its number, the operation number of the word that closed it, the counter it advances (in global memory or in scratchpad) and by how much, the stage address (Table 8.5), the greatest completion time among its writes so far, and the address of its `cp.commit`. -/
structure Batch where
  id : Nat
  seq : Nat
  closed : Bool
  tl : Option (Bool × W64)
  inc : W64
  stage : Option W32
  ctime : Nat
  pc : W64
deriving DecidableEq, Repr

/-- R367: an `lq.push` that has begun: the queue, how many of the record's eight parts are read and its bytes, whether the slot is claimed, its number and address, how many of its eight parts are stored, and the word's result register and stall. `asked` says that one of its writes has been sent to another device and its completion time is not known yet (R407); nine stores say that the tail's is among them. -/
structure Push where
  queue : Nat
  parts : Nat
  bytes : BitVec 512
  claimed : Bool
  k : Nat
  slot : W64
  stores : Nat
  asked : Bool
  rd : Nat
  stall : Nat
deriving DecidableEq, Repr

/-- A group on a wide core, or one fragment thread on a narrow core (R12, R135, R149). `mflags` holds the flags that matrix commands have raised and that no `wait.tl` has ordered yet, by ticket (R23, R75). `synced` is the barrier word at which an unfinished `bar.sync` has arrived, and the phase it recorded (R186). Team start: R25, R26, R132, R133, R143, R226, R236. -/
structure Unit where
  team : Nat
  role : Nat
  gidx : Nat
  width : Nat
  budget : Nat
  pc : BitVec 57
  step : Nat
  v : Sparse 32
  p : Sparse 64
  u : Sparse 64
  dirty : BitVec 128
  win : List PendWrite
  vars : List VarResult
  launched : W64
  active : W64
  levels : List Level
  joinCtr : List Nat
  fflags : Flags
  mflags : List (Nat × Flags)
  tcause : BitVec 8
  tepc : W64
  tval : W64
  inHandler : Bool
  ops : List PathOp
  reqs : List Req
  spq : List SpAcc
  wct : Nat
  floor : Nat
  stamp : Nat
  lastTime : Nat
  lastCycle : Nat
  region : Option Nat
  batch : Nat
  wait : Wait
  synced : Option (Nat × Bool)
  push : Option Push
  lastIssue : Nat
  live : Bool
  frag : Option FragInfo
deriving DecidableEq, Repr

/-- R199: an L1 line of a wide core, with the frame and attributes under which it was filled. -/
structure L1Line where
  core : Nat
  asid : Nat
  line : Nat
  pa : Nat
  attr : PageAttr
  valid : BitVec 32
  dirty : BitVec 32
  data : Sparse 32
  owned : Bool
  expiry : Nat
  permR : Bool
  permW : Bool
  stamp : Nat
deriving DecidableEq, Repr

/-- R202, Table 10.4, with the line stamp of R231 and the frame, attributes and permission under which the line was filled (R209); a fill through a non-canonical name records no permission. -/
structure L2Line where
  asid : Nat
  line : Nat
  pa : Nat
  attr : PageAttr
  permR : Bool
  permW : Bool
  valid : BitVec 32
  dirty : BitVec 32
  data : Sparse 32
  owner : Option Nat
  foreign : BitVec 32
  lease : Nat
  pin : Nat
  pinCtx : Nat
  stamp : Nat
deriving DecidableEq, Repr

/-- R203: a word recall on its way from a slice to an owner, and the completion time of the write that sent it. -/
structure Recall where
  core : Nat
  home : Nat
  asid : Nat
  line : Nat
  words : BitVec 32
  ctime : Nat
deriving DecidableEq, Repr

/-- R160, R162, R238, R261: a C1 message in flight. An advance carries the address of its `cp.commit` and the stage word that toggles after it. `src` names the unit and operation whose `sp` count it holds, `target` is the address as the sender gave it (Table 21.7), and `sent` says that an advance has gone to the device that holds its counter. -/
inductive SignalKind where
  | arrive (count : Nat)
  | toggle
  | update (core sid : Nat) (bytes : List (Nat × Byte))
  | advance (inc : W64) (floor : Nat) (pc : W64) (stage : Option W32)
deriving DecidableEq, Repr

structure Signal where
  ctx : Nat
  team : Nat
  src : Option (Nat × Nat)
  kind : SignalKind
  cluster : Nat
  sram : Nat
  target : W64
  globalVa : Option Nat
  sent : Bool := false
deriving DecidableEq, Repr

/-- R250: an uncommitted version of a word, oldest first in `State.versions`, with the floor that its store carried (R231). A word is keyed by its canonical ASID and VA. -/
structure Version where
  asid : Nat
  word : Nat
  region : Nat
  value : W32
  pa : Nat
  attr : PageAttr
  floor : Nat
deriving DecidableEq, Repr

/-- R259: a plain write by one of the part's agents, or by the host, that a region's words hold; `poison` says that it is the atomic that adds `data` to a timeline counter and sets its poison bit (R310, R382). A host's has no name but its frame address, and the number of its write (R419). -/
structure Deferred where
  asid : Nat
  addr : W64
  size : Nat
  data : BitVec 128
  floor : Nat
  poison : Bool
  host : Option (Nat × Nat)
deriving DecidableEq, Repr

/-- R250: a region that has read a word, and the value it read first. -/
structure Reader where
  asid : Nat
  word : Nat
  region : Nat
  value : W32
deriving DecidableEq, Repr

/-- Table 12.1: the kinds of edge. -/
inductive EdgeKind where
  | forward | writeOrder | readOrder
deriving DecidableEq, Repr

/-- An edge of the dependence graph. `delivered` says that the signal boxes of both dies hold it (R251); `stalled` names the refused access, by operation and lane, that would record it (R252). -/
structure Edge where
  src : Nat
  dst : Nat
  kind : EdgeKind
  delivered : Bool
  stalled : Option (Nat × Nat)
deriving DecidableEq, Repr

/-- R247, R251: a region's entry in its signal box. -/
structure Region where
  id : Nat
  unit : Nat
  die : Nat
  handler : BitVec 57
  statusReg : Nat
  opened : Nat
  pending : Option Nat
  linesRead : List (Nat × Nat)
  linesWritten : List (Nat × Nat)
deriving DecidableEq, Repr

/-- R262: a write-combining buffer of a publisher entry. -/
structure WcBuf where
  line : Nat
  bytes : List (Nat × Byte)
  opened : Nat
deriving DecidableEq, Repr

/-- R260: a publisher entry and its subscribers by core and sid. -/
structure PubEntry where
  core : Nat
  team : Nat
  base : Nat
  len : Nat
  subs : List (Nat × Nat)
  bufs : List WcBuf
deriving DecidableEq, Repr

/-- R260: a subscriber entry. -/
structure SubEntry where
  core : Nat
  sid : Nat
  team : Nat
  loc : Nat
  len : Nat
  remoteCluster : Nat
  remote : Nat
  pubCore : Nat
  lost : Bool
deriving DecidableEq, Repr

/-- R266, R267, R414, R415: where a ring message stands. -/
inductive MsgPhase where
  | flying
  | refused
  | backoff (until_ : Nat)
deriving DecidableEq, Repr

/-- R265, R296: a receive-ring message in flight: to a ring in FIFO banks (`dest` none, `cluster` and `sram`) or to a global ring homed on device `dest` at `va`; `tries` counts its retry-later answers (R415), `sent` says that it has been handed to the port of another device (R408), and `entry` which entry of its context's replay queue it is parked in (R416). -/
structure Msg where
  src : Nat
  pc : W64
  seq : Nat
  lane : Nat
  ctx : Nat
  cluster : Nat
  dest : Option Nat
  va : Nat
  sram : Nat
  bytes : List Byte
  floor : Nat
  tries : Nat
  sent : Bool
  phase : MsgPhase
  entry : Option Nat := none
deriving DecidableEq, Repr

end Sys2Proof.Machine
end

