-- ==== Sys2Proof/Machine/Engines.lean ====
section
/-!
DEFINITION. The state of the copy engine, the tower bases and the matrix engine, as plain data (chapters 15, 16 and 18).
-/

namespace Sys2Proof.Machine

/-- R309, R310: why engine work has faulted: the address, and the access and reason of Tables 21.5 and 21.6. -/
structure EngineFault where
  addr : W64
  access : Nat
  reason : Nat
deriving DecidableEq, Repr

/-- One end of a copied element: a global address or a cluster SRAM address. -/
structure CopyEnd where
  global : Bool
  addr : W64
deriving DecidableEq, Repr

/-- Table 15.2: which sparse conversion a command performs. -/
inductive ConvKind where
  | unpackBitmap | unpackCsr | unpackCoo | pack | isect | merge
deriving DecidableEq, Repr

/-- R355 to R360: what a copy-engine command does. `lanes` lists the elements in lane order; `tile` is R357; `conv` holds the first and second operand, the P block and the status address. -/
inductive CopyKind where
  | lanes (elems : List (CopyEnd × CopyEnd))
  | tile (srcGlobal dstGlobal : Bool) (src dst : W64) (sstride dstride : Int) (len rows : Nat)
  | zero (addr len : Nat)
  | conv (k : ConvKind) (readSp : Bool) (a b : W64) (block : List W64) (status : Nat)
deriving DecidableEq, Repr

/-- R353: a scratchpad element that a conversion is still to write, and the page, by its size and number, that its value came from. -/
structure CopyOut where
  addr : Nat
  size : Nat
  value : Nat
  page : Option (Nat × Nat)
deriving DecidableEq, Repr

/-- R302, R308: a command in the copy queue or its spill ring. `next` counts the elements done; `floor` is the issuing group's floor at issue; `ctime` the greatest completion time among its global writes; `held` lists the words, by ASID, on which its next write is held (R259); `got` holds source elements read before their turn, by number or, in a conversion, by address and size (R307, R357); `sent` is when the next element's request went to another device; `writes` lists what a conversion that has been walked is still to write. -/
structure CopyCmd where
  seq : Nat
  core : Nat
  team : Nat
  unit : Nat
  batch : Nat
  pc : W64
  size : Nat
  kind : CopyKind
  floor : Nat
  next : Nat
  ctime : Nat
  entries : Nat
  held : List (Nat × Nat)
  got : List (Nat × BitVec 128)
  sent : Option Nat
  writes : Option (List CopyOut)
  fault : Option EngineFault
deriving DecidableEq, Repr

/-- R311, R312, R359: a gather or scatter of the tower base. A segment is its lane's scratchpad address, list start and count; `got` holds elements read before their turn: their number, index and value (R307). -/
structure TowerCmd where
  seq : Nat
  core : Nat
  team : Nat
  unit : Nat
  pc : W64
  ticket : Nat
  scatter : Bool
  size : Nat
  listSp : Bool
  list : W64
  base : W64
  segs : List (Nat × Nat × Nat)
  floor : Nat
  next : Nat
  ctime : Nat
  entries : Nat
  held : List (Nat × Nat)
  got : List (Nat × Nat × BitVec 128)
  fault : Option EngineFault
deriving DecidableEq, Repr

/-- R326: the operand latch: rows by lane as 48 bytes, scale words, the active mask at capture and the capturing group. -/
structure Latch where
  unit : Nat
  mask : W64
  rows : Sparse 384
  scales : Sparse 16
deriving DecidableEq, Repr

/-- Where the A operand of a command comes from: rows captured at issue for each step, the latch, or scratchpad. -/
inductive ASource where
  | regs (steps : List (Sparse 384)) (scales : Sparse 16)
  | latch
  | sp (base : Nat) (inc : Int)
deriving DecidableEq, Repr

/-- R361 to R365: what a matrix command does. `keep` says that the command leaves A in the latch, `drop` that it empties it. -/
inductive MatrixKind where
  | steps (a : ASource) (b : Nat) (incB : Int) (fmt : BitVec 16) (n gran : Nat) (keep drop : Bool)
  | zero
  | load (base : Nat) (stride : W64) (rows : Nat)
  | store (base : Nat) (stride : W64) (rows fmt : Nat) (sat : Bool)
  | hadamard (base : Nat) (stride : W64) (rows cols n fmt : Nat)
deriving DecidableEq, Repr

/-- R320, R333: a command of a team's engine context with its progress: `word` is the command's own word, `next` counts the steps, rows or blocks done; `seen` lists the banks that the step in progress has read, with their zero flags, `got` their bytes by address and `bad` their poisoned words (R329); `outs` the elements still to be written, by address, size and value (R353). -/
structure MatrixCmd where
  unit : Nat
  pc : W64
  word : W64
  ticket : Nat
  tile : Nat
  mask : W64
  kind : MatrixKind
  next : Nat
  seen : List (Nat × Bool)
  got : Sparse 8
  bad : List Nat
  outs : List (Nat × Nat × Nat)
  finished : Bool
deriving DecidableEq, Repr

/-- Table 10.1: the mode of a bank of an allocation. -/
inductive BankMode where
  | cache | sp | fifo
deriving DecidableEq, Repr

structure Bank where
  idx : Nat
  mode : BankMode
deriving DecidableEq, Repr

end Sys2Proof.Machine
end

