-- ==== Sys2Proof/Machine/Grids.lean ====
section
/-!
DEFINITION. The state of teams, grids and launch records, as plain data (chapters 06, 07, 17).
-/

namespace Sys2Proof.Machine

/-- R130: the role fields of a kernel descriptor: group count, group width, register budget. -/
structure RoleDesc where
  groups : Nat
  width : Nat
  budget : Nat
deriving DecidableEq, Repr

/-- R130, Table 6.2: a valid kernel descriptor. -/
structure KernelDesc where
  entry : W64
  roles : List RoleDesc
  spBanks : Nat
  cacheBanks : Nat
  fifoBanks : Nat
  argBytes : Nat
  xthr : Nat
  accTiles : Nat
  chk : Bool
  det : Bool
  coresident : Bool
  tvec : W64
deriving DecidableEq, Repr

/-- R340, Table 17.2: a launch record as it was read. -/
structure LaunchRecord where
  desc : W64
  args : W64
  completion : W64
  tx : Nat
  ty : Nat
  tz : Nat
  ranges : W64
  rangeCount : Nat
  priority : Nat
  ragged : Bool
  coresident : Bool
  det : Bool
  curve : Nat
  rows : Nat
  tileW : Nat
  tileH : Nat
  user : W64
deriving DecidableEq, Repr

/-- R221: a declared range after rounding. -/
structure GridRange where
  base : Nat
  bytes : Nat
  write : Bool
deriving DecidableEq, Repr

/-- R339, R344, R349: where a grid stands. -/
inductive GridPhase where
  | waiting | started | finished
deriving DecidableEq, Repr

/-- R341, Table 21.6: why a record launches nothing: access, reason and address of its fault record. -/
structure LaunchFault where
  access : Nat
  reason : Nat
  addr : W64
deriving DecidableEq, Repr

/-- R18: memory as it stood at one moment: the towers with the keys of their lines, and the host's memory. -/
structure CodeImage where
  mem : Sparse 8
  keys : Sparse 513
  host : Sparse 8
deriving DecidableEq, Repr

def CodeImage.empty : CodeImage := { mem := [], keys := [], host := [] }

/-- A live grid (R339): its record, what it was read with, the address of its slot, its place in the curve order, its teams' greatest write-completion time, and the code it fetches (R18): memory at its launch, the frame bytes its teams have written since, and, for each 64-KiB page that its launch mapped nowhere, memory when a fetch first found it. -/
structure Grid where
  ctx : Nat
  queue : Nat
  slot : W64
  order : Nat
  number : Nat
  record : LaunchRecord
  desc : Option KernelDesc
  ranges : List GridRange
  priority : Nat
  invalid : Option LaunchFault
  phase : GridPhase
  args : List Byte
  placed : Nat
  exited : Nat
  terminated : Bool
  wct : Nat
  waited : Nat
  code : CodeImage
  written : List Nat
  late : List (Nat × CodeImage)
deriving DecidableEq, Repr

/-- R348, R381, R385, R393: the life of a team. -/
inductive TeamLife where
  | placed | running | exited | saved | gated
deriving DecidableEq, Repr

/-- A team (R135): its identity, its CSRs (R31), its banks (R192), its engine context (R320, R330) and its tickets (R303, R321). `latchPlan` is the group and mask of the latch as it will stand after every accepted command (R326). `stallSince` is when the watchdog first saw the team stalled and the issue steps of its units then (R391). -/
structure Team where
  ctx : Nat
  grid : Nat
  x : Nat
  y : Nat
  z : Nat
  linear : Nat
  core : Nat
  base : Nat
  desc : KernelDesc
  xthr : Nat
  chk : Bool
  det : Bool
  frm : Nat
  lease : Nat
  banks : List Bank
  acc : Sparse 32
  latch : Option Latch
  latchPlan : Option (Nat × W64)
  queue : List MatrixCmd
  mTicket : Nat
  tTicket : Nat
  life : TeamLife
  terminated : Bool
  wct : Nat
  stallSince : Option (Nat × Nat)
deriving DecidableEq, Repr

end Sys2Proof.Machine
end

