-- ==== Sys2Proof/Machine/Hosts.lean ====
section
/-!
DEFINITION. The state of contexts, links, the host interface and firmware, as plain data (chapters 21, 23 and 24).
-/

namespace Sys2Proof.Machine

/-- R424, Table 24.5: the state of a registered context. -/
inductive CtxPhase where
  | running | saving | saved | killed
deriving DecidableEq, Repr

/-- R422: what a context entry supplies; ring and queue bases carry their log2 counts apart. -/
structure CtxEntry where
  root : Nat
  asid : Nat
  queues : List W64
  faultRing : W64
  eventRing : W64
  replayBase : W64
  replayLog : Nat
  spillBase : W64
  spillLog : Nat
  status : W64
  prelim : Nat
  farto : Nat
deriving DecidableEq, Repr

/-- A registered context (R422 to R424): its fault id count and the faults awaiting a response (R377, R378), its judged queues (R337), its sealed ranges as base and bytes (R215) and what carries their mark, by a range's base, a page of its name and the page of the frame (R419), its save area, where the next image goes in it and how many there are (R383, R385, R386), when its teams must be saved (R391), and what a slot of its queues held before (R338): memory at registration, and for a slot that has been read, by queue and address, its bytes then. -/
structure Context where
  slot : Nat
  entry : CtxEntry
  phase : CtxPhase
  enabled : Bool
  faultId : Nat
  awaiting : List (Nat × Nat)
  queueValid : List Bool
  sealed : List (Nat × Nat)
  marks : List (Nat × Nat × Nat)
  saveBase : W64
  saveNext : Nat
  images : Nat
  deadline : Nat
  opened : CodeImage := CodeImage.empty
  slots : List (Nat × W64 × List Byte) := []
deriving DecidableEq, Repr

/-- Table 24.4: the registers of a doorbell block; `status` is the low two bits, 1 while a command runs, and `waiting` the commands written behind it (R423). -/
structure Doorbell where
  slot : Nat
  saveArea : W64
  saveSize : W64
  status : Nat
  waiting : List W64 := []
deriving DecidableEq, Repr

/-- Table 24.2: a host window, its four 64-bit parts; `since` is the number of the next operation when it was last written: earlier ones were translated under an older value (R421). -/
structure HostWindow where
  base : W64
  len : W64
  host : W64
  ctl : W64
  since : Nat := 0
deriving DecidableEq, Repr

/-- R405: an export window for linked devices; `ctx` is the exporting context's slot. -/
structure LinkWindow where
  pa : Nat
  bytes : Nat
  ctx : Nat
  asid : Nat
  va : Nat
  read : Bool
  write : Bool
  devices : List Nat
deriving DecidableEq, Repr

/-- R409 to R413: one Jolorlink port. `seq` is the latest number sent and `ack` the latest received in order. The counts are those of the send window: consumed C, held H, grants received S; at the receiver occupied O, freed P, grants sent G. `asked` says that a replay has been asked for and the flit expected has not come since (R411); `taken` counts, by class, the reserved units in use (R410); `queue` lists flits that are to be numbered and sent before anything else (R412, R413). -/
structure Port where
  up : Bool
  peer : Nat
  seq : BitVec 12
  ack : BitVec 12
  replay : List Flit
  toSend : List Flit
  inbox : List Flit
  consumed : BitVec 16
  held : Nat
  received : BitVec 16
  occupied : Nat
  freed : Nat
  sent : BitVec 16
  failed : Nat
  sinceAudit : Nat
  asked : Bool
  taken : List Nat
  queue : List Flit
deriving DecidableEq, Repr

/-- R419: a write of the host: how many of its words regions hold, the greatest completion time of the others, and the slice that fronts its line. -/
structure HostWrite where
  held : Nat
  ctime : Nat
  slice : Nat
deriving DecidableEq, Repr

/-- R426, R429: how the module runs. -/
inductive ModulePhase where
  | running | recovery | stopped
deriving DecidableEq, Repr

/-- R385, R387, R392, R393: a saved team: the context and cluster that the core table keeps, and the state that its image holds: the team with its banks, its scratchpad and FIFO bytes by cluster address, their zero flags, stamps and poisoned words, and where the bytes of its banks begin in the save area (R392; a power-gated team has none there). Its groups, fragments and subscriptions stay as they stand in the state's lists. -/
structure SavedTeam where
  team : Nat
  ctx : Nat
  cluster : Nat
  gated : Bool
  record : Team
  sram : Sparse 8
  zeroFlags : List Nat
  stamps : Sparse 64
  poison : List Nat
  image : Option W64
deriving DecidableEq, Repr

/-- R404, R406, R408, R414: what waits to leave for another device: a request of class 2, a ring message of class 0, or, with class 5, the reply to a request of that device; how many flits it takes and how many have left; and the lane that it comes from: its unit, operation and lane, none for one of an agent's. -/
structure Outgoing where
  dest : Nat
  req : RemoteReq
  lane : Option (Nat × Nat × Nat)
  cls : BitVec 3 := 2
  flits : Nat := 1
  gone : Nat := 0
deriving DecidableEq, Repr

/-- R396, R405, R414, R415: what this device answers to a linked device. -/
inductive RemoteAnswer where
  | done | refused | poisoned | ringInvalid | ringFull | retryLater
deriving DecidableEq, Repr

/-- R405 to R407: an answer to a linked device, with the data, the stamp and the completion time. -/
structure RemoteReply where
  dev : Nat
  answer : RemoteAnswer
  data : BitVec 128
  stamp : Nat
  ctime : Nat
deriving DecidableEq, Repr

/-- R430: the repairs that firmware has recorded for the next reset: towers with a spare row in use, ports with a spare lane in use, spare clusters engaged and pseudo-channels retired, all that are in force. -/
structure Repairs where
  rows : List Nat
  lanes : List Nat
  spares : List Nat
  channels : List Nat
deriving DecidableEq, Repr

/-- R428: an attestation report: the measurements, the host's nonce, and the identity whose keys sign it under both algorithms. -/
structure Attestation where
  firmware : BitVec 384
  config : BitVec 384
  nonce : List Byte
  signer : W64
deriving DecidableEq, Repr

end Sys2Proof.Machine
end

