-- ==== Sys2Proof/Machine/State.lean ====
section
/-!
DEFINITION. The whole state of the part as plain data, the reasons a step can stop, and the state after module reset.
-/

namespace Sys2Proof.Machine

/-- What moves next: a unit issues its next word, an agent takes a step of its own, the host reads eight bytes of BAR0 (R420), system software registers an export window (R405; log entry 123), a doorbell command that is busy goes on (R423), or global time goes on by some ns. -/
inductive Choice where
  | issue (u : Nat)
  | event (i : Instr)
  | register (off : Nat)
  | exportWindow (w : LinkWindow)
  | command (slot : Nat)
  | elapse (ns : Nat)
deriving DecidableEq, Repr

/-- The part. `agenda` is the order in which agents move next (empty: a fair default order), `focus` the unit whose word executes, `free` numbers free values, `seq` numbers operations: these four and `tick` are the model's own (log entries 1 and 2). Units and teams are named by their place in their lists and never leave them. `outbox`, `replies`, `hostData` and `report` are what the part gives the outside world: requests to linked devices, answers to theirs, the data of the host's last read, its writes with their completion times and the last attestation report. `vacating` lists the towers for which firmware has asked the host to vacate frames, and `vacated` those for which it has (R430). `cycles` is the latest reading of each wide core's cycle count (R121). `now` is true global time, `ref` the device's time reference and `skew` the correction of it that firmware has still to slew (R402). -/
structure State where
  agenda : List Choice
  focus : Option Nat
  free : Nat
  seq : Nat
  tick : Nat
  now : Nat
  ref : Nat
  mem : Sparse 8
  hostMem : Sparse 8
  sram : Sparse 8
  zeroBanks : List Nat
  spStamp : Sparse 64
  homeCache : List (Nat × Nat × Nat)
  remaps : List (Nat × Nat × Nat × Nat × Nat)
  units : List Unit
  teams : List Team
  grids : List Grid
  contexts : List Context
  doorbells : List Doorbell
  l1 : List L1Line
  l2 : List L2Line
  recalls : List Recall
  evictedLease : Sparse 64
  evictedStamp : Sparse 64
  towerStamp : Sparse 64
  signals : List Signal
  batches : List Batch
  copies : List CopyCmd
  gathers : List TowerCmd
  versions : List Version
  readers : List Reader
  edges : List Edge
  deferred : List Deferred
  regions : List Region
  regionCount : Nat
  pubs : List PubEntry
  subs : List SubEntry
  msgs : List Msg
  saved : List SavedTeam
  poisonMem : List Nat
  poisonSram : List Nat
  poisonL1 : List (Nat × Nat × Nat)
  poisonL2 : List (Nat × Nat)
  keys : List (Nat × BitVec 512)
  lineKeys : Sparse 513
  retiredChannels : List Nat
  spareClusters : List Nat
  sparedRows : List Nat
  sparedLanes : List Nat
  vacating : List Nat
  vacated : List Nat
  repairs : Repairs
  ports : List Port
  linkWindows : List LinkWindow
  linkAllow : List (Nat × List Nat)
  outOfStep : List Nat
  deviceId : Nat
  master : Nat
  inStep : Bool
  windows : List HostWindow
  sealedDrops : W64
  mailbox : Sparse 8
  identity : W64
  capMap : BitVec 16
  phase : ModulePhase
  firmware : Firmware
  config : ConfigRecord
  throttle : Nat
  cycles : Sparse 64
  corrected : Nat
  outbox : List Outgoing
  replies : List RemoteReply
  hostData : List Byte
  hostWrites : List HostWrite
  report : Option Attestation
  skew : Int
  lastSync : Nat
deriving DecidableEq, Repr

/-- Why a step stops. An agent whose step cannot be taken yet waits: the step leaves the state as it is (log entry 97). -/
inductive Fault where
  /-- Raised by the meaning of a word when no unit of the part is named to execute it. Safe: the model stops where the part has no such step. -/
  | noUnit
deriving DecidableEq, Repr

/-- Why a step has no meaning. -/
inductive Refusal where
  /-- Raised by an arm of `exec` for an instruction that has no meaning yet. Safe: the model stops. -/
  | notModelled (mnemonic : String)
deriving DecidableEq, Repr

/-- The outcome of a step. -/
abbrev Out := Host.Outcome State Fault Refusal

/-- R409: a port before link training. -/
def Port.reset : Port :=
  { up := false, peer := 0xFFF, seq := 0, ack := 0, replay := [], toSend := [], inbox := [],
    consumed := 0, held := 0, received := 0, occupied := 0, freed := 0, sent := 0, failed := 0, sinceAudit := 0, asked := false, taken := [0, 0, 0, 0, 0, 0], queue := [] }

/-- R421: a host window at module reset. -/
def HostWindow.reset : HostWindow := { base := 0, len := 0, host := 0, ctl := 0 }

/-- The part after a module reset whose firmware and configuration record verify (R426), as a device alone: every field the manual gives, and the values that log entries 3 to 9 name. -/
def State.reset : State :=
  { agenda := [], focus := none, free := 0, seq := 0, tick := 0, now := 0, ref := 0, mem := [], hostMem := [], sram := [],
    zeroBanks := [], spStamp := [], homeCache := [], remaps := [], units := [], teams := [], grids := [], contexts := [], doorbells := [], l1 := [], l2 := [],
    recalls := [], evictedLease := [], evictedStamp := [], towerStamp := [], signals := [], batches := [], copies := [], gathers := [],
    versions := [], readers := [], edges := [], deferred := [], regions := [], regionCount := 0, pubs := [], subs := [], msgs := [],
    saved := [], poisonMem := [], poisonSram := [], poisonL1 := [], poisonL2 := [], keys := [], lineKeys := [], retiredChannels := [],
    spareClusters := [], sparedRows := [], sparedLanes := [], vacating := [], vacated := [],
    repairs := { rows := [], lanes := [], spares := [], channels := [] },
    ports := [Port.reset, Port.reset, Port.reset, Port.reset, Port.reset, Port.reset, Port.reset, Port.reset,
      Port.reset, Port.reset, Port.reset, Port.reset],
    linkWindows := [], linkAllow := [], outOfStep := [], deviceId := 0, master := 0, inStep := true,
    windows := [HostWindow.reset, HostWindow.reset, HostWindow.reset, HostWindow.reset, HostWindow.reset,
      HostWindow.reset, HostWindow.reset, HostWindow.reset, HostWindow.reset, HostWindow.reset, HostWindow.reset,
      HostWindow.reset, HostWindow.reset, HostWindow.reset, HostWindow.reset, HostWindow.reset],
    sealedDrops := 0, mailbox := [], identity := 0, capMap := 0xFFF7, phase := .running,
    firmware := { rsaOk := true, slhOk := true, version := 0, measure := 0 },
    config := { rsaOk := true, slhOk := true, capMap := 0xFFF7, spares := [], retired := [], minVersion := 0, measure := 0 },
    throttle := 0, cycles := [], corrected := 0, outbox := [], replies := [], hostData := [], hostWrites := [], report := none, skew := 0, lastSync := 0 }

end Sys2Proof.Machine
end

