-- ==== Sys2Proof/Machine/Regs.lean ====
section
/-!
DEFINITION. Registers: latency windows and their landing (R19, R20), variable-latency results (R21), reads with the fragment rules (R43, R151, R153), path counters (R227, R228).
-/

namespace Sys2Proof.Machine

/-- A unit, team, grid or context of the state by its number. -/
def State.unit? (s : State) (u : Nat) : Option Unit := nth? s.units u

def State.team? (s : State) (t : Nat) : Option Team := nth? s.teams t

def State.setUnit (s : State) (u : Nat) (x : Unit) : State := { s with units := modNth (fun _ => x) s.units u }

def State.modUnit (s : State) (u : Nat) (f : Unit → Unit) : State := { s with units := modNth f s.units u }

def State.modTeam (s : State) (t : Nat) (f : Team → Team) : State := { s with teams := modNth f s.teams t }

/-- The pairs of a list whose lane is not among those of another write. -/
def lessLanes (vals : List (Nat × W64)) (other : List (Nat × W64)) : List (Nat × W64) :=
  vals.filter fun x => !(other.any fun y => y.1 == x.1)

/-- R151: a register put in front of a fragment's cache; past 32 registers the least recently used one leaves, and a dirty one goes back. -/
def Unit.touch (u : Unit) (r : Nat) (dirty : Bool) : Unit :=
  match u.frag with
  | none => u
  | some f =>
    let was := f.cache.any fun c => c.1 == r && c.2
    let rest := f.cache.filter fun c => c.1 != r
    let cache := (r, dirty || was) :: rest
    match cache.drop 32 with
    | [] => { u with frag := some { f with cache := cache } }
    | (r', d') :: _ =>
      let val := sget u.v (r' * 64 + f.lane)
      { u with
        v := sset u.v (r' * 64 + f.lane) 0
        frag := some { f with cache := cache.take 32, back := if d' then f.back ++ [(r', val)] else f.back } }

/-- One register takes new values in some lanes: a uniform `s0` and a predicate `p7` discard them (R12), flags accumulate (R23). -/
def Unit.put (u : Unit) (w : RegWrite) : Unit :=
  match w.kind with
  | .v =>
    let u' := { u with v := w.vals.foldl (fun (m : Sparse 32) (x : Nat × W64) => sset m (w.idx * 64 + x.1) (BitVec.setWidth 32 x.2)) u.v }
    if w.vals.isEmpty then u' else u'.touch w.idx true
  | .p =>
    if w.idx = 7 then u
    else
      let m := w.vals.foldl (fun (m : W64) (x : Nat × W64) => if x.2 == 0 then m &&& ~~~((1 : W64) <<< x.1) else m ||| ((1 : W64) <<< x.1)) (sget u.p w.idx)
      { u with p := sset u.p w.idx m }
  | .u =>
    if w.idx = 0 then u
    else { u with u := w.vals.foldl (fun (m : Sparse 64) (x : Nat × W64) => sset m w.idx x.2) u.u }
  | .fl => { u with fflags := w.vals.foldl (fun (m : Flags) (x : Nat × W64) => m ||| x.2.setWidth 5) u.fflags }

def Unit.puts (u : Unit) (ws : List RegWrite) : Unit := ws.foldl Unit.put u

/-- R20: the windows that stay open at a step: an entry is gone once it is readable, and an older entry of the same register loses the lanes that a newer readable one has written. Flags accumulate, so they stand apart (R23). -/
def openWindows (step : Nat) : List PendWrite → List PendWrite
  | [] => []
  | e :: rest =>
    let later := rest.filter fun x => x.kind != .fl && x.kind == e.kind && x.idx == e.idx && decide (x.due ≤ step)
    let e' : PendWrite := { e with
      vals := later.foldl (fun (vs : List (Nat × W64)) (x : PendWrite) => lessLanes vs x.vals) e.vals
      hidden := e.hidden || !later.isEmpty }
    if e.due ≤ step ∨ (e'.vals.isEmpty ∧ e'.hidden = true) then openWindows step rest else e' :: openWindows step rest

/-- R20: the unit with every write that is readable at a step written to its register, in program order. -/
def Unit.landAt (u : Unit) (step : Nat) : Unit :=
  let due := u.win.filter fun e => decide (e.due ≤ step)
  let u' := { u with win := openWindows step u.win }
  due.foldl (fun a e => a.put ⟨e.kind, e.idx, e.vals⟩) u'

/-- R27: every window completed. -/
def Unit.landAll (u : Unit) : Unit :=
  let u' := { u with win := [] }
  u.win.foldl (fun a e => a.put ⟨e.kind, e.idx, e.vals⟩) u'

/-- R21: a variable-latency result is written; older windows of the same register lose those lanes, so that writes take effect in program order. -/
def Unit.putVar (u : Unit) (w : RegWrite) : Unit :=
  let u' := { u with
    win := u.win.map fun (e : PendWrite) => if e.kind == w.kind && e.idx == w.idx then { e with vals := lessLanes e.vals w.vals, hidden := true } else e }
  u'.put w

/-- R21, R107: values return to the registers of a unit, and a word that waited for one is ready again; a unit that has ended discards them. -/
def Unit.landWrites (u : Unit) (ws : List RegWrite) : Unit :=
  if u.live then { ws.foldl Unit.putVar u with wait := if u.wait = .scoreboard then .none else u.wait } else u

/-- R149: the copy of a fragment thread takes the uniform values that were still returning to unit `parent` at the `br.div`. -/
def Unit.takeLate (parent : Nat) (ws : List RegWrite) (x : Unit) : Unit :=
  match x.frag with
  | none => x
  | some f =>
    if f.parent = parent then
      let mine := ws.filter fun w => w.kind == .u && f.late.contains w.idx
      { x with
        u := mine.foldl (fun (m : Sparse 64) (w : RegWrite) => w.vals.foldl (fun (m : Sparse 64) (y : Nat × W64) => sset m w.idx y.2) m) x.u
        frag := some { f with late := f.late.filter fun r => !(mine.any fun w => w.idx == r) } }
    else x

/-- R21: values return to a unit, which stands as `u`; a uniform value reaches the fragments that left while it was on its way (R149). -/
def State.landWrites (s : State) (uid : Nat) (u : Unit) (ws : List RegWrite) : State :=
  let s1 := s.setUnit uid (u.landWrites ws)
  if ws.any fun w => w.kind == .u then { s1 with units := s1.units.map (Unit.takeLate uid ws) } else s1

/-- R25: the value of a vector register in a lane; a clear dirty bit reads zero. -/
def Unit.vget (u : Unit) (r l : Nat) : W32 := if u.dirty.getLsbD r then sget u.v (r * 64 + l) else 0

/-- A uniform register; `s0` reads zero. -/
def Unit.uget (u : Unit) (r : Nat) : W64 := if r = 0 then 0 else sget u.u r

/-- The lanes in which a predicate is true; `p7` is true everywhere. -/
def Unit.pmask (u : Unit) (i : Nat) : W64 := if i = 7 then BitVec.allOnes 64 else sget u.p i

/-- R153: what the parent may read in a lane of an outstanding fragment: the value in its file, or one that a write-back has replaced. -/
def Unit.fragValues (u : Unit) (r l : Nat) : Option (List W32) :=
  u.levels.findSome? fun lv =>
    match lv.kind with
    | .exported _ lanes old false =>
      if lanes.getLsbD l then some (u.vget r l :: (old.filter fun x => x.1 == r * 64 + l).map Prod.snd) else none
    | _ => none

/-- The newest value a fragment thread holds of a register, in its cache or on its way back. -/
def Unit.cached (u : Unit) (f : FragInfo) (r : Nat) : Option W32 :=
  if f.cache.any fun c => c.1 == r then some (u.vget r f.lane)
  else (f.back.filter fun x => x.1 == r).getLast?.map Prod.snd

/-- The unit of the thread of lane `l` in the fragment that `f` belongs to. -/
def State.sibling? (s : State) (f : FragInfo) (l : Nat) : Option Unit :=
  s.units.find? fun x =>
    match x.frag with
    | some g => g.parent == f.parent && g.ctr == f.ctr && g.lane == l && x.live
    | none => false

/-- R43, R151, R153: the value of a vector register in any lane, as unit `u` reads it. -/
def State.readV (s : State) (u : Unit) (r l : Nat) : W32 :=
  match u.frag with
  | some f =>
    if l = f.lane then u.vget r l
    else if f.lanes.getLsbD l then
      let file := match s.unit? f.parent with
        | some p => p.vget r l
        | none => 0
      match s.sibling? f l with
      | some x => match x.frag with
        | some g => ((x.landAt x.step).cached g r).getD file
        | none => file
      | none => file
    else 0
  | none =>
    match u.fragValues r l with
    | some vs => nth 0 vs ((Config.free s.free (65536 + r * 64 + l)).toNat % vs.length)
    | none => u.vget r l

/-- R227: the number of operations of a path issued and not yet retired. -/
def Unit.count (u : Unit) (p : Path) : Nat := (u.ops.filter fun o => o.path == p).length

/-- R228: operations retire in issue order, path by path. -/
def retireOps : List PathOp → List PathOp
  | [] => []
  | o :: rest => if o.returned then retireOps rest else o :: retireRest [o.path] rest
where
  /-- The operations behind an unreturned one of the paths in `held`. -/
  retireRest (held : List Path) : List PathOp → List PathOp
  | [] => []
  | o :: rest =>
    if o.returned && !(held.contains o.path) then retireRest held rest else o :: retireRest (o.path :: held) rest

/-- The operation with a sequence number has returned. -/
def Unit.returnOp (u : Unit) (seq : Nat) : Unit :=
  { u with ops := retireOps (u.ops.map fun o => if o.seq == seq then { o with returned := true } else o) }

/-- The group a unit belongs to: a fragment thread belongs to its parent's (R135). -/
def Unit.root (u : Unit) (uid : Nat) : Nat :=
  match u.frag with
  | some f => f.parent
  | none => uid

/-- Whether a unit is a thread of the fragment that left a parent under a counter. -/
def Unit.inFragment (u : Unit) (parent ctr : Nat) : Bool :=
  match u.frag with
  | some g => g.parent == parent && g.ctr == ctr && u.live
  | none => false

/-- Whether a unit is a lower-numbered thread of the fragment that `f` belongs to. -/
def Unit.lowerThread (u : Unit) (f : FragInfo) : Bool := u.inFragment f.parent f.ctr && (u.frag.elim false fun g => decide (g.lane < f.lane))

/-- R159, R230, R246: whether a scratchpad access that a group issued before a fragment left is still to be performed. -/
def State.groupSpAhead (s : State) (u : Unit) : Bool :=
  match u.frag with
  | none => false
  | some f => (s.unit? f.parent).elim false fun p => p.spq.any fun a => decide (a.seq < f.since)

/-- R367: whether an `lq.push` of the unit has claimed its slot, and is to be finished. -/
def Unit.claimed (u : Unit) : Bool := u.push.elim false fun p => p.claimed

/-- Whether nothing of the unit's own instructions is still on its way (R27). -/
def Unit.drained (u : Unit) : Bool := u.vars.isEmpty && (u.reqs.all fun r => r.kind == .prefetch) && u.spq.isEmpty

/-- The registers of a span that begins at `r`. -/
def spanRegs (k : RegKind) (r n : Nat) : List (RegKind × Nat) := (List.range n).map fun i => (k, r + i)

/-- R21: the registers with a variable-latency write pending. -/
def Unit.pendingRegs (u : Unit) : List (RegKind × Nat) :=
  (u.vars.flatMap fun v => v.writes.map fun w => (w.kind, w.idx)) ++
  (u.reqs.flatMap fun r =>
    (if r.span = 0 then [] else spanRegs (if r.uni then .u else .v) r.dest r.span) ++
    (match r.okPred with
      | some p => [(RegKind.p, p)]
      | none => [])) ++
  (u.spq.flatMap fun r =>
    spanRegs .v r.dest r.span ++
    (match r.okPred with
      | some p => [(RegKind.p, p)]
      | none => []))

/-- R143: converged: the active mask is the launched mask and no level is on the stack. A fragment thread is always diverged. -/
def Unit.converged (u : Unit) : Bool := u.frag.isNone && u.levels.isEmpty && (u.active == u.launched)

/-- The lanes of a fragment thread or a group that its next word acts on. -/
def Unit.activeLanes (u : Unit) : List Nat := (List.range u.width).filter fun l => u.active.getLsbD l

/-- R36: the lanes that are active and guarded in. -/
def Unit.guarded (u : Unit) (g : BitVec 4) : W64 :=
  let m := u.pmask (g.extractLsb' 0 3).toNat
  u.active &&& (if g.getLsbD 3 then ~~~m else m)

def Unit.guardedLanes (u : Unit) (g : BitVec 4) : List Nat := (List.range u.width).filter fun l => (u.guarded g).getLsbD l

end Sys2Proof.Machine
end

