-- ==== Sys2Proof/Machine/Memory.lean ====
section
/-!
DEFINITION. The levels of memory: towers and frames (R206, R421), translation (R209 to R212), L2 and L1 lines, recalls and write-backs (R199 to R205), leases and stamps (R224, R231), poison (R396).
-/

namespace Sys2Proof.Machine

/-- R206: the end of tower memory, and the bytes of one tower. -/
def towerEnd : Nat := 0x14000000000

def towerBytes : Nat := 80 * 2 ^ 30

/-- R223: the agents that keep a clock: the cluster ports, the slices, the tower bases, the Dispatcher, the NIs of the clusters, the narrow cores. A wide core reads that of its cluster's port. -/
def portClock (cluster : Nat) : Nat := cluster

def sliceClock (home : Nat) : Nat := 128 + home

def towerClock (tower : Nat) : Nat := 256 + tower

def dispatcherClock : Nat := 272

def niClock (cluster : Nat) : Nat := 273 + cluster

/-- The narrow core on which the thread of a lane runs. -/
def narrowClock (cluster lane : Nat) : Nat := 401 + 64 * cluster + lane

/-- R402: what an agent reads when the device's reference reads `ref`: within 2 ns of it, and never less than it has read before. -/
def agentClock (ref agent : Nat) : Nat := (List.range 5).foldl (fun (m k : Nat) => max m (ref - k + Config.skew (agent + 1) (ref - k) % 5 - 2)) 0

/-- R223, R402: what the clock of an agent reads; while the device is in step, it lies within 20 ns of true global time. -/
def State.clock (s : State) (agent : Nat) : Nat :=
  if s.inStep then min (s.now + 20) (max (s.now - 20) (agentClock s.ref agent)) else agentClock s.ref agent

/-- R225: the clock reading that a write takes when it is performed; it is never earlier than that moment. -/
def State.writeClock (s : State) (agent : Nat) : Nat := max s.now (s.clock agent)

/-- The next free value is a new one. -/
def State.fresh (s : State) : State := { s with free := s.free + 1 }

/-- How many of `n` pieces of work one step does, where the spec sets no bound to what may fall between two of them: at least one, a free choice (R113, R300, R353). -/
def State.someOf (s : State) (n : Nat) : Nat := if n ≤ 1 then n else 1 + (Config.free s.free 30).toNat % n

/-- R223: an agent knows that global time has passed `t`. -/
def State.passed (s : State) (agent t : Nat) : Bool := decide (t + 40 < s.clock agent)

/-- R421, Table 24.2: the windows in force. -/
def HostWindow.ok (w : HostWindow) : Bool :=
  w.ctl.getLsbD 0 && decide (w.ctl.toNat < 4) && decide (w.base.toNat % 65536 = 0 ∧ w.len.toNat % 65536 = 0 ∧ w.host.toNat % 65536 = 0 ∧
    towerEnd ≤ w.base.toNat ∧ w.base.toNat + w.len.toNat ≤ 2 ^ 52)

/-- R421: whether a host window applies to a frame address. -/
def HostWindow.covers (w : HostWindow) (pa : Nat) : Bool := w.ok && decide (w.base.toNat ≤ pa ∧ pa < w.base.toNat + w.len.toNat)

/-- R421: the host address of a frame address and whether the window allows writes; the lowest-numbered window applies. -/
def State.hostAddr (s : State) (pa : Nat) : Option (Nat × Bool) :=
  s.windows.findSome? fun w => if w.covers pa then some (w.host.toNat + (pa - w.base.toNat), w.ctl.getLsbD 1) else none

/-- R421: the host address of a frame address under the window that its translation found, from how far the two lie apart. -/
def hostAt (pa : Nat) (far : Int) : Nat := ((pa : Int) + far).toNat

/-- R206, R398: whether a tower frame has backing; each retired channel takes the top 1.25 GiB of its tower. -/
def State.backed (s : State) (pa : Nat) : Bool :=
  decide (pa < towerEnd) &&
  (let t := pa / towerBytes
   let gone := (s.retiredChannels.filter fun x => x == t).length * (5 * 2 ^ 28)
   decide (pa % towerBytes < towerBytes - gone))

/-- Bytes of a tower, little-endian (R4). -/
def State.memBytes (s : State) (pa n : Nat) : Nat :=
  (List.range n).foldr (fun i a => (sget s.mem (pa + i)).toNat + 256 * a) 0

def State.memWord (s : State) (pa : Nat) : W32 := BitVec.ofNat 32 (s.memBytes pa 4)

/-- The bytes of a number, lowest first. -/
def bytesOf : Nat → Nat → List Byte
  | 0, _ => []
  | n + 1, x => BitVec.ofNat 8 x :: bytesOf n (x / 256)

def natOfBytes : List Byte → Nat
  | [] => 0
  | b :: bs => b.toNat + 256 * natOfBytes bs

def State.putMem (s : State) (pa : Nat) (bs : List Byte) : State := { s with mem := ssetMany s.mem pa bs }

/-- R207: the key that a slot holds; none for an empty slot. -/
def State.keyOf (s : State) (slot : Nat) : Option (BitVec 512) := (s.keys.find? fun k => k.1 == slot).map fun k => k.2

/-- R207: the line of a frame as the key of a slot deciphers it, when it was enciphered with another key. -/
def State.deciphered (s : State) (slot pa : Nat) : Option (BitVec 1024) :=
  let was := sget s.lineKeys (pa / 128)
  if was = 0 then none
  else match s.keyOf slot with
    | none => none
    | some key =>
      if was.setWidth 512 = key then none
      else some (Aes.xts Aes.decrypt key (pa / 128 * 128) (Aes.xts Aes.encrypt (was.setWidth 512) (pa / 128 * 128) (BitVec.ofNat 1024 (s.memBytes (pa / 128 * 128) 128))))

/-- R207: a byte and a word of a frame under the key of a slot. `State.mem` holds the plain bytes of each line, `State.lineKeys` the key that it is enciphered with, above a bit that says that there is one (log entry 44). -/
def State.keyByte (s : State) (slot pa : Nat) : Byte :=
  match s.deciphered slot pa with
  | none => sget s.mem pa
  | some b => b.extractLsb' (8 * (pa % 128)) 8

def State.keyWord (s : State) (slot pa : Nat) : W32 :=
  match s.deciphered slot pa with
  | none => s.memWord pa
  | some b => b.extractLsb' (8 * (pa % 128)) 32

/-- R207: bytes of one line of a frame written under the key of a slot: the whole line is then enciphered with it. -/
def State.putKey (s : State) (slot pa : Nat) (bs : List Byte) : State :=
  let s1 := match s.deciphered slot pa with
    | none => s
    | some b => s.putMem (pa / 128 * 128) (bytesOf 128 b.toNat)
  { s1.putMem pa bs with lineKeys := sset s1.lineKeys (pa / 128) ((s.keyOf slot).elim 0 fun key => 1#1 ++ key) }

/-- What a walk finds: physical address, attributes, permissions, and the canonical name; `shared` says that it began at another name. -/
structure Xlate where
  pa : Nat
  attr : PageAttr
  shared : Bool
  permR : Bool
  permW : Bool
  asid : Nat
  va : Nat
deriving DecidableEq, Repr

/-- Table 10.8: a leaf entry of a given size at a virtual address. -/
structure Leaf where
  bits : BitVec 128
  size : Nat
deriving DecidableEq, Repr

def Leaf.shared (l : Leaf) : Bool := l.bits.getLsbD 8

def Leaf.pageBits (l : Leaf) : Nat := if l.size = 0 then 16 else if l.size = 1 then 21 else 30

/-- R210, R211, R404: whether a leaf entry is malformed at its level. -/
def leafMalformed (e : BitVec 128) (level : Nat) : Bool :=
  let f := e.toNat
  let fld (lo n : Nat) : Nat := f / 2 ^ lo % 2 ^ n
  let shared := e.getLsbD 8
  let remote := e.getLsbD 15
  decide (level = 3) || decide (fld 2 2 ≠ level) || decide (fld 64 11 ≠ 0) || (!shared && decide (fld 75 53 ≠ 0)) ||
  (!remote && decide (fld 52 12 ≠ 0)) ||
  decide (level = 1 ∧ fld 16 5 ≠ 0) || decide (level = 2 ∧ fld 16 14 ≠ 0) ||
  (e.getLsbD 5 && !e.getLsbD 4) ||
  (remote && !shared && (e.getLsbD 6 || e.getLsbD 7 || decide (fld 9 6 ≠ 0)))

/-- R212: whether a shared leaf leaves the fields zero that it must. -/
def sharedBroken (e : BitVec 128) : Bool :=
  decide (e.toNat / 2 ^ 52 % 2 ^ 12 ≠ 0 ∨ e.toNat / 2 ^ 9 % 2 ^ 7 ≠ 0 ∨ e.toNat / 2 ^ 16 % 2 ^ 36 ≠ 0) ||
  e.getLsbD 6 || e.getLsbD 7

/-- Table 10.7: one walk; a level is its number, the lowest VA bit it indexes and how many. The reasons are those of Table 21.6. -/
def State.walk (s : State) (va : Nat) : List (Nat × Nat × Nat) → Nat → Except Nat Leaf
  | [], _ => .error 1
  | (level, lo, n) :: rest, table =>
    let at' := table + 16 * (va / 2 ^ lo % 2 ^ n)
    if !s.backed at' then .error 3
    else
      let e := BitVec.ofNat 128 (s.memBytes at' 16)
      if !e.getLsbD 0 then .error 0
      else if e.getLsbD 1 then
        if leafMalformed e level then .error 1 else .ok ⟨e, level⟩
      else
        let next := e.toNat / 512 % 2 ^ 43 * 512
        let size := match rest with
          | (_, _, m) :: _ => 16 * 2 ^ m
          | [] => 1
        if level = 0 ∨ e.toNat ≠ next + 1 ∨ next % size ≠ 0 then .error 1
        else State.walk s va rest next

def walkLevels : List (Nat × Nat × Nat) := [(3, 43, 14), (2, 30, 13), (1, 21, 9), (0, 16, 5)]

/-- The live context with an ASID. -/
def State.ctxOfAsid (s : State) (asid : Nat) : Option Context := s.contexts.find? fun c => c.entry.asid == asid

def State.ctx? (s : State) (slot : Nat) : Option Context := s.contexts.find? fun c => c.slot == slot

/-- R404: whether a device is reachable for an ASID. -/
def State.reachable (s : State) (asid dev : Nat) : Bool :=
  (s.linkAllow.any fun x => x.1 == asid && x.2.contains dev) && (s.ports.any fun p => p.up && p.peer == dev) &&
  s.inStep && !(s.outOfStep.contains dev)

/-- R211: the checks on the frame that a walk has found. Log entry 114: a frame in a host window has no tower, and its key slot is not looked at. -/
def State.frameCheck (s : State) (asid : Nat) (x : Xlate) (write : Bool) : Except Nat Xlate :=
  if (write && !x.permW) || (!write && !x.permR) then .error 2
  else match x.attr.device with
    | some d => if s.reachable asid d then .ok x else .error 5
    | none =>
      if towerEnd ≤ x.pa then
        match s.hostAddr x.pa with
        | none => .error 3
        | some (h, w) => if write && !w then .error 2 else .ok { x with attr := { x.attr with host := some ((h : Int) - (x.pa : Int)), window := (s.windows.findIdx? fun k => k.covers x.pa).getD 0 } }
      else if !s.backed x.pa then .error 3
      else if (s.keyOf x.attr.key).isNone then .error 4
      else .ok x

/-- The frame and attributes of a leaf that is not shared. -/
def Leaf.xlate (l : Leaf) (asid va : Nat) (shared permR permW : Bool) : Xlate :=
  let f := l.bits.toNat
  let size := 2 ^ l.pageBits
  { pa := f / 2 ^ 16 % 2 ^ 36 * 2 ^ 16 + va % size
    attr := { ms := l.bits.getLsbD 6, near := l.bits.getLsbD 7, key := f / 2 ^ 9 % 64,
              device := if l.bits.getLsbD 15 then some (f / 2 ^ 52 % 4096) else none, host := none }
    shared := shared, permR := permR, permW := permW, asid := asid, va := va }

/-- R209, R210, R212: the frame that the tables map at a 57-bit address of a context, or the reason it faults. Log entry 113: the canonical name of a large shared page is that of its page, whatever its low bits. -/
def State.mapped (s : State) (asid va : Nat) : Except Nat Xlate :=
  match s.ctxOfAsid asid with
  | none => .error 0
  | some c =>
    match s.walk va walkLevels c.entry.root with
    | .error r => .error r
    | .ok l =>
      let permR := l.bits.getLsbD 4
      let permW := l.bits.getLsbD 5
      if l.shared then
        if sharedBroken l.bits then .error 6
        else
          let casid := l.bits.toNat / 2 ^ 116
          let cva := (l.bits.toNat / 2 ^ 75 % 2 ^ 41 * 2 ^ 16) / 2 ^ l.pageBits * 2 ^ l.pageBits + va % 2 ^ l.pageBits
          match s.ctxOfAsid casid with
          | none => .error 6
          | some cc =>
            match s.walk cva walkLevels cc.entry.root with
            | .error _ => .error 6
            | .ok l' => if l'.shared ∨ l'.size ≠ l.size then .error 6 else .ok (l'.xlate casid cva true permR permW)
      else .ok (l.xlate asid va false permR permW)

/-- R209 to R212: translation of a 57-bit address of a context, or the reason it faults. -/
def State.translate (s : State) (asid va : Nat) (write : Bool) : Except Nat Xlate :=
  match s.mapped asid va with
  | .error r => .error r
  | .ok x => s.frameCheck asid x write

/-- R14: the 57-bit form of a canonical address. -/
def canonical (a : W64) : Bool := (a.extractLsb' 0 57).signExtend 64 == a

def va57 (a : W64) : Nat := a.toNat % 2 ^ 57

/-- R215: whether a line of an ASID lies in a sealed range. -/
def State.sealedLine (s : State) (asid line : Nat) : Bool :=
  s.contexts.any fun c => c.entry.asid == asid && c.sealed.any fun r => decide (r.1 / 128 ≤ line ∧ line < (r.1 + r.2) / 128)

/-- R201: the home slice of a line. -/
def homeSlice (asid line pa : Nat) (near : Bool) : Nat :=
  if near then pa / towerBytes / 4 * 32 + Config.homeHash asid line % 32 else Config.homeHash asid line % 128

/-- The four-byte words of an access: reading and writing `size` bytes at an offset of a line. -/
def readWords (f : Nat → W32) (off size : Nat) : BitVec 128 :=
  if size < 4 then BitVec.ofNat 128 ((f (off / 4)).toNat / 2 ^ (8 * (off % 4)) % 2 ^ (8 * size))
  else BitVec.ofNat 128 ((List.range (size / 4)).foldr (fun i a => (f (off / 4 + i)).toNat + 2 ^ 32 * a) 0)

/-- The word masks of an access, and whether it writes its words whole. -/
def wordMask (off size : Nat) : BitVec 32 := BitVec.ofNat 32 ((2 ^ max 1 (size / 4) - 1) * 2 ^ (off / 4))

def writeWords (f : Nat → W32) (off size : Nat) (d : BitVec 128) : List (Nat × W32) :=
  if size < 4 then
    let old := f (off / 4)
    let m := BitVec.ofNat 32 ((2 ^ (8 * size) - 1) * 2 ^ (8 * (off % 4)))
    [(off / 4, (old &&& ~~~m) ||| ((d.setWidth 32 <<< (8 * (off % 4))) &&& m))]
  else (List.range (size / 4)).map fun i => (off / 4 + i, d.extractLsb' (32 * i) 32)

def setWords (m : Sparse 32) (ws : List (Nat × W32)) : Sparse 32 := ws.foldl (fun a x => sset a x.1 x.2) m

/-- The line a tower holds, by word, under the key of a slot. -/
def State.towerLine (s : State) (slot pa : Nat) : Sparse 32 :=
  (List.range 32).foldl (fun (m : Sparse 32) i => sset m i (s.keyWord slot (pa / 128 * 128 + 4 * i))) []

/-- The place of a line in L1 or L2. -/
def State.l2Index (s : State) (asid line : Nat) : Option Nat := s.l2.findIdx? fun l => l.asid == asid && l.line == line

def State.l2Line? (s : State) (asid line : Nat) : Option L2Line := s.l2.find? fun l => l.asid == asid && l.line == line

def State.l1Line? (s : State) (core asid line : Nat) : Option L1Line :=
  s.l1.find? fun l => l.core == core && l.asid == asid && l.line == line

def State.modL2 (s : State) (asid line : Nat) (f : L2Line → L2Line) : State :=
  { s with l2 := s.l2.map fun l => if l.asid == asid && l.line == line then f l else l }

def State.modL1 (s : State) (core asid line : Nat) (f : L1Line → L1Line) : State :=
  { s with l1 := s.l1.map fun l => if l.core == core && l.asid == asid && l.line == line then f l else l }

def State.dropL1 (s : State) (core asid line : Nat) : State :=
  { s with
    l1 := s.l1.filter fun l => !(l.core == core && l.asid == asid && l.line == line)
    poisonL1 := s.poisonL1.filter fun p => !(p.1 == core && p.2.1 == asid && p.2.2 / 32 == line) }

/-- R198: whether a wide core has a cache-mode bank: a bank of its home share that belongs to no live allocation is one (R191). -/
def State.hasL1 (s : State) (core : Nat) : Bool :=
  let own := s.teams.filter fun t => t.core == core && (t.life == .running || t.life == .placed)
  let held := own.foldl (fun (n : Nat) (t : Team) => n + (t.banks.filter fun b => b.mode != .cache).length) 0
  decide (held < 384)

/-- R396: the words of a line that a poisoned sector brings into L2. -/
def State.linePoison (s : State) (asid line pa : Nat) : List (Nat × Nat) :=
  ((List.range 32).filter fun i => s.poisonMem.contains ((pa / 128 * 128 + 4 * i) / 32)).map fun i => (asid, line * 32 + i)

/-- R396: words of a copy lose their poison. -/
def State.clearPoisonL1 (s : State) (core asid line : Nat) (mask : BitVec 32) : State :=
  { s with poisonL1 := s.poisonL1.filter fun p => !(p.1 == core && p.2.1 == asid && p.2.2 / 32 == line && mask.getLsbD (p.2.2 % 32)) }

/-- R396: words of a copy are as poisoned as those of the slice that they were taken from. -/
def State.takePoison (s : State) (core asid line : Nat) (mask : BitVec 32) : State :=
  let s1 := s.clearPoisonL1 core asid line mask
  { s1 with poisonL1 := s1.poisonL1 ++ ((s.poisonL2.filter fun p => p.1 == asid && p.2 / 32 == line && mask.getLsbD (p.2 % 32)).map fun p => (core, asid, p.2)) }

/-- R203: a word recall reaches its owner and invalidates the words. -/
def State.recallWords (s : State) (r : Recall) : State :=
  (s.modL1 r.core r.asid r.line fun l => { l with valid := l.valid &&& ~~~r.words, dirty := l.dirty &&& ~~~r.words }).clearPoisonL1 r.core r.asid r.line r.words

/-- R220: the recalls that a slice has sent to a core arrive in order, before any later one. -/
def State.deliverRecalls (s : State) (core home : Nat) : State :=
  let mine := s.recalls.filter fun r => r.core == core && r.home == home
  let s' := { s with recalls := s.recalls.filter fun r => !(r.core == core && r.home == home) }
  mine.foldl State.recallWords s'

/-- R204: the dirty words of an owner under a mask whose foreign bit is clear are applied at the slice, with the owner's stamp (R231) and their poison (R396). -/
def State.mergeOwner (s : State) (o asid line : Nat) (mask : BitVec 32) : State :=
  match s.l1Line? o asid line with
  | none => s
  | some a =>
    match s.l2Line? asid line with
    | none => s
    | some b0 =>
      let ws := (List.range 32).filter fun i => a.dirty.getLsbD i && mask.getLsbD i && !b0.foreign.getLsbD i
      let s' := s.modL2 asid line fun b =>
        { b with
          data := setWords b.data (ws.map fun i => (i, sget a.data i))
          dirty := b.dirty ||| (a.dirty &&& mask &&& ~~~b.foreign)
          stamp := max b.stamp a.stamp }
      let merged := ws.map fun i => line * 32 + i
      let bad := (merged.filter fun w => s.poisonL1.contains (o, asid, w)).map fun w => (asid, w)
      { s' with poisonL2 := (s'.poisonL2.filter fun (p : Nat × Nat) => !(p.1 == asid && merged.contains p.2)) ++ bad }.modL1 o asid line
        fun l => { l with dirty := l.dirty &&& ~~~mask }

/-- Table 10.5: a word recall that fetches the words an owner holds dirty. -/
def State.fetchOwner (s : State) (asid line : Nat) (mask : BitVec 32) : State :=
  match s.l2Line? asid line with
  | some b => match b.owner with
    | some o => (s.deliverRecalls o (homeSlice asid line b.pa b.attr.near)).mergeOwner o asid line mask
    | none => s
  | none => s

/-- R204, Table 10.5: a line recall: the owner writes back and drops the line, ownership ends and the foreign mask is cleared. -/
def State.lineRecall (s : State) (asid line : Nat) : State :=
  match s.l2Line? asid line with
  | some b => match b.owner with
    | some o =>
      let s1 := ((s.deliverRecalls o (homeSlice asid line b.pa b.attr.near)).mergeOwner o asid line (BitVec.allOnes 32)).dropL1 o asid line
      s1.modL2 asid line fun b => { b with owner := none, foreign := 0 }
    | none => s
  | none => s

/-- R396: a write of whole words clears their poison; a partial write leaves it. -/
def State.clearPoisonL2 (s : State) (asid line : Nat) (mask : BitVec 32) : State :=
  { s with poisonL2 := s.poisonL2.filter fun p => !(p.1 == asid && p.2 / 32 == line && mask.getLsbD (p.2 % 32)) }

/-- R225: the completion time of a write performed at the slice. -/
def State.sliceTime (s : State) (asid line : Nat) : Nat :=
  match s.l2Line? asid line with
  | some b => max (s.writeClock (sliceClock (homeSlice asid line b.pa b.attr.near))) b.lease
  | none => s.now

/-- R203, R225: words written at the slice. An owner keeps the line; the foreign bits are set and a word recall goes out, which reaches the core that made the access at once (R114). The core's own leased copy takes the words. -/
def State.sliceWrite (s : State) (core : Option Nat) (asid line : Nat) (ws : List (Nat × W32)) (whole : Bool) (floor : Nat) : State :=
  let mask : BitVec 32 := ws.foldl (fun m x => m ||| (1#32 <<< x.1)) 0
  let owner := (s.l2Line? asid line).bind fun b => b.owner.map fun o => (o, homeSlice asid line b.pa b.attr.near)
  let s1 := s.modL2 asid line fun b =>
    { b with data := setWords b.data ws, dirty := b.dirty ||| mask, stamp := max b.stamp floor,
             foreign := if b.owner.isSome then b.foreign ||| mask else b.foreign }
  let s2 := if whole then s1.clearPoisonL2 asid line mask else s1
  match owner with
  | some (o, home) =>
    let s3 := { s2 with recalls := s2.recalls ++ [⟨o, home, asid, line, mask, s.sliceTime asid line⟩] }
    if some o = core then s3.deliverRecalls o home else s3
  | none =>
    match core with
    | some c => (s2.modL1 c asid line fun l => { l with data := setWords l.data ws }).takePoison c asid line (if (s2.l1Line? c asid line).isSome then mask else 0)
    | none => s2

/-- The value of a word of a line at its home slice. -/
def State.sliceWord (s : State) (asid line i : Nat) : W32 :=
  match s.l2Line? asid line with
  | some b => sget b.data i
  | none => 0

/-- R231: the line stamp at the slice. -/
def State.sliceStamp (s : State) (asid line : Nat) : Nat :=
  match s.l2Line? asid line with
  | some b => b.stamp
  | none => 0

/-- R206, R396: the dirty words of an L2 line go to its tower. -/
def State.cleanL2 (s : State) (asid line : Nat) : State :=
  match s.l2Line? asid line with
  | none => s
  | some b =>
    let ws := (List.range 32).filter fun i => b.dirty.getLsbD i
    let bad := (s.poisonL2.filter fun p => p.1 == asid && p.2 / 32 == line).map fun p => (b.pa + 4 * (p.2 % 32)) / 32
    let touched := ws.map fun i => (b.pa + 4 * i) / 32
    let t := ws.foldl (fun (a : State) (i : Nat) => a.putKey b.attr.key (b.pa + 4 * i) (bytesOf 4 (sget b.data i).toNat)) s
    { t.modL2 asid line (fun b => { b with dirty := 0 }) with poisonMem := (s.poisonMem.filter fun p => !(touched.contains p)) ++ bad.eraseDups }

/-- R224, R231: an L2 line leaves: its dirty words go to the tower, its lease record and stamp are folded into those of its slice. -/
def State.evictL2 (s : State) (asid line : Nat) : State :=
  match s.l2Line? asid line with
  | none => s
  | some b =>
    let home := homeSlice asid line b.pa b.attr.near
    { s.cleanL2 asid line with
      l2 := s.l2.filter fun l => !(l.asid == asid && l.line == line)
      evictedLease := sset s.evictedLease home (BitVec.ofNat 64 (max (sget s.evictedLease home).toNat b.lease))
      evictedStamp := sset s.evictedStamp home (BitVec.ofNat 64 (max (sget s.evictedStamp home).toNat b.stamp))
      poisonL2 := s.poisonL2.filter fun p => !(p.1 == asid && p.2 / 32 == line) }

/-- R201: the home slice of a line of L2, and the set of a line there; the hash that gives the home gives the set. -/
def L2Line.home (b : L2Line) : Nat := homeSlice b.asid b.line b.pa b.attr.near

def Xlate.home (x : Xlate) : Nat := homeSlice x.asid (x.va / 128) x.pa x.attr.near

def lineSet (asid line : Nat) : Nat := Config.homeHash asid line / 128 % 1024

/-- R216: whether the pin of a line stands. -/
def State.pinned (s : State) (b : L2Line) : Bool := b.pin != 0 && decide (s.clock (sliceClock b.home) ≤ b.pin)

/-- R201: the other lines of the set of a line. -/
def State.setBeside (s : State) (x : Xlate) : List L2Line :=
  s.l2.filter fun b => !(b.asid == x.asid && b.line == x.va / 128) && lineSet b.asid b.line == lineSet x.asid (x.va / 128) && b.home == x.home

/-- R201, R216: the 16 lines of the set of a line leave a place for it: one that is not pinned, a free choice, goes back to its tower. -/
def State.makeRoom (s : State) (x : Xlate) : State :=
  if s.l2.length < 16 ∨ (s.setBeside x).length < 16 then s
  else
    let may := (s.setBeside x).filter fun b => !s.pinned b
    match nth? may ((Config.free s.free 7).toNat % may.length) with
    | some b => ((s.lineRecall b.asid b.line).evictL2 b.asid b.line).fresh
    | none => s

/-- R419: the pages of a sealed range that are backed by a frame of tower memory, each with its mark. -/
def State.rangeMarks (s : State) (asid : Nat) (r : Nat × Nat) : List ((Nat × Nat × Nat) × Xlate) :=
  let pages := (List.range ((r.1 + r.2 + 65535) / 65536 - r.1 / 65536)).map fun i => r.1 / 65536 + i
  pages.filterMap fun p =>
    match s.mapped asid (p * 65536) with
    | .ok x => if x.attr.device.isNone && s.backed x.pa then some ((r.1, p, x.pa / 65536), x) else none
    | .error _ => none

/-- R419: a page of a sealed range receives its mark when a slice translates it. -/
def State.markPage (s : State) (x : Xlate) : State :=
  let meets (y : Xlate) : Bool := x.attr.device.isNone && y.asid == x.asid && y.va / 65536 == x.va / 65536 && y.pa / 65536 == x.pa / 65536
  let found (c : Context) : List (Nat × Nat × Nat) := c.sealed.flatMap fun r => ((s.rangeMarks c.entry.asid r).filter fun m => meets m.2).map Prod.fst
  { s with contexts := s.contexts.map fun c => { c with marks := (c.marks ++ found c).eraseDups } }

/-- R202, R224, R231, R419: a line filled from its tower into L2; its lease record and stamp start from those of evicted lines. -/
def State.fillL2 (s : State) (x : Xlate) : State :=
  let line := x.va / 128
  match s.l2Line? x.asid line with
  | some _ => s
  | none =>
    let r := (s.makeRoom x).markPage x
    { r with
      l2 := r.l2 ++ [{ asid := x.asid, line := line, pa := x.pa / 128 * 128, attr := x.attr, permR := x.permR && !x.shared
                       permW := x.permW && !x.shared, valid := BitVec.allOnes 32, dirty := 0, data := r.towerLine x.attr.key x.pa, owner := none
                       foreign := 0, lease := (sget r.evictedLease x.home).toNat, pin := 0, pinCtx := 0
                       stamp := (sget r.evictedStamp x.home).toNat }]
      poisonL2 := r.poisonL2 ++ r.linePoison x.asid line x.pa }

/-- R209: the access that a line in L2 serves without a walk, when it needs no more than the permission recorded at the fill. -/
def L2Line.xlate (b : L2Line) (va : Nat) : Xlate :=
  { pa := b.pa + va % 128, attr := b.attr, shared := false, permR := b.permR, permW := b.permW, asid := b.asid, va := va }

/-- R209, R213: where an address of a context lies, at its home slice: translation stands only on the way of a miss. -/
def State.locate (s : State) (asid va : Nat) (write : Bool) : Except Nat Xlate :=
  match s.l2Line? asid (va / 128) with
  | some b => if (if write then b.permW else b.permR) then .ok (b.xlate va) else s.translate asid va write
  | none => s.translate asid va write

/-- R199: an L1 line that may serve a word: owned, sealed, or within its lease by the core's clock. -/
def State.l1Live (s : State) (l : L1Line) : Bool :=
  l.owned || s.sealedLine l.asid l.line || decide (s.clock (portClock (l.core / 2)) < l.expiry)

/-- R199, R200: whether the L1 of a core serves an access to a line: every word valid, the line live, the permission enough. -/
def State.l1Serves (s : State) (core asid line off size : Nat) (write : Bool) : Option L1Line :=
  match s.l1Line? core asid line with
  | none => none
  | some l =>
    let m := wordMask off size
    if s.l1Live l && (l.valid &&& m) == m && (if write then l.permW else l.permR) then some l else none

/-- R199, R224: a copy of the line at its slice in an L1, owned or under a lease. -/
def State.fillL1 (s : State) (core : Nat) (x : Xlate) (owned : Bool) (expiry : Nat) : State :=
  let line := x.va / 128
  match s.l2Line? x.asid line with
  | none => s
  | some b =>
    let s1 := s.dropL1 core x.asid line
    { s1 with
      l1 := s1.l1 ++ [{ core := core, asid := x.asid, line := line, pa := b.pa, attr := b.attr, valid := BitVec.allOnes 32, dirty := 0, data := b.data,
                         owned := owned, expiry := expiry, permR := x.permR, permW := x.permW, stamp := b.stamp }]
      poisonL1 := s1.poisonL1 ++ ((s1.poisonL2.filter fun p => p.1 == x.asid && p.2 / 32 == line).map fun p => (core, x.asid, p.2)) }

/-- R224: a lease granted on a line of L2; the line keeps the latest expiry. -/
def State.grantLease (s : State) (asid line lease : Nat) : State × Nat :=
  let home := (s.l2Line? asid line).elim 0 L2Line.home
  let e := s.clock (sliceClock home) + lease
  (s.modL2 asid line fun b => { b with lease := max b.lease e }, e)

/-- R203: ownership of a line passes to a core after a line recall of the owner it has. -/
def State.takeOwnership (s : State) (core : Nat) (x : Xlate) : State :=
  let line := x.va / 128
  let s1 := (s.lineRecall x.asid line).modL2 x.asid line fun b => { b with owner := some core, foreign := 0 }
  s1.fillL1 core x true 0

/-- R209: where an address lies for an access of a wide core: one that its L1 serves needs no walk. -/
def State.locateAt (s : State) (core asid va size : Nat) (write useL1 : Bool) : Except Nat Xlate :=
  match if useL1 && s.hasL1 core then s.l1Serves core asid (va / 128) (va % 128) size write else none with
  | some l => if l.owned || !write then .ok { pa := l.pa + va % 128, attr := l.attr, shared := false, permR := l.permR, permW := l.permW, asid := asid, va := va }
    else s.locate asid va write
  | none => s.locate asid va write

/-- R396: whether a read of a word range at its home would consume poison: in the owner's dirty word, at the slice, or in the tower. -/
def State.poisoned (s : State) (x : Xlate) (size : Nat) : Bool :=
  let line := x.va / 128
  let ws := (List.range (max 1 (size / 4))).map fun i => x.va / 4 + i
  match s.l2Line? x.asid line with
  | none => x.attr.device.isNone && s.poisonMem.contains (x.pa / 32)
  | some b => ws.any fun w =>
    match b.owner.bind fun o => s.l1Line? o x.asid line with
    | some a => if a.dirty.getLsbD (w % 32) && !b.foreign.getLsbD (w % 32) then s.poisonL1.contains (a.core, x.asid, w) else s.poisonL2.contains (x.asid, w)
    | none => s.poisonL2.contains (x.asid, w)

/-- R396: whether some copy of the 32-byte sector of an access holds poison, or the sector of its frame does. -/
def State.sectorMarked (s : State) (x : Xlate) : Bool :=
  x.attr.device.isNone && (s.poisonMem.contains (x.pa / 32) || (s.poisonL2.any fun p => p.1 == x.asid && p.2 / 8 == x.va / 32) ||
    (s.poisonL1.any fun p => p.2.1 == x.asid && p.2.2 / 8 == x.va / 32))

/-- R396: whether a read of a wide core would: in its own copy, where that serves the read, or at the home. -/
def State.poisonedAt (s : State) (core : Nat) (x : Xlate) (size : Nat) (useL1 : Bool) : Bool :=
  match if useL1 && s.hasL1 core then s.l1Serves core x.asid (x.va / 128) (x.va % 128) size false else none with
  | some _ => (List.range (max 1 (size / 4))).any fun i => s.poisonL1.contains (core, x.asid, x.va / 4 + i)
  | none => s.poisoned x size

end Sys2Proof.Machine
end

