-- ==== Sys2Proof/Machine/Access.lean ====
section
/-!
DEFINITION. Accesses at the place where a word lives, by the part's own agents (R206, R307, R376, R421), and cluster SRAM: banks, allocations, zero flags, headers (R190 to R197).
-/

namespace Sys2Proof.Machine

/-- Bytes of host memory. -/
def State.hostBytes (s : State) (a n : Nat) : Nat :=
  (List.range n).foldr (fun i x => (sget s.hostMem (a + i)).toNat + 256 * x) 0

/-- The line stamp kept for a line that no L2 holds: the tower base's for an `ms` line, else the slice's evicted stamp (R231). -/
def State.towerStampOf (s : State) (x : Xlate) : Nat :=
  if x.attr.ms then (sget s.towerStamp (x.pa / 128)).toNat
  else (sget s.evictedStamp x.home).toNat

def State.raiseTowerStamp (s : State) (x : Xlate) (floor : Nat) : State :=
  if x.attr.ms then
    { s with towerStamp := sset s.towerStamp (x.pa / 128) (BitVec.ofNat 64 (max (s.towerStampOf x) floor)) }
  else
    { s with evictedStamp := sset s.evictedStamp x.home (BitVec.ofNat 64 (max (s.towerStampOf x) floor)) }

/-- A free value for data that another device supplies (R404, R406). -/
def State.remoteData (s : State) : BitVec 128 := Config.free s.free 8 ++ Config.free s.free 9

/-- R205 to R207, R421: the data of a frame where no cache holds it. -/
def State.frameRead (s : State) (x : Xlate) (size : Nat) : BitVec 128 :=
  match x.attr.device with
  | some _ => BitVec.ofNat 128 (s.remoteData.toNat % 2 ^ (8 * size))
  | none =>
    match x.attr.host with
    | some far => BitVec.ofNat 128 (s.hostBytes (hostAt x.pa far) size)
    | none => BitVec.ofNat 128 ((List.range size).foldr (fun (i a : Nat) => (s.keyByte x.attr.key (x.pa + i)).toNat + 256 * a) 0)

/-- R206, R207, R231, R404: a write performed where no cache holds the frame, or sent to its device by one of the part's agents. -/
def State.frameWrite (s : State) (x : Xlate) (size : Nat) (d : BitVec 128) (floor : Nat) : State :=
  match x.attr.device with
  | some dev =>
    { s with outbox := s.outbox ++ [{ dest := dev, req := { dev := s.deviceId, pa := x.pa, kind := 1, size := size, op := 0, ety := 0,
                                                            data := d, data2 := 0, floor := floor }, lane := none }] }
  | none =>
    match x.attr.host with
    | some far => { s with hostMem := ssetMany s.hostMem (hostAt x.pa far) (bytesOf size d.toNat) }
    | none => (s.putKey x.attr.key x.pa (bytesOf size d.toNat)).raiseTowerStamp x floor

/-- R225, R407, R421: the completion time of a write performed outside the slices. -/
def State.frameTime (s : State) (x : Xlate) : Nat :=
  match x.attr.device with
  | some _ => s.now + (Config.free s.free 3).toNat % 16384
  | none =>
    if x.attr.host.isSome then s.writeClock (sliceClock x.home)
    else if x.attr.ms then s.writeClock (towerClock (x.pa / towerBytes))
    else max (s.writeClock (sliceClock x.home)) (sget s.evictedLease x.home).toNat

/-- Whether an access is performed at the frame itself and never in a cache (R200, R205, R406, R421). Log entry 12: a sealed remote line, which R200 lets caches hold, is not held either. -/
def State.uncached (_s : State) (x : Xlate) : Bool := x.attr.ms || x.attr.host.isSome || x.attr.device.isSome

/-- R404: a read by one of the part's agents leaves for the device that holds the frame. -/
def State.askRemote (s : State) (x : Xlate) (size : Nat) : State :=
  match x.attr.device with
  | some dev =>
    { s with outbox := s.outbox ++ [{ dest := dev, req := { dev := s.deviceId, pa := x.pa, kind := 0, size := size, op := 0, ety := 0,
                                                            data := 0, data2 := 0, floor := 0 }, lane := none }] }
  | none => s

/-- R231, R407: the line stamp that an answer carries: for another device's, what its home keeps (a free value that no clock here has passed). -/
def State.answerStamp (s : State) (x : Xlate) : Nat :=
  if x.attr.device.isSome then (Config.free s.free 5).toNat % max 1 (s.now - 20) else s.towerStampOf x

/-- R307: a read performed at its home in the way of a `.si` load: the state after, the data, the stamp. -/
def State.readAt (s : State) (x : Xlate) (size : Nat) : State × BitVec 128 × Nat :=
  let line := x.va / 128
  let off := x.va % 128
  if s.uncached x then (((s.markPage x).askRemote x size).fresh, s.frameRead x size, s.answerStamp x)
  else
    let s1 := (s.fillL2 x).fetchOwner x.asid line (wordMask off size)
    (s1.fresh, readWords (s1.sliceWord x.asid line) off size, s1.sliceStamp x.asid line)

/-- R307: a write performed at its home in the way of a `.wt` store: the state after and its completion time. A partial word of an owned line is fetched first. -/
def State.writeAt (s : State) (core : Option Nat) (x : Xlate) (size : Nat) (d : BitVec 128) (floor : Nat) : State × Nat :=
  let line := x.va / 128
  let off := x.va % 128
  if s.uncached x then (((s.markPage x).frameWrite x size d floor).fresh, s.frameTime x)
  else
    let s1 := s.fillL2 x
    let s2 := if size < 4 then s1.fetchOwner x.asid line (wordMask off size) else s1
    let ws := writeWords (s2.sliceWord x.asid line) off size d
    ((s2.sliceWrite core x.asid line ws (decide (4 ≤ size)) floor).fresh, s2.sliceTime x.asid line)

/-- R116, R205, R406: the same two in the way of a `.unc` access: a line that L2 does not hold is served at its tower, and not filled. -/
def State.readUncAt (s : State) (x : Xlate) (size : Nat) : State × BitVec 128 × Nat :=
  if (s.l2Line? x.asid (x.va / 128)).isSome then s.readAt x size else (((s.markPage x).askRemote x size).fresh, s.frameRead x size, s.answerStamp x)

def State.writeUncAt (s : State) (x : Xlate) (size : Nat) (d : BitVec 128) (floor : Nat) : State × Nat :=
  if (s.l2Line? x.asid (x.va / 128)).isSome then s.writeAt none x size d floor else (((s.markPage x).frameWrite x size d floor).fresh, s.frameTime x)

/-- R405: whether the home of a frame on another device refuses an access: outside its windows, and what they say is for the home to know (a free value). -/
def State.homeRefuses (s : State) (x : Xlate) : Bool := x.attr.device.isSome && (Config.free s.free 36).getLsbD (x.pa / 65536 % 64)

/-- R396, R404: whether a word that another device supplies is poisoned, for that device to know (a free value for each of up to 64 words asked for together). -/
def State.remotePoison (s : State) (k : Nat) : Bool := (Config.free s.free 38).getLsbD (k % 64)

/-- R396, R404: whether a read of the part's own agents meets poison, here or at the device that holds the frame. -/
def State.meetsPoison (s : State) (x : Xlate) (size : Nat) : Bool := if x.attr.device.isSome then s.remotePoison 0 else s.poisoned x size

/-- An access of the part's own agents that reads `size` bytes at an address of a context, performed in some way, or the reason it fails: those of Table 21.6, 7 for poison, 8 for a non-canonical address. -/
def State.sysReadBy (s : State) (way : State → Xlate → Nat → State × BitVec 128 × Nat) (asid : Nat) (a : W64) (size : Nat) : Except Nat (State × BitVec 128 × Nat) :=
  if !canonical a then .error 8
  else match s.locate asid (va57 a) false with
    | .error r => .error r
    | .ok x => if s.homeRefuses x then .error 5 else if s.meetsPoison x size then .error 7 else .ok (way s x size)

/-- R307: such a read in the way of a `.si` load, and one in the way of a `.unc` load. -/
def State.sysRead (s : State) (asid : Nat) (a : W64) (size : Nat) : Except Nat (State × BitVec 128 × Nat) := s.sysReadBy State.readAt asid a size

def State.sysReadUnc (s : State) (asid : Nat) (a : W64) (size : Nat) : Except Nat (State × BitVec 128 × Nat) := s.sysReadBy State.readUncAt asid a size

/-- R215: whether a write of a context at an address lands in a sealed range, under the name it uses or under the canonical one. -/
def State.sealedAt (s : State) (asid : Nat) (a : W64) (x : Xlate) : Bool := s.sealedLine x.asid (x.va / 128) || s.sealedLine asid (va57 a / 128)

/-- A write of `size` bytes likewise; 9 for a sealed range. -/
def State.sysWriteBy (s : State) (way : State → Xlate → Nat → BitVec 128 → Nat → State × Nat) (asid : Nat) (a : W64) (size : Nat) (d : BitVec 128) (floor : Nat) :
    Except Nat (State × Nat) :=
  if !canonical a then .error 8
  else match s.locate asid (va57 a) true with
    | .error r => .error r
    | .ok x => if s.homeRefuses x then .error 5 else if s.sealedAt asid a x then .error 9 else .ok (way s x size d floor)

/-- R307: such a write in the way of a `.wt` store, and one in the way of a `.unc` store. -/
def State.sysWrite (s : State) (asid : Nat) (a : W64) (size : Nat) (d : BitVec 128) (floor : Nat) : Except Nat (State × Nat) :=
  s.sysWriteBy (fun t => t.writeAt none) asid a size d floor

def State.sysWriteUnc (s : State) (asid : Nat) (a : W64) (size : Nat) (d : BitVec 128) (floor : Nat) : Except Nat (State × Nat) :=
  s.sysWriteBy State.writeUncAt asid a size d floor

/-- A read of `n` 16-byte blocks. -/
def State.sysReadBlocks (s : State) (asid : Nat) (a : W64) : Nat → Except Nat (State × List Byte)
  | 0 => .ok (s, [])
  | n + 1 =>
    match s.sysRead asid a 16 with
    | .error r => .error r
    | .ok (s1, d, _) =>
      match State.sysReadBlocks s1 asid (a + 16) n with
      | .error r => .error r
      | .ok (s2, bs) => .ok (s2, bytesOf 16 d.toNat ++ bs)

/-- R259: whether a plain write to a word range meets the read or write set of an uncommitted region. -/
def State.inRegionSet (s : State) (asid va size : Nat) : Bool :=
  let ws := (List.range (max 1 (size / 4))).map fun i => va / 4 + i
  (s.versions.any fun v => v.asid == asid && ws.contains v.word) ||
  (s.readers.any fun v => v.asid == asid && ws.contains v.word)

/-- R259: whether a plain write by the part's own agents to an address of a context is held beside a region's words. -/
def State.regionBusy (s : State) (asid : Nat) (a : W64) (size : Nat) : Bool :=
  match s.locate asid (va57 a) true with
  | .ok x => s.inRegionSet x.asid x.va size
  | .error _ => false

/-- R237, R238: a timeline counter advanced by an increment: the count stops at 2^63 - 1, and poison stays. -/
def advanceWord (inc : W64) (w : W64) : W64 :=
  BitVec.ofNat 64 (min (w.toNat % 2 ^ 63 + inc.toNat) (2 ^ 63 - 1) + w.toNat / 2 ^ 63 * 2 ^ 63)

/-- R238, R349: the atomic of a timeline counter: an advance, and with `poison` its poison bit. -/
def timelineWord (inc : W64) (poison : Bool) (w : W64) : W64 := advanceWord inc w ||| (if poison then 1#64 <<< 63 else 0)

/-- R419: the line of L2 that the frame directory names for a frame; between two names either, a free choice. -/
def State.directory (s : State) (pa : Nat) : Option L2Line :=
  let ls := s.l2.filter fun b => b.pa == pa / 128 * 128 && b.attr.device.isNone
  nth? ls ((Config.free s.free 13).toNat % ls.length)

/-- R206: the slice that fronts the pseudo-channel of a line; consecutive lines of a tower lie on consecutive channels (log entry 115). -/
def frontSlice (pa : Nat) : Nat := pa / towerBytes * 8 + pa / 128 % 64 / 8

/-- R259: whether a host write meets the read or write set of an uncommitted region. -/
def State.hostHeld (s : State) (pa len : Nat) : Bool :=
  let hits (w : Nat) : Bool := decide (pa / 4 ≤ w ∧ w ≤ (pa + len - 1) / 4)
  (s.versions.any fun v => hits (v.pa / 4)) ||
  (s.readers.any fun v => match s.locate v.asid (v.word * 4) false with
    | .ok x => x.attr.device.isNone && hits (x.pa / 4)
    | .error _ => false)

/-- R225, R419: bytes of one word written by the host, in the way of a `.unc` store with floor 0, at the home slice that holds the line or at the tower; and the completion time. A line that L2 does not hold has no name here, and takes the greatest evicted lease (log entry 115). -/
def State.hostPut (s : State) (pa : Nat) (bs : List Byte) : State × Nat :=
  match s.directory pa with
  | none =>
    let covered (n : Nat) : Bool := decide (pa ≤ 32 * n ∧ 32 * n + 32 ≤ pa + bs.length)
    let lease := (List.range 128).foldl (fun (m : Nat) (h : Nat) => max m (sget s.evictedLease h).toNat) 0
    ({ s.putMem pa bs with poisonMem := s.poisonMem.filter fun n => !covered n }, max (s.writeClock (sliceClock (frontSlice pa))) lease)
  | some b =>
    let i := pa % 128 / 4
    let s1 := if bs.length < 4 then s.fetchOwner b.asid b.line (1#32 <<< i) else s
    let ws := writeWords (s1.sliceWord b.asid b.line) (pa % 128) bs.length (BitVec.ofNat 128 (natOfBytes bs))
    (s1.sliceWrite none b.asid b.line ws (decide (4 ≤ bs.length)) 0, s1.sliceTime b.asid b.line)

/-- R419: a part of the host's write `k` has come to its place. -/
def State.hostWrote (s : State) (k ctime : Nat) : State :=
  { s with hostWrites := modNth (fun (h : HostWrite) => { h with held := h.held - 1, ctime := max h.ctime ctime }) s.hostWrites k }

/-- R259, R310: a held write performed at last; one whose page no longer takes it is lost. -/
def State.performDeferred (s : State) (w : Deferred) : State :=
  match w.host with
  | some (pa, k) =>
    let r := s.hostPut pa (bytesOf w.size w.data.toNat)
    r.1.fresh.hostWrote k r.2
  | none =>
    let r := if w.poison then (match s.sysRead w.asid w.addr w.size with
      | .ok (s1, d, _) => s1.sysWrite w.asid w.addr w.size ((timelineWord (w.data.setWidth 64) true (d.setWidth 64)).setWidth 128) w.floor
      | .error e => .error e)
      else s.sysWrite w.asid w.addr w.size w.data w.floor
    match r with
    | .ok (s1, _) => s1
    | .error _ => s

/-- R259: whether a region's words still hold a write. -/
def State.stillHeld (s : State) (w : Deferred) : Bool :=
  match w.host with
  | some (pa, _) => s.hostHeld pa w.size
  | none => s.regionBusy w.asid w.addr w.size

/-- Whether one held write stays behind another: the part's agents keep the order of their writes, the host that of its writes to a word. -/
def Deferred.behind (w k : Deferred) : Bool :=
  match w.host, k.host with
  | none, none => true
  | some a, some b => a.1 / 4 == b.1 / 4
  | _, _ => false

/-- R259: the held writes that no region's words hold any more, in their order. -/
def State.flushFrom (s : State) (kept : List Deferred) : List Deferred → State
  | [] => { s with deferred := kept }
  | w :: rest => if s.stillHeld w || kept.any w.behind then State.flushFrom s (kept ++ [w]) rest else State.flushFrom (s.performDeferred w) kept rest

def State.flushDeferred (s : State) : State := if s.deferred.isEmpty then s else s.flushFrom [] s.deferred

/-- R259: whether a write of the part's agents is held. -/
def State.agentsHeld (s : State) : Bool := s.deferred.any fun w => w.host.isNone

/-- R258, R259: a write of one of the part's agents: performed, or held beside a region's words, behind those held before it. -/
def State.agentWriteAt (s : State) (asid : Nat) (a : W64) (size : Nat) (d : BitVec 128) (floor : Nat) : Except Nat State :=
  if !s.agentsHeld && !s.regionBusy asid a size then
    match s.sysWrite asid a size d floor with
    | .ok (s1, _) => .ok s1
    | .error r => .error r
  else if !canonical a then .error 8
  else match s.locate asid (va57 a) true with
    | .error r => .error r
    | .ok x => if s.sealedAt asid a x then .error 9 else .ok { s with deferred := s.deferred ++ [⟨asid, a, size, d, floor, false, none⟩] }

def State.agentWrite (s : State) (asid : Nat) (a : W64) (size : Nat) (d : BitVec 128) : Except Nat State := s.agentWriteAt asid a size d 0

/-- Bytes at an address of a context as the agents see them, with their own held writes. -/
def State.seenBytes (s : State) (asid : Nat) (a : W64) (bs : List Byte) : List Byte :=
  (List.range bs.length).map fun i =>
    (s.deferred.filter fun w => !w.poison && w.host.isNone && w.asid == asid && (a + BitVec.ofNat 64 i - w.addr).toNat < w.size).getLast?.elim (nth 0 bs i)
      fun w => w.data.extractLsb' (8 * (a + BitVec.ofNat 64 i - w.addr).toNat) 8

/-- R3: the cluster and die of a wide core. -/
def clusterOf (core : Nat) : Nat := core / 2

def dieOf (core : Nat) : Nat := core / 64

/-- The key of a byte of cluster SRAM, and of a bank. -/
def sramKey (cluster addr : Nat) : Nat := cluster * 2 ^ 20 + addr

def bankKey (cluster addr : Nat) : Nat := cluster * 1024 + addr / 1024

/-- R193: a team whose banks are a live allocation: placed or running, neither saved nor power-gated. -/
def Team.liveAlloc (t : Team) : Bool := t.life == .running || t.life == .placed

/-- R191: the live team whose allocation holds a bank of a cluster, and the bank's mode. -/
def findBank (cluster addr : Nat) : List Team → Nat → Option (Nat × BankMode)
  | [], _ => none
  | t :: ts, n =>
    match if t.liveAlloc && decide (clusterOf t.core = cluster) then t.banks.find? (fun b => b.idx == addr / 1024) else none with
    | some b => some (n, b.mode)
    | none => findBank cluster addr ts (n + 1)

def State.bankAt (s : State) (cluster addr : Nat) : Option (Nat × BankMode) :=
  if addr < 0xC0000 then findBank cluster addr s.teams 0 else none

/-- R196, R394: whether a team's header stands in its cluster: it is live, and its core has not been reset since. -/
def Team.hasHeader (t : Team) : Bool := t.liveAlloc && t.banks.any fun b => b.idx == t.base / 1024

/-- R196: whether bytes reach the header of some live team of a cluster. -/
def State.inHeader (s : State) (cluster addr size : Nat) : Bool :=
  s.teams.any fun t => t.hasHeader && decide (clusterOf t.core = cluster ∧ addr < t.base + 64 ∧ t.base < addr + size)

/-- R196, R351: the first byte of a range that lies in such a header (log entry 118). -/
def State.headerAt (s : State) (cluster : Nat) (a : Int) (n : Nat) : Option W64 :=
  let firsts := (s.teams.filter fun t => t.hasHeader && decide (clusterOf t.core = cluster ∧ a < ((t.base + 64 : Nat) : Int) ∧ (t.base : Int) < a + (n : Int))).map fun t => max a (t.base : Int)
  match firsts with
  | [] => none
  | x :: rest => some (BitVec.ofInt 64 (rest.foldl min x))

/-- R193: whether an access of a team of context `ctx` may reach a scratchpad address: a load may also read a FIFO bank of the issuing team's own allocation. -/
def State.sramAllowed (s : State) (ctx team cluster addr : Nat) (write : Bool) : Bool :=
  match s.bankAt cluster addr with
  | none => false
  | some (t, m) =>
    match s.team? t with
    | none => false
    | some tm =>
      tm.ctx == ctx && (m == .sp || (m == .fifo && !write && t == team))

def State.sramBytes (s : State) (cluster addr n : Nat) : Nat :=
  (List.range n).foldr (fun i a => (sget s.sram (sramKey cluster (addr + i))).toNat + 256 * a) 0

/-- R197: bytes written to a bank clear its zero flag; whole words lose their poison (R396). -/
def State.sramPut (s : State) (cluster addr : Nat) (bs : List Byte) : State :=
  let n := bs.length
  let words := (List.range ((n + 3) / 4)).map fun i => sramKey cluster addr / 4 + i
  { s with
    sram := ssetMany s.sram (sramKey cluster addr) bs
    zeroBanks := s.zeroBanks.filter fun b => !(decide (bankKey cluster addr ≤ b ∧ b ≤ bankKey cluster (addr + n - 1)))
    poisonSram := if n < 4 then s.poisonSram else s.poisonSram.filter fun w => !(words.contains w) }

/-- R192: a bank as it stands in a new allocation. -/
def State.sramZero (s : State) (cluster idx : Nat) : State :=
  let b := cluster * 1024 + idx
  { s with
    sram := sclear s.sram (sramKey cluster (idx * 1024)) (sramKey cluster (idx * 1024 + 1024))
    zeroBanks := b :: s.zeroBanks.filter (fun x => x != b)
    spStamp := sclear s.spStamp (sramKey cluster (idx * 1024) / 8) (sramKey cluster (idx * 1024 + 1024) / 8)
    poisonSram := s.poisonSram.filter fun w => w / 256 != b }

/-- R396: whether a scratchpad read would consume poison. -/
def State.sramPoisoned (s : State) (cluster addr size : Nat) : Bool :=
  (List.range (max 1 (size / 4))).any fun i => s.poisonSram.contains (sramKey cluster addr / 4 + i)

/-- R261, R262: a write of a publisher team into a published range goes into the entry's write-combining buffer: it joins an open buffer of its line when no other buffer of the entry has been written since; otherwise the open buffers flush in order and a new one opens. -/
def joinBuf (line : Nat) (bs : List (Nat × Byte)) (now : Nat) (bufs : List WcBuf) : List WcBuf × List WcBuf :=
  match bufs.getLast? with
  | some b =>
    if b.line = line then
      ([], bufs.dropLast ++ [{ b with bytes := (b.bytes.filter fun x => !(bs.any fun y => y.1 == x.1)) ++ bs }])
    else (bufs, [{ line := line, bytes := bs, opened := now }])
  | none => ([], [{ line := line, bytes := bs, opened := now }])

/-- R263: the updates of flushed buffers of an entry to each of its subscribers. -/
def State.updatesOf (s : State) (e : PubEntry) (bufs : List WcBuf) : List Signal :=
  let ctx := match s.team? e.team with
    | some t => t.ctx
    | none => 0
  bufs.flatMap fun b => e.subs.filterMap fun sub =>
    match s.subs.find? fun x => x.core == sub.1 && x.sid == sub.2 with
    | none => none
    | some x =>
      some { ctx := ctx, team := e.team, src := none,
             kind := .update sub.1 sub.2 (b.bytes.map fun y => (x.loc + (y.1 - e.base), y.2)),
             cluster := clusterOf sub.1, sram := x.loc, target := BitVec.ofNat 64 (2 ^ 27 + clusterOf sub.1 * 2 ^ 20 + x.loc), globalVa := none }

/-- R261, R262: bytes a team has written at a bank, forwarded through each of its entries whose range they meet, one 128-byte line after another. -/
def State.publish (s : State) (team cluster addr : Nat) (bs : List Byte) : State :=
  let pairs := (List.range bs.length).map fun i => (addr + i, nth 0 bs i)
  let step (acc : List PubEntry × List Signal) (e : PubEntry) : List PubEntry × List Signal :=
    let mine := pairs.filter fun p => decide (e.base ≤ p.1 ∧ p.1 < e.base + e.len)
    if e.team = team ∧ clusterOf e.core = cluster ∧ mine ≠ [] then
      let lines := (mine.map fun p => p.1 / 128).eraseDups
      let r := lines.foldl (fun (a : List WcBuf × List WcBuf) (l : Nat) =>
        let j := joinBuf l (mine.filter fun p => p.1 / 128 == l) s.now a.2
        (a.1 ++ j.1, j.2)) ([], e.bufs)
      (acc.1 ++ [{ e with bufs := r.2 }], acc.2 ++ s.updatesOf e r.1)
    else (acc.1 ++ [e], acc.2)
  let r := s.pubs.foldl step ([], [])
  { s with pubs := r.1, signals := s.signals ++ r.2 }

/-- A scratchpad write of a team: performed at the bank and forwarded (R197, R261). -/
def State.sramWrite (s : State) (team cluster addr : Nat) (bs : List Byte) : State :=
  if bs.isEmpty then s
  else if s.pubs.isEmpty then s.sramPut cluster addr bs
  else (s.sramPut cluster addr bs).publish team cluster addr bs

/-- R262: every open buffer of a team's entries flushes. -/
def State.flushPubs (s : State) (team : Nat) : State :=
  let out := s.pubs.flatMap fun e => if e.team = team then s.updatesOf e e.bufs else []
  { s with
    pubs := s.pubs.map fun e => if e.team = team then { e with bufs := [] } else e
    signals := s.signals ++ out }

end Sys2Proof.Machine
end

