-- ==== Sys2Proof/Machine/Records.lean ====
section
/-!
DEFINITION. Fault records and events (R376 to R380): their layout, the rings they are posted to, and what a full or unusable ring does.
-/

namespace Sys2Proof.Machine

/-- What became of a record (R379). -/
inductive Posted where
  | posted | full | unusable
deriving DecidableEq, Repr

/-- R379: the header of a ring as the part sees it: tail, head, count, lost, and whether its zero field is zero; `none` when it cannot be read. -/
def State.ringHeader (s : State) (asid : Nat) (h : W64) : Option (Nat × Nat × Nat × Nat × Bool) :=
  match s.sysReadBlocks asid h 4 with
  | .error _ => none
  | .ok (_, got) =>
    let bs := s.seenBytes asid h got
    let fld (o n : Nat) : Nat := natOfBytes ((bs.drop o).take n)
    some (fld 0 8, fld 8 8, fld 16 4, fld 20 4, decide (fld 24 40 = 0))

/-- R376: whether a slot count is legal. -/
def ringCountOk (n : Nat) : Bool := decide (16 ≤ n ∧ n ≤ 65536 ∧ 2 ^ n.log2 = n)

/-- R379: one more record is lost. -/
def State.raiseLost (s : State) (asid : Nat) (h : W64) (lost : Nat) : State :=
  match s.agentWrite asid (h + 20) 4 (BitVec.ofNat 128 (min (lost + 1) (2 ^ 32 - 1))) with
  | .ok s1 => s1
  | .error _ => s

/-- R379: whether an address of a context translates with write permission. -/
def State.writable (s : State) (asid : Nat) (a : W64) : Bool :=
  canonical a && (match s.locate asid (va57 a) true with
    | .ok _ => true
    | .error _ => false)

/-- The four words of a record written to its slot, then the new tail (R376). -/
def State.putRecord (s : State) (asid : Nat) (h slot : W64) (tail : Nat) (ws : List W64) : Except Nat State :=
  let word (i : Nat) : W64 := nth 0 ws i
  match s.agentWrite asid slot 16 (word 1 ++ word 0) with
  | .error r => .error r
  | .ok s1 =>
    match s1.agentWrite asid (slot + 16) 16 (word 3 ++ word 2) with
    | .error r => .error r
    | .ok s2 => s2.agentWrite asid h 8 (BitVec.ofNat 128 ((tail + 1) % 2 ^ 64))

/-- R376, R379: a record of four words posted to a ring, which is judged first: usable, then full. `drop` says that a full ring loses the record. -/
def State.postRing (s : State) (asid : Nat) (h : W64) (drop : Bool) (ws : List W64) : State × Posted :=
  match s.ringHeader asid h with
  | none => (s, .unusable)
  | some (tail, head, count, lost, zero) =>
    let slot := h + 64 + BitVec.ofNat 64 (32 * (tail % count))
    if !s.writable asid h then (s, .unusable)
    else if !ringCountOk count || !zero || !s.writable asid slot then (s.raiseLost asid h lost, .unusable)
    else if (tail + 2 ^ 64 - head) % 2 ^ 64 = count then (if drop then s.raiseLost asid h lost else s, .full)
    else match s.putRecord asid h slot tail ws with
      | .error _ => (s.raiseLost asid h lost, .unusable)
      | .ok s1 => (s1, .posted)

/-- R377: the next fault id that no fault awaiting a response holds. -/
def nextFaultId (awaiting : List (Nat × Nat)) : Nat → Nat → Nat
  | 0, n => n % 65536
  | fuel + 1, n => if awaiting.any fun a => a.1 == n % 65536 then nextFaultId awaiting fuel (n + 1) else n % 65536

/-- What a fault record says beside the identity of its team and thread. -/
structure FaultInfo where
  kind : Nat
  cause : Nat
  access : Nat
  reason : Nat
  addr : W64
  pc : W64
  lane : Option Nat
deriving DecidableEq, Repr

/-- Table 21.5: the four words of a fault record. -/
def faultWords (f : FaultInfo) (grid team core role group id : Nat) : List W64 :=
  let laneBits := match f.lane with
    | some l => l % 64 * 2 ^ 26 + 2 ^ 25
    | none => 0
  [BitVec.ofNat 64 (f.kind * 2 ^ 56 + f.cause * 2 ^ 48 + f.access * 2 ^ 44 + f.reason * 2 ^ 40 + core * 2 ^ 32 + laneBits +
      role * 2 ^ 23 + group * 2 ^ 16 + id),
   f.addr, f.pc, BitVec.ofNat 64 (grid % 2 ^ 32 * 2 ^ 32 + team % 2 ^ 32)]

def State.modCtx (s : State) (slot : Nat) (f : Context → Context) : State :=
  { s with contexts := s.contexts.map fun c => if c.slot == slot then f c else c }

/-- R377: a fault record of a team and unit posted to its context's fault ring; the state, what became of it, and its id. -/
def State.postFault (s : State) (ctx : Nat) (team unit : Option Nat) (f : FaultInfo) (drop : Bool) : State × Posted × Nat :=
  match s.ctx? ctx with
  | none => (s, .unusable, 0)
  | some c =>
    let t := team.bind s.team?
    let u := unit.bind s.unit?
    let id := nextFaultId c.awaiting 65536 c.faultId
    let grid := match t with
      | some x => match nth? s.grids x.grid with
        | some g => g.number
        | none => 0
      | none => 0
    let ws := faultWords f grid (match t with
      | some x => x.linear
      | none => 0) (match t with
      | some x => x.core
      | none => 0) (match u with
      | some x => x.role
      | none => 0) (match u with
      | some x => x.gidx
      | none => 0) id
    let r := s.postRing c.entry.asid c.entry.faultRing drop ws
    match r.2 with
    | .posted => (r.1.modCtx ctx fun c => { c with faultId := (id + 1) % 65536 }, .posted, id)
    | p => (r.1, p, id)

/-- R380, Table 21.7: an event record; a full or unusable ring drops it (R379). -/
def State.postEvent (s : State) (ctx kind : Nat) (w1 w2 w3 : W64) : State :=
  match s.ctx? ctx with
  | none => s
  | some c => (s.postRing c.entry.asid c.entry.eventRing true [BitVec.ofNat 64 (kind * 2 ^ 56), w1, w2, w3]).1

/-- Table 21.7: `target-gone` and `ring-invalid`, naming the sender's core and group. -/
def State.postGone (s : State) (ctx kind : Nat) (target signal : W64) (team unit : Option Nat) : State :=
  let core := match team.bind s.team? with
    | some t => t.core
    | none => 0
  let group := match unit.bind s.unit? with
    | some u => u.gidx
    | none => 0
  s.postEvent ctx kind target signal (BitVec.ofNat 64 (core * 2 ^ 32 + group * 2 ^ 16))

/-- R425, Table 24.5: a field of the context status block. -/
def State.putStatus (s : State) (ctx off size : Nat) (v : Nat) : State :=
  match s.ctx? ctx with
  | none => s
  | some c =>
    match s.agentWrite c.entry.asid (c.entry.status + BitVec.ofNat 64 off) size (BitVec.ofNat 128 v) with
    | .ok s1 => s1
    | .error _ => s

end Sys2Proof.Machine
end

