-- ==== Sys2Proof/Machine/Elements.lean ====
section
/-!
DEFINITION. The elements that the copy engine and the tower base move (R305 to R319, R355 to R360): their places, the faults they meet, their reads and writes, and what becomes of those left when a team ends (R309, R310).
-/

namespace Sys2Proof.Machine

/-- The team, context, cluster and ASID for which an engine acts. -/
structure EngineHome where
  team : Nat
  ctx : Nat
  cluster : Nat
  asid : Nat
deriving DecidableEq, Repr

def State.engineHome (s : State) (team : Nat) : EngineHome :=
  match s.team? team with
  | none => ⟨team, 0, 0, 0⟩
  | some t => ⟨team, t.ctx, clusterOf t.core, (s.ctx? t.ctx).elim 0 fun c => c.entry.asid⟩

/-- R307, R193, R396: an engine read, with the access code its fault record would carry. -/
def State.engineRead (s : State) (h : EngineHome) (access : Nat) (e : CopyEnd) (n : Nat) : Except EngineFault (State × BitVec 128) :=
  if e.global then
    match s.sysRead h.asid e.addr n with
    | .error r => .error ⟨e.addr, access, r⟩
    | .ok (s1, d, _) => .ok (s1, d)
  else if !s.sramAllowed h.ctx h.team h.cluster e.addr.toNat false then .error ⟨e.addr, access, 10⟩
  else if s.sramPoisoned h.cluster e.addr.toNat n then .error ⟨e.addr, access, 7⟩
  else .ok (s, BitVec.ofNat 128 (s.sramBytes h.cluster e.addr.toNat n))

/-- R307, R193, R196, R215: an engine write and its completion time. -/
def State.engineWrite (s : State) (h : EngineHome) (access : Nat) (e : CopyEnd) (n : Nat) (d : BitVec 128) (floor : Nat) :
    Except EngineFault (State × Nat) :=
  if e.global then
    match s.sysWrite h.asid e.addr n d floor with
    | .error r => .error ⟨e.addr, access, r⟩
    | .ok r => .ok r
  else if s.inHeader h.cluster e.addr.toNat n then .error ⟨e.addr, access, 9⟩
  else if !s.sramAllowed h.ctx h.team h.cluster e.addr.toNat true then .error ⟨e.addr, access, 10⟩
  else .ok (s.sramWrite h.team h.cluster e.addr.toNat (bytesOf n d.toNat), 0)

/-- R355 to R358: how many elements a copy moves, and their size. -/
def CopyCmd.count (c : CopyCmd) : Nat :=
  match c.kind with
  | .lanes es => es.length
  | .tile _ _ _ _ _ _ len rows => rows * len
  | .zero _ len => len / 16
  | .conv .. => 0

def CopyCmd.elemSize (c : CopyCmd) : Nat :=
  match c.kind with
  | .zero .. => 16
  | _ => c.size

/-- R355, R357, R358: the source, if any, and the destination of an element. -/
def CopyCmd.elem (c : CopyCmd) (i : Nat) : Option CopyEnd × CopyEnd :=
  match c.kind with
  | .lanes es => let e := nth (⟨false, 0⟩, ⟨false, 0⟩) es i; (some e.1, e.2)
  | .tile sg dg src dst ss ds len _ =>
    let r := i / len
    let off : Int := ((i % len * c.size : Nat) : Int)
    (some ⟨sg, src + BitVec.ofInt 64 (ss * (r : Int) + off)⟩, ⟨dg, dst + BitVec.ofInt 64 (ds * (r : Int) + off)⟩)
  | .zero a _ => (none, ⟨false, BitVec.ofNat 64 (a + 16 * i)⟩)
  | .conv .. => (none, ⟨false, 0⟩)

/-- R309: the page of a global address, by its size and number. -/
def State.pageOf (s : State) (asid : Nat) (a : W64) : Nat × Nat :=
  if !canonical a then (64, a.toNat)
  else
    let bits := match s.ctxOfAsid asid with
      | none => 16
      | some c => match s.walk (va57 a) walkLevels c.entry.root with
        | .ok l => l.pageBits
        | .error _ => 16
    (bits, va57 a / 2 ^ bits)

/-- R309: the page of the global side of an element; a copy within scratchpad is one piece. -/
def State.elemPage (s : State) (h : EngineHome) (c : CopyCmd) (i : Nat) : Option (Nat × Nat) :=
  let e := c.elem i
  let src := e.1.bind fun x => if x.global then some (s.pageOf h.asid x.addr) else none
  if src.isSome then src else if e.2.global then some (s.pageOf h.asid e.2.addr) else none

/-- R404, R309: the device that holds the global side of an element, with its translation and whether it is written. -/
def State.elemRemote (s : State) (h : EngineHome) (c : CopyCmd) (i : Nat) : Option (Nat × Xlate × Bool) :=
  let e := c.elem i
  let side := match e.1 with
    | some x => if x.global then some (x.addr, false) else if e.2.global then some (e.2.addr, true) else none
    | none => none
  side.bind fun a => match s.locate h.asid (va57 a.1) a.2 with
    | .ok x => x.attr.device.map fun d => (d, x, a.2)
    | .error _ => none

/-- R305, R307: the value that an element carries: the one read before its turn, or what its source holds now. -/
def State.elemData (s : State) (h : EngineHome) (c : CopyCmd) (i : Nat) : Except EngineFault (State × BitVec 128) :=
  match c.got.find? fun g => g.1 == i with
  | some g => .ok (s, g.2)
  | none => match (c.elem i).1 with
    | none => .ok (s, 0)
    | some src => s.engineRead h 5 src c.elemSize

/-- R305: one element copied. -/
def State.copyElem (s : State) (h : EngineHome) (c : CopyCmd) (i : Nat) : Except EngineFault (State × Nat) :=
  match s.elemData h c i with
  | .error f => .error f
  | .ok (s1, d) => s1.engineWrite h 6 (c.elem i).2 c.elemSize d c.floor

/-- R355: whether a lane's source meets the destination of an earlier lane that is still to be written. -/
def CopyCmd.follows (c : CopyCmd) (i : Nat) : Bool :=
  match c.kind, (c.elem i).1 with
  | .lanes _, some src => (List.range (i - c.next)).any fun k =>
      let d := (c.elem (c.next + k)).2
      d.global == src.global && decide (d.addr.toNat < src.addr.toNat + c.size ∧ src.addr.toNat < d.addr.toNat + c.size)
  | _, _ => false

/-- R307, R357: an element of a copy whose source may be read before its turn: none, or any one not yet read, a free choice. -/
def State.readAhead (s : State) (h : EngineHome) (c : CopyCmd) : Option (State × CopyCmd) :=
  let n := c.count - c.next
  if n ≤ 1 then none
  else
    let i := c.next + (Config.free s.free 25).toNat % n
    if (Config.free s.free 29).getLsbD 0 || (c.got.any fun g => g.1 == i) || (c.elem i).1.isNone || c.follows i || (s.elemRemote h c i).isSome then none
    else match s.elemData h c i with
      | .error _ => none
      | .ok (s1, d) => some (s1.fresh, { c with got := (i, d) :: c.got })

/-- R309: why an element would fault as the part stands. Of one whose global side another device holds, that device answers for it before the first element of its piece is moved (`begun`), and not again. -/
def State.elemFault (s : State) (h : EngineHome) (c : CopyCmd) (begun : Bool) (i : Nat) : Option EngineFault :=
  let e := c.elem i
  match s.elemRemote h c i with
  | none => match s.copyElem h c i with
    | .error f => some f
    | .ok _ => none
  | some (_, x, true) =>
    if !begun && s.homeRefuses x then some ⟨e.2.addr, 6, 5⟩
    else if s.sealedAt h.asid e.2.addr x then some ⟨e.2.addr, 6, 9⟩
    else match s.elemData h c i with
      | .error f => some f
      | .ok _ => none
  | some (_, x, false) =>
    let a := e.1.elim 0 fun y => y.addr
    if !begun && s.homeRefuses x then some ⟨a, 5, 5⟩
    else if !begun && s.remotePoison i then some ⟨a, 5, 7⟩
    else match s.engineWrite h 6 e.2 c.elemSize 0 c.floor with
      | .error f => some f
      | .ok _ => none

/-- Whether some element of a page has been moved or asked for already. -/
def State.pieceBegun (s : State) (h : EngineHome) (c : CopyCmd) (page : Option (Nat × Nat)) : Bool :=
  c.sent.isSome || (decide (0 < c.next) && decide (s.elemPage h c (c.next - 1) = page))

/-- R359: the number of elements of a gather or scatter. -/
def TowerCmd.count (c : TowerCmd) : Nat := c.segs.foldl (fun (n : Nat) (x : Nat × Nat × Nat) => n + x.2.2) 0

/-- R359: the scratchpad address of element `i` and its place in the index list. -/
def segAt (size : Nat) : List (Nat × Nat × Nat) → Nat → Nat × Nat
  | [], _ => (0, 0)
  | (d, start, n) :: rest, i => if i < n then (d + i * size, start + i) else segAt size rest (i - n)

/-- R311, R359: the index of an element, and the two places it names in scratchpad and in global memory. -/
def State.towerIndex (s : State) (h : EngineHome) (c : TowerCmd) (i : Nat) : Except EngineFault (State × Nat) :=
  match s.engineRead h 5 ⟨!c.listSp, c.list + BitVec.ofNat 64 (4 * (segAt c.size c.segs i).2)⟩ 4 with
  | .error f => .error f
  | .ok (s1, x) => .ok (s1, x.toNat % 2 ^ 32)

def TowerCmd.spEnd (c : TowerCmd) (i : Nat) : CopyEnd := ⟨false, BitVec.ofNat 64 (segAt c.size c.segs i).1⟩

def TowerCmd.globalEnd (c : TowerCmd) (idx : Nat) : CopyEnd := ⟨true, c.base + BitVec.ofNat 64 (idx * c.size)⟩

/-- R311: the index that skips an element. -/
def skipIndex : Nat := 2 ^ 32 - 1

/-- R311 to R313: the index and the value of an element: those read before its turn, or read now. A page homed on another device faults, with reason 5 (log entry 130). -/
def State.towerRead (s : State) (h : EngineHome) (c : TowerCmd) (i : Nat) : Except EngineFault (State × Nat × BitVec 128) :=
  match c.got.find? fun g => g.1 == i with
  | some g => .ok (s, g.2)
  | none =>
    match s.towerIndex h c i with
    | .error f => .error f
    | .ok (s1, idx) =>
      let g := c.globalEnd idx
      if idx = skipIndex then .ok (s1, idx, 0)
      else if (match s1.locate h.asid (va57 g.addr) c.scatter with
          | .ok t => canonical g.addr && t.attr.device.isSome
          | .error _ => false) then .error ⟨g.addr, 7, 5⟩
      else match s1.engineRead h 7 (if c.scatter then c.spEnd i else g) c.size with
        | .error f => .error f
        | .ok (s2, d) => .ok (s2, idx, d)

/-- R311, R312: one element gathered or scattered; a skip gathers zeros and scatters nothing. -/
def State.towerElem (s : State) (h : EngineHome) (c : TowerCmd) (i : Nat) : Except EngineFault (State × Nat) :=
  match s.towerRead h c i with
  | .error f => .error f
  | .ok (s1, idx, d) =>
    if c.scatter then (if idx = skipIndex then .ok (s1, 0) else s1.engineWrite h 7 (c.globalEnd idx) c.size d c.floor)
    else s1.engineWrite h 7 (c.spEnd i) c.size d c.floor

/-- R359: whether the index of an element lies where an earlier one of the same command, still to be written, goes: its list then stands in the command's own destination. -/
def State.towerFollows (s : State) (h : EngineHome) (c : TowerCmd) (i : Nat) : Bool :=
  let a := c.list + BitVec.ofNat 64 (4 * (segAt c.size c.segs i).2)
  (List.range (i - c.next)).any fun k =>
    if c.listSp then !c.scatter && decide ((segAt c.size c.segs (c.next + k)).1 < a.toNat + 4 ∧ a.toNat < (segAt c.size c.segs (c.next + k)).1 + c.size)
    else c.scatter && (match s.towerRead h c (c.next + k), s.locate h.asid (va57 a) false with
      | .ok (_, idx, _), .ok x => idx != skipIndex && (match s.locate h.asid (va57 (c.globalEnd idx).addr) true with
        | .ok y => x.asid == y.asid && decide (y.va < x.va + 4 ∧ x.va < y.va + c.size)
        | .error _ => false)
      | _, _ => false)

/-- R307: an element of a gather or scatter that may be read before its turn, a free choice. -/
def State.towerAhead (s : State) (h : EngineHome) (c : TowerCmd) : Option (State × TowerCmd) :=
  let n := c.count - c.next
  if n ≤ 1 then none
  else
    let i := c.next + (Config.free s.free 25).toNat % n
    if (Config.free s.free 29).getLsbD 0 || (c.got.any fun g => g.1 == i) || s.towerFollows h c i then none
    else match s.towerRead h c i with
      | .error _ => none
      | .ok (s1, x) => some (s1.fresh, { c with got := (i, x) :: c.got })

/-- R315 to R319: a sparse conversion as it goes on: the part, the elements read before and the reads made now (by place and size), the scratchpad writes so far (latest first), the page of the latest read, the count, the first entry skipped, why it stopped (status, stream, index), the first value that could not be read with its page, which does not stop the walk, and a fault that does. -/
structure Conv where
  st : State
  got : List (Nat × BitVec 128)
  reads : List (Nat × BitVec 128)
  writes : List CopyOut
  page : Option (Nat × Nat)
  count : Nat
  skip : Option Nat
  halt : Option (Nat × Nat × Nat)
  late : Option (EngineFault × Option (Nat × Nat))
  fault : Option EngineFault

def Conv.ended (c : Conv) : Bool := c.halt.isSome || c.fault.isSome

/-- Element `i` of an array of the side that is read. -/
def Conv.read (c : Conv) (h : EngineHome) (sp : Bool) (base : W64) (n i : Nat) : Conv × Nat :=
  if c.ended then (c, 0)
  else
    let a := base + BitVec.ofNat 64 (n * i)
    let page := if sp then none else some (c.st.pageOf h.asid a)
    let key := a.toNat * 16 + n
    let seen (s1 : State) (d : BitVec 128) : Conv × Nat := ({ c with st := s1, page := page, reads := c.reads ++ [(key, d)] }, d.toNat % 2 ^ (8 * n))
    match c.got.find? fun g => g.1 == key with
    | some g => seen c.st g.2
    | none => match c.st.engineRead h 5 ⟨!sp, a⟩ n with
      | .error f => ({ c with fault := some f, page := page }, 0)
      | .ok (s1, d) => seen s1 d

/-- Elements `i` to `i + k - 1`. -/
def Conv.readMany (h : EngineHome) (sp : Bool) (base : W64) (n : Nat) : Nat → Nat → Conv → Conv × List Nat
  | _, 0, c => (c, [])
  | i, k + 1, c =>
    let r := c.read h sp base n i
    let q := Conv.readMany h sp base n (i + 1) k r.1
    (q.1, r.2 :: q.2)

def Conv.write (c : Conv) (a n v : Nat) : Conv := if c.ended then c else { c with writes := ⟨a, n, v, c.page⟩ :: c.writes }

def Conv.writeMany (c : Conv) (a n : Nat) (vs : List Nat) : Conv :=
  (List.range vs.length).foldl (fun (d : Conv) (i : Nat) => d.write (a + n * i) n (nth 0 vs i)) c

/-- An element that goes to a place as it is; one that cannot be read does not stop the walk. -/
def Conv.move (c : Conv) (h : EngineHome) (sp : Bool) (base : W64) (n i dst : Nat) : Conv :=
  if c.ended then c
  else
    let r := c.read h sp base n i
    match r.1.fault with
    | none => r.1.write dst n r.2
    | some f => { c with late := some (c.late.getD (f, r.1.page)) }

def Conv.counted (c : Conv) : Conv := if c.ended then c else { c with count := c.count + 1 }

def Conv.skipped (c : Conv) (i : Nat) : Conv := if c.ended then c else { c with skip := some (c.skip.getD i) }

def Conv.stop (c : Conv) (status stream index : Nat) : Conv := if c.ended then c else { c with halt := some (status, stream, index) }

/-- The operands of a conversion as they were read at issue. -/
structure ConvArgs where
  e : Nat
  sp : Bool
  a : W64
  b : W64
  p : List W64
deriving DecidableEq, Repr

def ConvArgs.arr (x : ConvArgs) (i : Nat) : W64 := nth 0 x.p i

def ConvArgs.rows (x : ConvArgs) : Nat := x.b.toNat % 65536

def ConvArgs.cols (x : ConvArgs) : Nat := x.b.toNat / 65536 % 65536

def ConvArgs.stride (x : ConvArgs) : Nat := x.b.toNat / 2 ^ 32 % 2 ^ 20

/-- R315: the address of an element of the dense tile. -/
def ConvArgs.cell (x : ConvArgs) (r c : Nat) : Nat := x.a.toNat + r * x.stride + c * x.e

/-- R317: the whole tile is written with zeros first. -/
def Conv.zeroTile (c : Conv) (x : ConvArgs) : Conv :=
  (List.range x.rows).foldl (fun (d : Conv) (r : Nat) =>
    (List.range x.cols).foldl (fun (f : Conv) (k : Nat) => f.write (x.cell r k) x.e 0) d) c

/-- R317: an entry at a row and column, whose value is element `k` of an array; outside the tile it is skipped with its position. -/
def Conv.entry (c : Conv) (h : EngineHome) (x : ConvArgs) (vals : W64) (r col k : Nat) : Conv :=
  if x.rows ≤ r ∨ x.cols ≤ col then c.skipped k else (c.move h x.sp vals x.e k (x.cell r col)).counted

/-- R317, bitmap. -/
def Conv.unpackBitmap (c : Conv) (h : EngineHome) (x : ConvArgs) : Conv :=
  let cells := x.rows * x.cols
  let w := Conv.readMany h x.sp (x.arr 0) 4 0 ((cells + 31) / 32) (c.zeroTile x)
  let bits := (List.range (32 * w.2.length)).filter fun i => (nth 0 w.2 (i / 32)).testBit (i % 32)
  (List.range bits.length).foldl (fun (d : Conv) (k : Nat) =>
    let i := nth 0 bits k
    if cells ≤ i then d.skipped i else (d.move h x.sp (x.arr 1) x.e k (x.cell (i / x.cols) (i % x.cols))).counted) w.1

/-- R317, CSR row block. -/
def Conv.unpackCsr (c : Conv) (h : EngineHome) (x : ConvArgs) : Conv :=
  let ptr := Conv.readMany h x.sp (x.arr 0) 4 0 (x.rows + 1) (c.zeroTile x)
  (List.range x.rows).foldl (fun (d : Conv) (r : Nat) =>
    let lo := nth 0 ptr.2 r
    let hi := nth 0 ptr.2 (r + 1)
    if hi < lo then d.skipped r
    else (List.range (hi - lo)).foldl (fun (f : Conv) (k : Nat) =>
      let col := f.read h x.sp (x.arr 1) 4 (lo + k)
      col.1.entry h x (x.arr 2) r col.2 (lo + k)) d) ptr.1

/-- R317, coordinate list. -/
def Conv.unpackCoo (c : Conv) (h : EngineHome) (x : ConvArgs) : Conv :=
  (List.range ((x.arr 2).toNat % 2 ^ 32)).foldl (fun (d : Conv) (k : Nat) =>
    let e := d.read h x.sp (x.arr 0) 8 k
    e.1.entry h x (x.arr 1) (e.2 / 2 ^ 32) (e.2 % 2 ^ 32) k) (c.zeroTile x)

/-- The bits of a list packed into 32-bit words. -/
def packWords (bs : List Bool) : List Nat :=
  (List.range ((bs.length + 31) / 32)).map fun w =>
    (List.range 32).foldl (fun (n : Nat) (i : Nat) => if nth false bs (32 * w + i) then n + 2 ^ i else n) 0

/-- A cell of the dense tile that is packed: the first that cannot be read is kept as such, and the others are read on. -/
def Conv.cellAt (h : EngineHome) (x : ConvArgs) (d : Conv × List (Option Nat)) (r k : Nat) : Conv × List (Option Nat) :=
  let q := d.1.read h x.sp (x.a + BitVec.ofNat 64 (r * x.stride)) x.e k
  match q.1.fault with
  | none => (q.1, d.2 ++ [some q.2])
  | some f => ({ d.1 with late := some (d.1.late.getD (f, q.1.page)) }, d.2 ++ [none])

/-- R309, R317: `cp.pack`; what does not follow from the cells that were read is not written. -/
def Conv.pack (c : Conv) (h : EngineHome) (x : ConvArgs) : Conv :=
  let t := (List.range x.rows).foldl (fun (d : Conv × List (Option Nat)) (r : Nat) => (List.range x.cols).foldl (fun d k => Conv.cellAt h x d r k) d) (c, [])
  let cells := t.2
  let words := packWords (cells.map fun v => v != some 0)
  let known (w : Nat) : Bool := ((cells.drop (32 * w)).take 32).all Option.isSome
  let vals := ((cells.takeWhile Option.isSome).filterMap id).filter fun v => v != 0
  let c1 : Conv := { t.1 with page := none }
  let d := (List.range words.length).foldl (fun (d : Conv) (w : Nat) => if known w then d.write ((x.arr 0).toNat + 4 * w) 4 (nth 0 words w) else d) c1
  { d.writeMany (x.arr 1).toNat x.e vals with count := vals.length }

/-- R318: one word of `cp.isect`; the walk carries the value positions `pa` and `pb`. -/
def Conv.isectWord (h : EngineHome) (x : ConvArgs) (d : Conv × Nat × Nat) (w : Nat) : Conv × Nat × Nat :=
  let ra := d.1.read h x.sp (x.arr 0) 4 w
  let rb := ra.1.read h x.sp (x.arr 2) 4 w
  let cap := (x.arr 4).toNat / 2 ^ 32
  let below (v i : Nat) : Nat := popLow (BitVec.ofNat 32 v) i
  let out := ((List.range 32).filter fun i => ra.2.testBit i && rb.2.testBit i).foldl (fun (f : Conv) (i : Nat) =>
    if f.ended then f
    else if f.count = cap then f.stop 3 0 (32 * w + i)
    else
      let va := f.move h x.sp (x.arr 1) x.e (d.2.1 + below ra.2 i) (x.a.toNat + f.count * x.e)
      (va.move h x.sp (x.arr 3) x.e (d.2.2 + below rb.2 i) (x.b.toNat + f.count * x.e)).counted) rb.1
  (out, d.2.1 + below ra.2 32, d.2.2 + below rb.2 32)

/-- R318: `cp.isect`. -/
def Conv.isect (c : Conv) (h : EngineHome) (x : ConvArgs) : Conv :=
  ((List.range ((x.arr 4).toNat % 2 ^ 32)).foldl (Conv.isectWord h x) (c, 0, 0)).1

/-- R319: the next element of a stream becomes current and is checked. -/
def Conv.current (c : Conv) (h : EngineHome) (x : ConvArgs) (stream len k last : Nat) : Conv × Nat :=
  if len ≤ k then (c, 0)
  else
    let r := c.read h x.sp (x.arr stream) 4 k
    if 0 < k ∧ r.2 ≤ last then (r.1.stop 1 stream k, r.2) else r

/-- R319: the walk, at positions `i` and `j` with current keys `av` and `bv`. -/
def Conv.merge (h : EngineHome) (x : ConvArgs) (la lb : Nat) : Nat → Nat → Nat → Nat → Nat → Conv → Conv
  | 0, _, _, _, _, c => c
  | fuel + 1, i, j, av, bv, c =>
    if c.ended ∨ la ≤ i ∨ lb ≤ j then c
    else if av = bv then
      if c.count = x.b.toNat % 2 ^ 32 then c.stop 3 0 i
      else
        let c1 := (c.write (x.a.toNat + 8 * c.count) 8 (i + j * 2 ^ 32)).counted
        let ra := c1.current h x 0 la (i + 1) av
        let rb := ra.1.current h x 1 lb (j + 1) bv
        Conv.merge h x la lb fuel (i + 1) (j + 1) ra.2 rb.2 rb.1
    else if av < bv then
      let ra := c.current h x 0 la (i + 1) av
      Conv.merge h x la lb fuel (i + 1) j ra.2 bv ra.1
    else
      let rb := c.current h x 1 lb (j + 1) bv
      Conv.merge h x la lb fuel i (j + 1) av rb.2 rb.1

/-- R319: `cp.merge`. -/
def Conv.mergeAll (c : Conv) (h : EngineHome) (x : ConvArgs) : Conv :=
  let la := (x.arr 2).toNat % 2 ^ 32
  let lb := (x.arr 2).toNat / 2 ^ 32
  if la = 0 ∨ lb = 0 then c
  else
    let ra := c.current h x 0 la 0 0
    let rb := ra.1.current h x 1 lb 0 0
    Conv.merge h x la lb (la + lb) 0 0 ra.2 rb.2 rb.1

/-- Table 15.3: a field of the status word; a number that does not fit is a free value. -/
def Conv.field (c : Conv) (tag n bits : Nat) : Nat := if n < 2 ^ bits then n else (Config.free c.st.free tag).toNat % 2 ^ bits

/-- Table 15.3: the status word. -/
def Conv.status (c : Conv) : Nat :=
  let x : Nat × Nat × Nat := match c.halt with
    | some y => y
    | none => match c.skip with
      | some i => (2, 0, i)
      | none => (0, 0, 0)
  x.1 * 2 ^ 60 + x.2.1 * 2 ^ 59 + c.field 27 x.2.2 27 * 2 ^ 32 + c.field 28 c.count 32

/-- R315 to R319, R360: the whole walk of a conversion, and its status word unless it faults; it takes the elements in `got` as they were read before. -/
def State.convert (s : State) (h : EngineHome) (k : ConvKind) (x : ConvArgs) (status : Nat) (got : List (Nat × BitVec 128)) : Conv :=
  let c : Conv := { st := s, got := got, reads := [], writes := [], page := none, count := 0, skip := none, halt := none, late := none, fault := none }
  let empty := decide (x.rows = 0 ∨ x.cols = 0)
  let d := match k with
    | .unpackBitmap => if empty then c else c.unpackBitmap h x
    | .unpackCsr => if empty then c else c.unpackCsr h x
    | .unpackCoo => if empty then c else c.unpackCoo h x
    | .pack => if empty then c else c.pack h x
    | .isect => c.isect h x
    | .merge => c.mergeAll h x
  match d.late with
  | some (f, p) => { d with fault := some f, page := p }
  | none => if d.fault.isSome then d else { d with st := d.st.fresh, writes := ⟨status, 8, d.status, none⟩ :: d.writes }

/-- R309, R317, R353: what a conversion is to write, in order: each element once, with the value that stands and the page it comes from, but for those of a faulting piece; one that reads scratchpad is a single piece. -/
def Conv.pending (c : Conv) : List CopyOut :=
  let keep := if c.fault.isNone then c.writes else if c.page.isNone then [] else c.writes.filter fun w => w.page != c.page
  (keep.foldl (fun (a : List CopyOut) (w : CopyOut) => if a.any fun x => x.addr == w.addr && x.size == w.size then a else a ++ [w]) []).reverse

/-- R307: an element of a conversion that may be read before its turn: one that its walk reads and has not read before, a free choice. -/
def Conv.ahead (c : Conv) (n : Nat) : Option (Nat × BitVec 128) :=
  let new := c.reads.filter fun r => !(c.got.any fun g => g.1 == r.1)
  if new.length ≤ 1 ∨ (Config.free n 29).getLsbD 0 = true then none else nth? new ((Config.free n 25).toNat % new.length)

/-- Scratchpad writes of a conversion, in their order; the first that is refused stops them, with the page of its value. -/
def State.convWrites (s : State) (h : EngineHome) : List CopyOut → Except (EngineFault × Option (Nat × Nat)) State
  | [] => .ok s
  | w :: rest =>
    match s.engineWrite h 6 ⟨false, BitVec.ofNat 64 w.addr⟩ w.size (BitVec.ofNat 128 w.value) 0 with
    | .error f => .error (f, w.page)
    | .ok (s1, _) => s1.convWrites h rest

/-- R309: a write that is left when its team ends is made or not, a free choice. One to a word in a region's set is held (R259). -/
def State.maybeWrite (s : State) (h : EngineHome) (access : Nat) (e : CopyEnd) (n : Nat) (d : BitVec 128) (floor : Nat) : State :=
  let s1 := s.fresh
  if !(Config.free s.free 26).getLsbD 0 then s1
  else if e.global && s1.regionBusy h.asid e.addr n then
    match s1.agentWriteAt h.asid e.addr n d floor with
    | .ok s2 => s2
    | .error _ => s1
  else match s1.engineWrite h access e n d floor with
    | .ok (s2, _) => s2
    | .error _ => s1

/-- R309, R310: the elements of a team's copy that have not landed; those of a faulting piece are not written. -/
def State.settleCopy (s : State) (c : CopyCmd) : State :=
  let h := s.engineHome c.team
  match c.kind with
  | .conv k rsp a b block status =>
    let r := s.convert h k { e := c.size, sp := rsp, a := a, b := b, p := block } status c.got
    (c.writes.getD r.pending).foldl (fun (x : State) (w : CopyOut) =>
      x.maybeWrite h 6 ⟨false, BitVec.ofNat 64 w.addr⟩ w.size (BitVec.ofNat 128 w.value) 0) r.st
  | _ =>
    let bad := if c.fault.isSome then some (s.elemPage h c c.next) else none
    (List.range (c.count - c.next)).foldl (fun (x : State) (k : Nat) =>
      let i := c.next + k
      if bad = some (s.elemPage h c i) then x
      else match x.elemData h c i with
        | .error _ => x
        | .ok (x1, d) => x1.maybeWrite h 6 (c.elem i).2 c.elemSize d c.floor) s

/-- R309, R310: the same for a gather or scatter. -/
def State.settleTower (s : State) (c : TowerCmd) : State :=
  let h := s.engineHome c.team
  (List.range (c.count - c.next)).foldl (fun (x : State) (k : Nat) =>
    let i := c.next + k
    match x.towerRead h c i with
    | .error _ => x
    | .ok (x1, idx, d) =>
      if !c.scatter then x1.maybeWrite h 7 (c.spEnd i) c.size d c.floor
      else if idx = skipIndex then x1
      else x1.maybeWrite h 7 (c.globalEnd idx) c.size d c.floor) s

/-- R381 step 2: the elements that a team's matrix commands had still to write are each written or not, a free choice. -/
def State.settleMatrix (s : State) (t : Nat) : State :=
  match s.team? t with
  | none => s
  | some tm =>
    let put (x : State) (w : Nat × Nat × Nat) : State :=
      if (Config.free x.free 26).getLsbD 0 then x.fresh.sramWrite t (clusterOf tm.core) w.1 (bytesOf w.2.1 w.2.2) else x.fresh
    (tm.queue.flatMap fun c => c.outs).foldl put s

/-- R310, R381 step 2: what a team's engine commands leave behind. -/
def State.settleEngine (s : State) (t : Nat) : State :=
  let s1 := (s.copies.filter fun c => c.team == t).foldl State.settleCopy s
  ((s1.gathers.filter fun c => c.team == t).foldl State.settleTower s1).settleMatrix t

/-- Whether every effect of a matrix command is made. -/
def MatrixCmd.done (c : MatrixCmd) : Bool :=
  match c.kind with
  | .steps _ _ _ _ n _ _ _ => decide (n ≤ c.next)
  | _ => c.finished

/-- R328: the scratchpad ranges that a matrix command has still to read or write, by first byte and count. -/
def MatrixCmd.ranges (c : MatrixCmd) : List (Int × Nat) :=
  if c.done then []
  else match c.kind with
  | .steps a b inc fmt n _ _ _ =>
    let steps := (List.range (n - c.next)).map fun i => c.next + i
    let bytes := if fmt.getLsbD 9 || fmt.toNat / 16 % 16 == 2 then 3200 else 3072
    (steps.map fun (i : Nat) => ((b : Int) + inc * (i : Int), bytes)) ++ (match a with
      | .sp base incA => steps.map fun (i : Nat) => ((base : Int) + incA * (i : Int), if fmt.getLsbD 8 || fmt.toNat % 16 == 2 then 1600 else 1536)
      | _ => [])
  | .zero => []
  | .load base stride rows => (List.range rows).map fun (i : Nat) => (((base + i * stride.toNat : Nat) : Int), 256)
  | .store base stride rows fmt _ => (List.range rows).map fun (i : Nat) =>
      (((base + i * stride.toNat : Nat) : Int), if fmt = 0 then 256 else if fmt = 3 then 64 else 128)
  | .hadamard base stride rows cols _ fmt => (List.range rows).map fun (i : Nat) =>
      (((base + i * stride.toNat : Nat) : Int), cols * (if fmt = 0 then 4 else 2))

/-- R328: whether a command has still to use one of some banks. -/
def MatrixCmd.usesBanks (c : MatrixCmd) (idxs : List Nat) : Bool :=
  c.ranges.any fun r => idxs.any fun (b : Nat) => decide (r.1 < ((b * 1024 + 1024 : Nat) : Int) ∧ ((b * 1024 : Nat) : Int) < r.1 + (r.2 : Int))

end Sys2Proof.Machine
end

