-- ==== Sys2Proof/Machine/Ops.lean ====
section
/-!
DEFINITION. The operations every instruction shares: aborting a region (R255, R256), ending a team (R381), taking a trap (R27, R28) and returning from one (R29), parking on a fault (R115), and going on to the next word (R15, R19).
-/

namespace Sys2Proof.Machine

/-- The cluster of a unit's team. -/
def State.clusterOfUnit (s : State) (u : Unit) : Nat :=
  match s.team? u.team with
  | some t => clusterOf t.core
  | none => 0

/-- R223: the clock that a group or a fragment's thread waits and reads by: that of its wide core's port, or of its narrow core. -/
def State.unitClock (s : State) (u : Unit) : Nat :=
  match u.frag with
  | none => portClock (s.clusterOfUnit u)
  | some f => narrowClock (s.clusterOfUnit u) f.lane

/-- R255: the regions of a worklist abort with their status; each abort discards the region's versions and edges and cascades with status 2 to the regions that received a value from it. -/
def State.abortRegions : Nat → List (Nat × Nat) → State → State
  | 0, _, s => s
  | _ + 1, [], s => s
  | fuel + 1, (r, status) :: rest, s =>
    match s.regions.find? fun x => x.id == r && x.pending.isNone with
    | none => State.abortRegions fuel rest s
    | some _ =>
      let next := (s.edges.filter fun e => e.src == r && e.kind == .forward && e.stalled.isNone).map fun e => (e.dst, 2)
      State.abortRegions fuel (rest ++ next)
        { s with
          regions := s.regions.map fun x => if x.id == r then { x with pending := some status } else x
          versions := s.versions.filter fun v => v.region != r
          readers := s.readers.filter fun v => v.region != r
          edges := s.edges.filter fun e => e.src != r && e.dst != r }

/-- R255 for one region; the fuel covers every cascade. The agents' writes that were held on its account follow. -/
def State.abortRegion (s : State) (r status : Nat) : State :=
  (s.abortRegions ((s.regions.length + 1) * (s.edges.length + 2)) [(r, status)]).flushDeferred

/-- R256: the unperformed lanes of a group's region accesses are discarded; a request with no lane left returns without effect. -/
def Unit.discardRegion (u : Unit) : Unit :=
  let cut (r : Req) : Req := if r.region then { r with lanes := r.lanes.filter fun l => l.done } else r
  let reqs := u.reqs.map cut
  let gone := (reqs.filter fun r => r.region && r.lanes.isEmpty).map fun r => r.seq
  gone.foldl (fun a q => a.returnOp q) { u with reqs := reqs.filter fun r => !(r.region && r.lanes.isEmpty) }

/-- R256: the group takes a decided abort and continues at the handler; inside a trap handler it stays there (log entry 98). -/
def State.takeAbort (s : State) (uid : Nat) : State :=
  match s.unit? uid with
  | none => s
  | some u =>
    match u.region.bind fun r => s.regions.find? fun x => x.id == r with
    | some r =>
      match r.pending with
      | none => s
      | some st =>
        let u1 := u.discardRegion.putVar ⟨.u, r.statusReg, [(0, BitVec.ofNat 64 st)]⟩
        let s1 := s.setUnit uid { u1 with
          active := u1.launched, levels := [], joinCtr := [0, 0, 0, 0], pc := r.handler, wait := .none, synced := none, region := none, push := none
          step := u1.step + 1 }
        { s1 with
          regions := s1.regions.filter fun x => x.id != r.id
          contexts := s1.contexts.map fun c => { c with awaiting := c.awaiting.filter fun a => a.2 != uid } }
    | none => s

/-- R406: an atomic of Table 13.2 on an unsigned doubleword of another device, sent by one of the part's agents. -/
def State.sendAtomic (s : State) (dev pa op : Nat) (d : W64) (floor : Nat) (src : Option (Nat × Nat)) : State :=
  let req : RemoteReq := { dev := s.deviceId, pa := pa, kind := 2, size := 8, op := op, ety := 7, data := d.setWidth 128, data2 := 0, floor := floor }
  { s with outbox := s.outbox ++ [{ dest := dev, req := req, lane := src.map fun x => (x.1, x.2, 0) }] }

/-- R238, R406: the same at a counter that another device holds. -/
def State.sendAdvance (s : State) (dev pa : Nat) (inc : W64) (poison : Bool) (floor : Nat) (src : Option (Nat × Nat)) : State :=
  let req : RemoteReq :=
    { dev := s.deviceId, pa := pa, kind := 4, size := 8, op := 0, ety := 7
      data := ((inc &&& ~~~(1#64 <<< 63)) ||| (if poison then 1#64 <<< 63 else 0)).setWidth 128, data2 := 0, floor := floor }
  { s with outbox := s.outbox ++ [{ dest := dev, req := req, lane := src.map fun x => (x.1, x.2, 0) }] }

/-- R310 step 4, R259: the poison bit of a timeline counter set by an atomic OR at its home; a counter that cannot be reached is left. -/
def State.poisonGlobal (s : State) (asid : Nat) (a : W64) : State :=
  match if canonical a then s.locate asid (va57 a) true else .error 8 with
  | .error _ => s
  | .ok x =>
    match x.attr.device with
    | some dev => s.sendAdvance dev x.pa 0 true 0 none
    | none =>
      if s.agentsHeld || s.regionBusy asid a 8 then { s with deferred := s.deferred ++ [⟨asid, a, 8, 0, 0, true, none⟩] }
      else s.performDeferred ⟨asid, a, 8, 0, 0, true, none⟩

def State.poisonSp (s : State) (cluster addr : Nat) : State :=
  let b := sget s.sram (sramKey cluster (addr + 7))
  s.sramPut cluster (addr + 7) [b ||| 0x80#8]

/-- R160: where a signal of a context lands: a live scratchpad bank and its team, a saved or power-gated image, or nowhere. -/
inductive Target where
  | live (team : Nat)
  | image (k : Nat)
  | gone
deriving DecidableEq, Repr

/-- R392: the saved team of a context that holds a scratchpad bank of a cluster. -/
def State.savedAt (s : State) (ctx cluster addr : Nat) : Option Nat :=
  s.saved.findIdx? fun x => x.ctx == ctx && x.cluster == cluster && x.record.banks.any fun b => b.idx == addr / 1024 && b.mode == .sp

/-- R264: the image of a team that holds a scratchpad bank of a cluster. -/
def State.savedOf (s : State) (team cluster addr : Nat) : Option Nat :=
  s.saved.findIdx? fun x => x.team == team && x.cluster == cluster && x.record.banks.any fun b => b.idx == addr / 1024 && b.mode == .sp

/-- R160, R196: a saved team's image as a target of `size` bytes; those of its team header are none. -/
def State.imageTarget (s : State) (k : Option Nat) (addr size : Nat) : Target :=
  match k with
  | some i => if (nth? s.saved i).elim false fun x => decide (addr < x.record.base + 64 ∧ x.record.base < addr + size) then .gone else .image i
  | none => .gone

/-- R160, R196: the resolution of `size` bytes that a signal names; those of a team header are no target. -/
def State.resolve (s : State) (ctx cluster addr size : Nat) : Target :=
  let image := s.imageTarget (s.savedAt ctx cluster addr) addr size
  match s.bankAt cluster addr with
  | some (t, .sp) =>
    match s.team? t with
    | some tm => if tm.ctx = ctx then (if s.inHeader cluster addr size then .gone else .live t) else image
    | none => image
  | _ => image

/-- R264: the resolution of a byte of a subscriber's range: its own bank, or its own image. -/
def State.resolveFor (s : State) (team cluster addr : Nat) : Target :=
  match s.bankAt cluster addr with
  | some (t, .sp) => if t = team then (if s.inHeader cluster addr 1 then .gone else .live t) else s.imageTarget (s.savedOf team cluster addr) addr 1
  | _ => s.imageTarget (s.savedOf team cluster addr) addr 1

/-- R392: bytes written to a saved image; they clear its zero flag. -/
def SavedTeam.put (x : SavedTeam) (addr : Nat) (bs : List Byte) : SavedTeam :=
  { x with
    sram := ssetMany x.sram addr bs
    zeroFlags := x.zeroFlags.filter fun b => !(decide (addr / 1024 ≤ b ∧ b ≤ (addr + bs.length - 1) / 1024))
    poison := if bs.length < 4 then x.poison else x.poison.filter fun w => !(decide (addr / 4 ≤ w ∧ w ≤ (addr + bs.length - 1) / 4)) }

/-- R392: a signal's bytes written to the image in the save area, at the place of its bank there; an image whose page no longer takes a write keeps its old bytes. -/
def State.imageWrite (s : State) (ctx : Nat) (x : SavedTeam) (addr : Nat) (bs : List Byte) : State :=
  let place := (x.record.banks.filter fun b => b.mode != .cache).findIdx? fun b => b.idx == addr / 1024
  match x.image, place, s.ctx? ctx with
  | some a, some i, some c =>
    match s.agentWrite c.entry.asid (a + BitVec.ofNat 64 (1024 * i + addr % 1024)) bs.length (BitVec.ofNat 128 (natOfBytes bs)) with
    | .ok s1 => s1
    | .error _ => s
  | _, _, _ => s

/-- R392: bytes applied to a saved team, in the state that its image stands for and in the image's own bytes. -/
def State.putSaved (s : State) (ctx k addr : Nat) (bs : List Byte) : State :=
  match nth? s.saved k with
  | some x => { s with saved := modNth (fun y => y.put addr bs) s.saved k }.imageWrite ctx x addr bs
  | none => s

/-- R158, R162, R392: an 8-byte word changed at its target; `none` when the signal has nowhere to land. A team's own local change is forwarded (R261). -/
def State.changeWord (s : State) (ctx : Nat) (sender : Option Nat) (cluster addr : Nat) (f : W64 → W64) : Option State :=
  match s.resolve ctx cluster addr 8 with
  | .live t =>
    let w := f (BitVec.ofNat 64 (s.sramBytes cluster addr 8))
    let bs := bytesOf 8 w.toNat
    some (if sender = some t then s.sramWrite t cluster addr bs else s.sramPut cluster addr bs)
  | .image k =>
    let old := (nth? s.saved k).elim 0 fun x => natOfBytes (sgetMany x.sram addr 8)
    some (s.putSaved ctx k addr (bytesOf 8 (f (BitVec.ofNat 64 old)).toNat))
  | .gone => none

/-- R310: the poison bit of a timeline counter in scratchpad, at a live bank or in an image. -/
def State.poisonAt (s : State) (ctx cluster addr : Nat) : State :=
  (s.changeWord ctx none cluster addr fun w => w ||| (1#64 <<< 63)).getD s

/-- R302, R310: the counter a closed batch names gets its poison bit. -/
def State.poisonBatch (s : State) (ctx cluster : Nat) (b : Batch) : State :=
  match b.tl with
  | none => s
  | some (true, a) =>
    match s.ctx? ctx with
    | some c => s.poisonGlobal c.entry.asid a
    | none => s
  | some (false, a) => s.poisonAt ctx cluster a.toNat

/-- R310: an advance that is still on its way poisons its counter instead. -/
def State.poisonSignal (s : State) (g : Signal) : State :=
  match g.globalVa with
  | some va =>
    match s.ctx? g.ctx with
    | some c => s.poisonGlobal c.entry.asid (BitVec.ofNat 64 va)
    | none => s
  | none => s.poisonAt g.ctx g.cluster g.sram

/-- Whether a signal is an advance of a team. -/
def Signal.isAdvance (g : Signal) (t : Nat) : Bool :=
  g.team == t && (match g.kind with
    | .advance .. => true
    | _ => false)

/-- R227: an operation whose last lane or signal is done returns. -/
def State.opDone (s : State) (uid seq : Nat) : State :=
  if s.signals.any fun g => g.src == some (uid, seq) then s
  else match s.unit? uid with
    | some u => if u.spq.any fun a => a.seq == seq then s else s.setUnit uid (u.returnOp seq)
    | none => s

def State.sourceDone (s : State) (src : Option (Nat × Nat)) : State :=
  match src with
  | some (uid, seq) => s.opDone uid seq
  | none => s

/-- R264: the updates on their way to some subscriber entries, by core and sid, are dropped; a `sub.flush` no longer waits for them. -/
def State.dropUpdates (s : State) (gone : List (Nat × Nat)) : State :=
  let mine (g : Signal) : Bool := match g.kind with
    | .update c i _ => gone.contains (c, i)
    | _ => false
  let srcs := (s.signals.filter mine).map fun g => g.src
  srcs.foldl State.sourceDone { s with signals := s.signals.filter fun g => !mine g }

/-- R264, R381 step 5: a team's publisher entries are removed and each subscriber's context hears `pub-ended`; its subscriber entries close and each publisher's context hears `sub-lost`. -/
def State.endSubscriptions (s : State) (t : Nat) : State :=
  let s0 := s.flushPubs t
  let mine := s0.pubs.filter fun e => e.team == t
  let s1 := mine.foldl (fun (a : State) (e : PubEntry) => e.subs.foldl (fun (b : State) (x : Nat × Nat) =>
    match s0.subs.find? fun y => y.core == x.1 && y.sid == x.2 with
    | some y => match s0.team? y.team with
      | some st => b.postEvent st.ctx 3 (BitVec.ofNat 64 e.base)
          (BitVec.ofNat 64 (clusterOf e.core * 2 ^ 20 + x.2 * 2 ^ 32)) (BitVec.ofNat 64 x.1)
      | none => b
    | none => b) a) s0
  let held := s1.subs.filter fun y => y.team == t
  let s2 := held.foldl (fun (a : State) (y : SubEntry) =>
    match a.pubs.find? fun e => e.core == y.pubCore && e.base == y.remote && e.len == y.len && e.subs.contains (y.core, y.sid) with
    | some e => match a.team? e.team with
      | some pt => a.postEvent pt.ctx 2 (BitVec.ofNat 64 e.base)
          (BitVec.ofNat 64 (clusterOf e.core * 2 ^ 20 + y.sid)) (BitVec.ofNat 64 y.core)
      | none => a
    | none => a) s1
  let gone := held.map fun y => (y.core, y.sid)
  { s2.dropUpdates gone with
    pubs := ((s2.pubs.filter fun e => e.team != t).map fun e => { e with subs := e.subs.filter fun x => !(gone.contains x) }).filter
      fun e => !e.subs.isEmpty
    subs := s2.subs.filter fun y => y.team != t }

/-- R107, R381: a unit that issues nothing more: values still returning are discarded, arrivals not made are never made, and writes already issued stay, to be performed or dropped word by word. Arrivals in flight: log entry 108. -/
def Unit.halt (u : Unit) : Unit :=
  { u with
    live := false, wait := .none, vars := [], win := []
    reqs := u.reqs.filter fun r => match r.kind with
      | .load _ => false
      | .prefetch => false
      | _ => true
    spq := u.spq.filter fun a => match a.kind with
      | .load _ => false
      | .arrive => false
      | _ => true }

/-- R381, R310: a team is terminated: its groups stop, its engine work is discarded, its regions abort, the counters it owed are poisoned, its subscriptions end, and its grid is marked. -/
def State.endTeam (s : State) (t : Nat) : State :=
  match s.team? t with
  | none => s
  | some tm =>
    if tm.terminated || tm.life == .exited then s
    else
      let cl := clusterOf tm.core
      let uids := (List.range s.units.length).filter fun u => match s.unit? u with
        | some x => x.team == t
        | none => false
      let regs := uids.filterMap fun u => (s.unit? u).bind fun x => x.region
      let s1 := regs.foldl (fun (a : State) (r : Nat) => a.abortRegion r 6) (s.settleEngine t)
      let s2 := { s1 with
        units := s1.units.map fun (x : Unit) => if x.team == t then { x.halt with region := none } else x
        regions := s1.regions.filter fun (r : Region) => !(uids.contains r.unit)
        contexts := s1.contexts.map fun (c : Context) => { c with awaiting := c.awaiting.filter fun (a : Nat × Nat) => !(uids.contains a.2) } }
      let owed := s2.batches.filter fun (b : Batch) => b.closed && (s2.copies.any (fun (c : CopyCmd) => c.batch == b.id && c.team == t) ||
        uids.contains (b.id / 2 ^ 32))
      let due := s2.signals.filter fun g => g.isAdvance t && !g.sent
      let s3 := (owed.foldl (fun (a : State) (b : Batch) => a.poisonBatch tm.ctx cl b)
        (due.foldl State.poisonSignal { s2 with signals := s2.signals.filter fun g => !(g.isAdvance t && !g.sent) }))
      let s4 := if tm.queue.isEmpty || !tm.liveAlloc then s3 else s3.poisonSp cl tm.base
      let s5 := if s4.gathers.any (fun (g : TowerCmd) => g.team == t) then s4.poisonSp cl (tm.base + 8) else s4
      let s6 := s5.endSubscriptions t
      let s7 := { s6 with
        copies := s6.copies.filter fun (c : CopyCmd) => c.team != t
        gathers := s6.gathers.filter fun (g : TowerCmd) => g.team != t
        batches := s6.batches.filter fun (b : Batch) => !(uids.contains (b.id / 2 ^ 32)) }
      let s8 := { s7 with saved := s7.saved.filter fun (x : SavedTeam) => x.team != t }.modTeam t fun (x : Team) => { x with terminated := true, queue := [] }
      { s8 with grids := modNth (fun (g : Grid) => { g with terminated := true }) s8.grids tm.grid }

/-- The id of a fault whose record waits for a slot of a full ring (R379) is this number and the step in which it was decided. -/
def unposted : Nat := 65536

/-- Table 21.5: the access, reason and lane of a parked fault in one number, and back. -/
def faultCode (access reason : Nat) (lane : Option Nat) : Nat := access * 16 + reason + lane.elim 0 fun l => 256 * (l + 1)

def faultOf (what : Nat) (addr pc : W64) : FaultInfo :=
  { kind := 1, cause := 0, access := what / 16 % 16, reason := what % 16, addr := addr, pc := pc, lane := if what < 256 then none else some (what / 256 - 1) }

/-- The units of a context whose fault records wait for a slot, with the fault, in the order in which the faults were decided. -/
def State.unpostedOf (s : State) (ctx : Nat) : List (Nat × Nat × W64 × Nat) :=
  let all := ((List.range s.units.length).filterMap fun i => (s.unit? i).bind fun u =>
    match u.wait, s.team? u.team with
    | .parked id a what, some t => if unposted ≤ id ∧ t.ctx = ctx then some (i, id, a, what) else none
    | _, _ => none)
  all.foldl (fun (l : List (Nat × Nat × W64 × Nat)) x => l.takeWhile (fun y => decide (y.2.1 ≤ x.2.1)) ++ [x] ++ l.dropWhile (fun y => decide (y.2.1 ≤ x.2.1))) []

/-- R378, R379: the record of a parked unit is posted, or waits for a slot under `id`; on an unusable ring its team ends. -/
def State.postParked (s : State) (uid id : Nat) (addr : W64) (what : Nat) : State :=
  match s.unit? uid with
  | none => s
  | some u =>
    match s.team? u.team with
    | none => s
    | some tm =>
      match s.postFault tm.ctx (some u.team) (some uid) (faultOf what addr (u.pc.signExtend 64)) false with
      | (s1, .posted, fid) =>
        (s1.modCtx tm.ctx fun c => { c with awaiting := c.awaiting ++ [(fid, uid)] }).modUnit uid fun u => { u with wait := .parked fid addr what }
      | (s1, .full, _) => s1.modUnit uid fun u => { u with wait := .parked id addr what }
      | (s1, .unusable, _) => s1.endTeam u.team

/-- R376, R379: records that wait for a slot are posted before any fault of the context decided later. -/
def State.postWaiting (s : State) (ctx : Nat) : State :=
  (s.unpostedOf ctx).foldl (fun (a : State) x => a.postParked x.1 x.2.1 x.2.2.1 x.2.2.2) s

/-- R376, R377: a fault record of a context, behind those that wait; a full ring drops it. -/
def State.postRecord (s : State) (ctx : Nat) (team unit : Option Nat) (f : FaultInfo) : State :=
  ((s.postWaiting ctx).postFault ctx team unit f true).1

/-- R381 step 7: termination with its record. -/
def State.terminate (s : State) (t : Nat) (unit : Option Nat) (f : FaultInfo) : State :=
  match s.team? t with
  | none => s
  | some tm => (s.postRecord tm.ctx (some t) unit f).endTeam t

/-- R27, R28, R154: an exception. `next` is the address of the following word, which codes 0x0F and 0x10 record. A trap in a handler, without a vector, or in a fragment ends the team. -/
def State.takeTrap (s : State) (uid : Nat) (cause : Nat) (tval : W64) (next : W64) : State :=
  match s.unit? uid with
  | none => s
  | some u =>
    match s.team? u.team with
    | none => s
    | some tm =>
      let pc := u.pc.signExtend 64
      match u.frag with
      | some f =>
        s.terminate u.team (some uid)
          { kind := 3, cause := cause, access := 0, reason := 0, addr := tval, pc := pc, lane := some f.lane }
      | none =>
        if u.inHandler ∨ tm.desc.tvec = 0 then
          s.terminate u.team (some uid)
            { kind := 2, cause := cause, access := 0, reason := 0, addr := tval, pc := pc, lane := none }
        else
          s.setUnit uid { u.landAll with
            tcause := BitVec.ofNat 8 cause
            tepc := if cause = 0x0F ∨ cause = 0x10 then next else pc
            tval := tval
            inHandler := true
            pc := (tm.desc.tvec &&& ~~~1#64).setWidth 57
            step := u.step + 1
            wait := .none
            synced := none }

/-- R29, R30: the return from a handler; no stale read spans it. -/
def Unit.returnFromTrap (u : Unit) (stall : Nat) : Unit :=
  { u.landAll with pc := u.tepc.setWidth 57, inHandler := false, step := u.step + 1 + stall, wait := .none }

/-- R115, R17, R378, R379: the unit parks on a translation fault and a record of kind 0x01 is posted, behind those of the context that wait for a slot. -/
def State.parkFault (s : State) (uid : Nat) (addr : W64) (access reason : Nat) (lane : Option Nat) : State :=
  let ctx := ((s.unit? uid).bind fun u => s.team? u.team).elim 0 fun t => t.ctx
  (s.postWaiting ctx).postParked uid (unposted + s.tick) addr (faultCode access reason lane)

/-- R379: a parked unit whose record met a full ring tries again. -/
def State.repost (s : State) (uid : Nat) : State := s.postWaiting (((s.unit? uid).bind fun u => s.team? u.team).elim 0 fun t => t.ctx)

/-- R15, R19: the unit goes on to the word `len` bytes on, `1 + stall` issue steps later. -/
def Unit.advance (u : Unit) (len stall tick : Nat) : Unit :=
  { u with pc := u.pc + BitVec.ofNat 57 len, step := u.step + 1 + stall, wait := .none, lastIssue := tick }

/-- The address `2 × sext(offset)` bytes past a word. -/
def Unit.offsetOf (u : Unit) (imm : W32) : W64 := u.pc.signExtend 64 + 2 * imm.signExtend 64

/-- R25: the dirty bits of a span of destination registers are set. -/
def setDirty (d : BitVec 128) (regs : List Nat) : BitVec 128 := regs.foldl (fun a r => a ||| (1#128 <<< r)) d

/-- R25, R151: the dirty bits of vector destinations; a fragment thread's write sets the parent's bit too. -/
def State.markDirty (s : State) (uid : Nat) (regs : List Nat) : State :=
  if regs.isEmpty then s
  else
    let s1 := s.modUnit uid fun u => { u with dirty := setDirty u.dirty regs }
    match (s.unit? uid).bind fun u => u.frag with
    | some f => s1.modUnit f.parent fun u => { u with dirty := setDirty u.dirty regs }
    | none => s1

/-- R141, R384: whether a unit may issue: it is live, its team runs and is not terminated, its context runs, or saves while the unit is inside an `lq.push`, the module runs, and it is neither parked on a fault that awaits a response nor in a wait that another step ends. -/
def State.able (s : State) (u : Unit) : Bool :=
  u.live && s.phase == .running &&
  (match s.team? u.team with
   | some t => t.life == .running && !t.terminated &&
     (match s.ctx? t.ctx with
      | some c => c.phase == .running || (c.phase == .saving && u.push.isSome && u.wait != .none)
      | none => false)
   | none => false) &&
  (match u.frag with
   | some f => f.launched && !f.joined && !f.exited
   | none => true) &&
  (match u.wait with
   | .parked id _ _ => decide (unposted ≤ id)
   | .farEnd .. => false
   | _ => true)

/-- The threads of a fragment, by number, that have neither exited nor passed its join. -/
def State.fragThreads (s : State) (f : FragInfo) : List (Nat × Unit) :=
  (List.range s.units.length).filterMap fun i =>
    match s.unit? i with
    | some x => match x.frag with
      | some g => if g.parent == f.parent && g.ctr == f.ctr && x.live && !g.joined && !g.exited then some (i, x) else none
      | none => none
    | none => none

/-- R150: the threads of a fragment that issue together with one of them: those that may issue and whose PCs coincide with its own, with the windows of their issue steps landed. -/
def State.together (s : State) (u : Unit) : List (Nat × Unit) :=
  match u.frag with
  | none => []
  | some f => ((s.fragThreads f).filter fun x => x.2.pc == u.pc && s.able x.2).map fun x => (x.1, x.2.landAt x.2.step)

/-- The frame of every word's meaning: the unit in focus, if it may issue, with the windows of its issue step landed (R20). -/
def State.withUnit (s : State) (k : Nat → Unit → Out) : Out :=
  match s.focus with
  | none => .fault .noUnit
  | some uid =>
    match s.unit? uid with
    | none => .fault .noUnit
    | some u => if s.able u then k uid (u.landAt u.step) else .next s

end Sys2Proof.Machine
end

