-- ==== Sys2Proof/Machine/Operands.lean ====
section
/-!
DEFINITION. Every operand form of a word (R33 to R43): where each source comes from, what it reads in each lane, which registers a word names, and the checks that stand before its effect (R48, R13, R21, R24, R139, R155).
-/

namespace Sys2Proof.Machine

/-- The fields a meaning reads: those of the A64 word that a C16 or B32 word stands for (R33, R34), with the word's own length, stall and parcels. -/
structure Form where
  len : Nat
  stall : Nat
  raw : W64
  w : A64
deriving DecidableEq, Repr

/-- An A64 word of a class and op. -/
def formA64 (cls : BitVec 5) (op : BitVec 6) (w : A64) : Form := ⟨8, w.stall.toNat, bitsA64 cls op w, w⟩

/-- An A64-I word. -/
def formAI (cls : BitVec 5) (op : BitVec 6) (w : AI) : Form := formA64 cls op w.toA64

/-- R33: a C16 word by the A64 word it stands for; `mov` takes its source from field b. -/
def formC16 (op : BitVec 4) (m : BitVec 7) (mov : Bool) (w : C16) : Form :=
  ⟨2, 2 * w.s.toNat, (bitsC16 op w).setWidth 64,
   { rc := m, pb := 0, rb := if mov then 0 else w.b.setWidth 7, pa := 0, ra := if mov then w.b.setWidth 7 else w.d.setWidth 7,
     rd := w.d.setWidth 7, guard := 7, stall := 0 }⟩

/-- R34: a B32 word by the A64 word it stands for: field b is a register or an immediate, rc is m. -/
def formB32 (major : BitVec 6) (m : BitVec 7) (imm : Bool) (w : B32) : Form :=
  ⟨4, w.stall.toNat, (bitsB32 major w).setWidth 64,
   { rc := m, pb := if imm then 2 else 0, rb := w.b, pa := 0, ra := w.a, rd := w.d, guard := 7, stall := w.stall }⟩

/-- R34: an accumulate form, where rd is also the third source. -/
def formB32Acc (major : BitVec 6) (w : B32) : Form :=
  ⟨4, w.stall.toNat, (bitsB32 major w).setWidth 64,
   { rc := w.d, pb := 0, rb := w.b, pa := 0, ra := w.a, rd := w.d, guard := 7, stall := w.stall }⟩

/-- Where an operand comes from: a span of vector registers under a pattern, one lane of a register, a register that is named and not read, a register read only once every earlier write is readable (R120), a block of uniform registers, an address base (R156), an immediate, a predicate. -/
inductive Src where
  | vec (r span : Nat) (pat : BitVec 8)
  | lane (r k : Nat)
  | named (r : Nat)
  | settled (r : Nat)
  | uni (r n : Nat)
  | base (r : Nat)
  | imm (x : BitVec 7)
  | pred (i : Nat)
deriving DecidableEq, Repr

/-- R42: the source a register field and its pattern name. -/
def srcOf (p : BitVec 8) (r : BitVec 7) (span : Nat) : Src :=
  if p = 1 then .uni r.toNat 1 else if p = 2 then .imm r else .vec r.toNat span p

/-- What the checks of a word need: its length, stall, parcels and guard, its sources after the guard in scan order (R24), its destinations, whether it may run only while converged, further uniform registers it names, whether a handler frees it of R155 (R124), and the role it needs (R139). -/
structure Shape where
  len : Nat
  stall : Nat
  raw : W64
  guard : BitVec 4
  srcs : List Src
  dsts : List (RegKind × Nat)
  pipe : Bool
  named : List Nat
  csr : Bool
  role : Option Nat
deriving DecidableEq, Repr

/-- The shape of an open word with sources and destinations and nothing else. -/
def Form.shape (f : Form) (srcs : List Src) (dsts : List (RegKind × Nat)) : Shape :=
  { len := f.len, stall := f.stall, raw := f.raw, guard := f.w.guard, srcs := srcs, dsts := dsts,
    pipe := false, named := [], csr := false, role := none }

/-- Table 2.7: the lane that lane `l` reads under a pattern in a group of width `W`. -/
def patLane (W : Nat) (pat : BitVec 8) (l : Nat) : Nat :=
  let kind := pat.toNat / 64
  let k := pat.toNat % 64
  if kind = 1 then (l + k) % W
  else if kind = 2 then k
  else if kind = 3 then (if 32 ≤ k then l ^^^ (2 ^ (k % 8) - 1) else l ^^^ 2 ^ (k % 8))
  else l

/-- Table 2.7, R167: a lane out of the group's width, a breach that is seen at issue. -/
def Src.illegal (W : Nat) : Src → Bool
  | .vec _ _ pat =>
    let kind := pat.toNat / 64
    let k := pat.toNat % 64
    if kind = 2 then decide (W ≤ k)
    else if kind = 3 then (if 32 ≤ k then decide (W < 2 ^ (k % 8)) else decide (W ≤ 2 ^ (k % 8)))
    else false
  | .lane _ k => decide (W ≤ k)
  | _ => false

/-- The registers a source reads. -/
def Src.regs : Src → List (RegKind × Nat)
  | .vec r span _ => spanRegs .v r span
  | .lane r _ => [(.v, r)]
  | .named r => [(.v, r)]
  | .settled r => [(.v, r)]
  | .uni r n => spanRegs .u r n
  | .base r => [(.u, r)]
  | .imm _ => []
  | .pred i => [(.p, i)]

/-- R155, R156: the uniform registers a source names whose reading a diverged group may not do. -/
def Src.uniforms : Src → List Nat
  | .uni r n => ((List.range n).map fun i => r + i).filter fun x => x != 0
  | _ => []

/-- R42, R43: register `i` of a source's span in a lane. A uniform source holds 64 bits, and zeros beyond them (log entry 105). -/
def State.srcWord (s : State) (u : Unit) (x : Src) (l i : Nat) : W32 :=
  match x with
  | .vec r _ pat => s.readV u (r + i) (patLane u.width pat l)
  | .lane r k => s.readV u r k
  | .named r => s.readV u r l
  | .settled r => s.readV u r l
  | .uni r _ => (u.uget r).extractLsb' (32 * i) 32
  | .base r => (u.uget r).extractLsb' (32 * i) 32
  | .imm v => (v.signExtend 64).extractLsb' (32 * i) 32
  | .pred j => if (u.pmask j).getLsbD l then 1 else 0

/-- R42: a 32-bit operand in a lane. -/
def State.arg32 (s : State) (u : Unit) (x : Src) (l : Nat) : W32 := s.srcWord u x l 0

/-- R42, R76: a 64-bit operand in a lane, the low word in the even register. -/
def State.arg64 (s : State) (u : Unit) (x : Src) (l : Nat) : W64 := s.srcWord u x l 1 ++ s.srcWord u x l 0

/-- A predicate operand in a lane. -/
def Unit.arg1 (u : Unit) (i l : Nat) : Bool := (u.pmask i).getLsbD l

/-- The least number of a list. -/
def least : List Nat → Option Nat
  | [] => none
  | x :: xs => match least xs with
    | none => some x
    | some y => some (min x y)

/-- R13: the lowest vector register at or above the budget over every field and span. -/
def Shape.overBudget (sh : Shape) (budget : Nat) : Option Nat :=
  least (((sh.srcs.flatMap Src.regs ++ sh.dsts).filter fun x => x.1 == .v && decide (budget ≤ x.2)).map fun x => x.2)

/-- R155: the uniform registers the word reads or writes that count. -/
def Shape.uniforms (sh : Shape) : List Nat :=
  sh.srcs.flatMap Src.uniforms ++ ((sh.dsts.filter fun x => x.1 == .u).map fun x => x.2) ++ sh.named

/-- R12: a register whose value no write changes. -/
def constantReg (x : RegKind × Nat) : Bool := x == (.p, 7) || x == (.u, 0)

/-- The predicate a guard reads. -/
def guardReg (g : BitVec 4) : RegKind × Nat := (.p, (g.extractLsb' 0 3).toNat)

/-- R21: whether the word waits for a register with a variable-latency write pending. -/
def Shape.held (sh : Shape) (u : Unit) : Bool :=
  let pend := u.pendingRegs
  (guardReg sh.guard :: (sh.srcs.flatMap Src.regs ++ sh.dsts)).any fun x => !constantReg x && pend.contains x

/-- R24: how many steps short a read of a register is of its last producer in program order, when that is not yet readable. Guards and masks have no part in it. -/
def Unit.short (u : Unit) (x : RegKind × Nat) : Option Nat :=
  if constantReg x then none
  else
    let es := u.win.filter fun e => e.kind == x.1 && e.idx == x.2 && !e.hidden
    es.getLast?.bind fun e => if u.step < e.due then some (e.due - u.step) else none

/-- The registers that a word reads at its issue step: not one that is read once every earlier write is readable (R120), nor one whose value the latch holds (R326). -/
def Src.reads : Src → List (RegKind × Nat)
  | .settled _ => []
  | .named _ => []
  | x => x.regs

/-- Table 1.3: the kind field of a register file. -/
def kindCode : RegKind → Nat
  | .v => 0
  | .p => 1
  | .u => 2
  | .fl => 3

/-- Table 1.3. -/
def staleTval (x : RegKind × Nat) (short : Nat) : W64 :=
  BitVec.ofNat 64 (short % 8 * 512 + kindCode x.1 * 128 + x.2 % 128)

/-- R24: the first stale source, scanned as guard, then the sources in their order. -/
def Shape.stale (sh : Shape) (u : Unit) : Option W64 :=
  (guardReg sh.guard :: sh.srcs.flatMap Src.reads).findSome? fun x => (u.short x).map (staleTval x)

/-- Whether a unit waits for others of its fragment. -/
def Unit.atMeeting (u : Unit) : Bool :=
  match u.wait with
  | .rendezvous => true
  | .lsync .. => true
  | _ => false

/-- R151: the first vector register a fragment thread must pull before it reads. One that waits for the others has read its own. -/
def Shape.pulls (sh : Shape) (u : Unit) : Option Nat :=
  match u.frag with
  | none => none
  | some f =>
    if u.atMeeting || (u.guardedLanes sh.guard).isEmpty then none
    else ((sh.srcs.flatMap Src.regs).find? fun x => x.1 == .v && !(f.cache.any fun c => c.1 == x.2)).map fun x => x.2

/-- What the checks say of a word. -/
inductive Gate where
  | go
  | trap (cause : Nat) (tval : W64)
  | hold
  | pull (r : Nat)
deriving DecidableEq, Repr

/-- R48: the checks before a word's own causes, in their order. A diverged word that names no uniform destination, `sub.flush` among them, traps with `tval` 0 (log entry 126). -/
def State.gate (s : State) (u : Unit) (sh : Shape) : Gate :=
  if sh.srcs.any (Src.illegal u.width) then .trap 0x01 sh.raw
  else if (match sh.role with
    | some r => r != u.role
    | none => false) then .trap 0x0B (BitVec.ofNat 64 u.role)
  else match sh.overBudget u.budget with
  | some r => .trap 0x05 (BitVec.ofNat 64 r)
  | none =>
    if !u.converged && !(sh.csr && u.inHandler) && (sh.pipe || !sh.uniforms.isEmpty) then
      .trap 0x07 (BitVec.ofNat 64 ((least sh.uniforms).getD 0))
    else if sh.held u then .hold
    else match sh.pulls u with
    | some r => .pull r
    | none =>
      match if (match s.team? u.team with
          | some t => t.chk
          | none => false) then sh.stale u else none with
      | some v => .trap 0x06 v
      | none => .go

/-- R256, R257: whether an abort of the unit's region is decided and may be taken; an `lq.push` that has claimed its slot is finished first (R367). -/
def State.abortPending (s : State) (u : Unit) : Bool :=
  match u.region.bind fun r => s.regions.find? fun x => x.id == r with
  | some r => r.pending.isSome && !u.claimed
  | none => false

/-- A unit that stays at its word; one that is to wait takes a decided abort instead (R256). -/
def State.waits (s : State) (uid : Nat) (u : Unit) (w : Wait) : State :=
  if s.abortPending u then (s.setUnit uid { u with lastIssue := s.tick }).takeAbort uid
  else s.setUnit uid { u with wait := w }

/-- R27: a trap is taken once every earlier instruction of the unit has completed. -/
def State.raise (s : State) (uid : Nat) (u : Unit) (len cause : Nat) (tval : W64) : State :=
  if u.drained then (s.setUnit uid { u with lastIssue := s.tick }).takeTrap uid cause tval ((u.pc + BitVec.ofNat 57 len).signExtend 64)
  else s.waits uid u .drain

/-- R151: the registers a word reads, of those that are there, come to the front of a fragment's cache. -/
def Unit.touchAll (u : Unit) (sh : Shape) : Unit :=
  let held (a : Unit) (r : Nat) : Bool := a.frag.elim false fun f => f.cache.any fun c => c.1 == r
  (sh.srcs.flatMap Src.regs).foldl (fun (a : Unit) (x : RegKind × Nat) => if x.1 == .v && held a x.2 then a.touch x.2 false else a) u

/-- The frame of every instruction word: the unit in focus passes the checks, or waits, or traps. The shape of a word may depend on the unit (R326, R363). -/
def State.issueBy (s : State) (shape : Unit → Shape) (k : Nat → Unit → State) : Out :=
  s.withUnit fun uid u =>
    match s.gate u (shape u) with
    | .go => .next (k uid (u.touchAll (shape u)))
    | .trap c v => .next (s.raise uid u (shape u).len c v)
    | .hold => .next (s.waits uid u .scoreboard)
    | .pull r => .next (s.waits uid u (.pull r))

def State.issue (s : State) (sh : Shape) (k : Nat → Unit → State) : Out := s.issueBy (fun _ => sh) k

/-- R256: the frame of a global access, a wait and `far.end`, which take a decided abort first. -/
def State.issueGlobal (s : State) (sh : Shape) (k : Nat → Unit → State) : Out :=
  s.issue sh fun uid u => if s.abortPending u then (s.setUnit uid { u with lastIssue := s.tick }).takeAbort uid else k uid u

/-- The vector registers among destinations. -/
def vecDsts (ds : List (RegKind × Nat)) : List Nat := (ds.filter fun x => x.1 == .v).map fun x => x.2

/-- R15, R19, R25: a word done: its destinations' dirty bits are set and the unit goes on. -/
def State.retire (s : State) (uid : Nat) (u : Unit) (sh : Shape) : State :=
  (s.setUnit uid (u.advance sh.len sh.stall s.tick)).markDirty uid (vecDsts sh.dsts)

/-- What one lane writes: a value for each destination, and the flags it raises. -/
abbrev LaneRes := List W64 × Flags

/-- The writes of a word from its lanes' values. -/
def laneWrites (ds : List (RegKind × Nat)) (rows : List (Nat × LaneRes)) : List RegWrite :=
  (List.range ds.length).map fun i =>
    let d := nth (RegKind.v, 0) ds i
    { kind := d.1, idx := d.2, vals := rows.map fun r => (r.1, nth 0 r.2.1 i) }

def laneFlags (rows : List (Nat × LaneRes)) : Flags := rows.foldl (fun (m : Flags) (r : Nat × LaneRes) => m ||| r.2.2) 0

/-- R20, R23: writes of fixed latency enter their windows, the flags with them. -/
def Unit.writeFixed (u : Unit) (lat : Nat) (ws : List RegWrite) (fl : Flags) : Unit :=
  { u with
    win := u.win ++ ws.map (fun w => { kind := w.kind, idx := w.idx, vals := w.vals, due := u.step + lat, hidden := false : PendWrite }) ++
      (if fl = 0 then [] else [{ kind := .fl, idx := 0, vals := [(0, fl.setWidth 64)], due := u.step + lat, hidden := false }]) }

/-- R21, R23: writes of variable latency are pending until a VARIABLE_LATENCY_RESULT. -/
def Unit.writeVar (u : Unit) (ws : List RegWrite) (fl : Flags) : Unit := { u with vars := u.vars ++ [⟨ws, fl, u.step⟩] }

/-- R77: the lanes of a lane operation, each with its result. -/
def Unit.rows (u : Unit) (g : BitVec 4) (f : Nat → LaneRes) : List (Nat × LaneRes) := (u.guardedLanes g).map fun l => (l, f l)

/-- R77: a lane operation of fixed latency. -/
def fixedOp (sh : Shape) (lat : Nat) (f : State → Unit → Nat → LaneRes) (s : State) : Out :=
  s.issue sh fun uid u =>
    let rows := u.rows sh.guard (f s u)
    s.retire uid (u.writeFixed lat (laneWrites sh.dsts rows) (laneFlags rows)) sh

/-- R77: a lane operation of variable latency. -/
def varOp (sh : Shape) (f : State → Unit → Nat → LaneRes) (s : State) : Out :=
  s.issue sh fun uid u =>
    let rows := u.rows sh.guard (f s u)
    s.retire uid (u.writeVar (laneWrites sh.dsts rows) (laneFlags rows)) sh

end Sys2Proof.Machine
end

