-- ==== Sys2Proof/Machine/Signals.lean ====
section
/-!
DEFINITION. Path counters as operations raise them (R227), and the C1 signals: arrivals, stage toggles, updates and counter advances, resolved within the sender's context (R158 to R160, R196, R261 to R264, R392).
-/

namespace Sys2Proof.Machine

/-- Table 8.5: a barrier address in its fields. -/
structure BarAddr where
  bits : W32
  remote : Bool
  cluster : Nat
  sram : Nat
deriving DecidableEq, Repr

/-- Table 8.5, for an issuing cluster. -/
def barAddr (own : Nat) (x : W32) : BarAddr :=
  { bits := x, remote := x.getLsbD 27, cluster := if x.getLsbD 27 then (x.extractLsb' 20 7).toNat else own, sram := (x.extractLsb' 0 20).toNat }

/-- R227: an operation raises its path counter at issue. -/
def Unit.raiseOp (u : Unit) (p : Path) (seq : Nat) : Unit := { u with ops := u.ops ++ [{ seq := seq, path := p, returned := false }] }

/-- An operation that is issued and returns at once; it retires behind the earlier ones (R228). -/
def Unit.instantOp (u : Unit) (p : Path) (seq : Nat) : Unit := (u.raiseOp p seq).returnOp seq

/-- R227: whether one more operation would raise a counter above 1,023. -/
def Unit.pathFull (u : Unit) (p : Path) : Bool := decide (1023 ≤ u.count p)

/-- The next operation number. -/
def State.takeSeq (s : State) : State := { s with seq := s.seq + 1 }

/-- R158, R184: one arrival at a barrier word; a count of 0 makes none. -/
def arriveWord (count : Nat) (w : W64) : W64 :=
  let arrived := w.toNat % 2 ^ 32 + count
  let expected := w.toNat / 2 ^ 32 % 2 ^ 31
  let phase := w.toNat / 2 ^ 63
  if count = 0 then w
  else if expected ≤ arrived then BitVec.ofNat 64 ((1 - phase) * 2 ^ 63 + expected * 2 ^ 32)
  else BitVec.ofNat 64 (phase * 2 ^ 63 + expected * 2 ^ 32 + arrived)

/-- R162: a stage toggle changes bit 0 alone. -/
def toggleWord (w : W64) : W64 := w ^^^ 1

/-- Table 21.7: the signal codes of `target-gone`. -/
def signalCode : SignalKind → Nat
  | .arrive _ => 0
  | .toggle => 1
  | .update .. => 2
  | .advance .. => 4

/-- R160 case 3: the sender's context hears that the target is gone, at the address as it was given. -/
def State.dropped (s : State) (ctx : Nat) (team unit : Option Nat) (target : W64) (code : Nat) : State :=
  s.postGone ctx 4 target (BitVec.ofNat 64 code) team unit

/-- Whether a signal is an update of a team. -/
def Signal.isUpdate (g : Signal) (team : Nat) : Bool :=
  g.team == team && (match g.kind with
    | .update .. => true
    | _ => false)

/-- R263: whether an update of a team is still on its way; an earlier one than a signal in flight, which then waits for it. -/
def State.updatesOut (s : State) (team : Nat) : Bool := s.signals.any fun g => g.isUpdate team

def State.updatesAhead (s : State) (k : Nat) (team : Nat) : Bool := (s.signals.take k).any fun g => g.isUpdate team

/-- The cluster that a signal comes from. -/
def State.sourceCluster (s : State) (g : Signal) : Nat := (s.team? g.team).elim g.cluster fun t => clusterOf t.core

/-- R181: whether an address lies in the issuing team's own scratchpad allocation. -/
def State.ownWord (s : State) (team : Nat) (a : BarAddr) : Bool :=
  !a.remote && (match s.bankAt a.cluster a.sram with
    | some (t, .sp) => t == team
    | _ => false)

/-- R184, R187, R220: whether an earlier C1 message from the same cluster to the same one is still on its way. An advance, an update within the cluster and the toggle of a team's own word are none. -/
def State.messageAhead (s : State) (k : Nat) (g : Signal) : Bool :=
  let local' (h : Signal) : Bool := match h.kind with
    | .advance .. => true
    | .update .. => s.sourceCluster h == h.cluster
    | .arrive _ => false
    | .toggle => s.ownWord h.team (barAddr h.cluster (h.target.setWidth 32))
  !local' g && (s.signals.take k).any fun h => !local' h && s.sourceCluster h == s.sourceCluster g && h.cluster == g.cluster

/-- R160, R261, R392: an arrival or toggle in flight reaches its target, or is dropped. One that the team's engine makes at a local word is the team's own write. -/
def landWordSignal (k : Nat) (f : W64 → W64) (g : Signal) (s : State) : Out :=
  let near := !(g.target.getLsbD 27)
  if s.updatesAhead k g.team || s.messageAhead k g then .next s
  else
    let s0 := { s with signals := dropNth s.signals k }
    let s1 := match s0.changeWord g.ctx (if near then some g.team else none) g.cluster g.sram f with
      | some s1 => s1
      | none => s0.dropped g.ctx (some g.team) (g.src.map Prod.fst) g.target (signalCode g.kind)
    .next (s1.sourceDone g.src)

/-- R261, R263, R264: an update reaches its subscriber: each byte is written, or applied to a saved image; bytes that have nowhere to go are dropped, and the publisher's context hears of it once. -/
def landUpdate (k : Nat) (s : State) : Out :=
  match nth? s.signals k with
  | none => .next s
  | some g =>
    match g.kind with
    | .update core sid bs =>
      let earlier := (s.signals.take k).any fun h => h.team == g.team && (match h.kind with
        | .update c i _ => c == core && i == sid
        | _ => false)
      if earlier || s.messageAhead k g then .next s
      else
        let s0 := { s with signals := dropNth s.signals k }
        let s1 := match s0.subs.find? fun x => x.core == core && x.sid == sid && !x.lost with
          | none => s0
          | some sub =>
            let ctx := (s0.team? sub.team).elim g.ctx fun t => t.ctx
            let put (a : State × Bool) (b : Nat × Byte) : State × Bool :=
              match a.1.resolveFor sub.team g.cluster b.1 with
              | .live _ => (a.1.sramPut g.cluster b.1 [b.2], a.2)
              | .image i => (a.1.putSaved ctx i b.1 [b.2], a.2)
              | .gone => (a.1, true)
            let r := bs.foldl put (s0, false)
            if r.2 then r.1.dropped g.ctx (some g.team) none g.target 2 else r.1
        .next (s1.sourceDone g.src)
    | _ => .next s

/-- R231, R238: the floor that an advance of a scratchpad counter carries is kept beside the word, or beside its image. -/
def State.stampWord (s : State) (ctx cluster addr floor : Nat) : State :=
  match s.resolve ctx cluster addr 8 with
  | .live _ =>
    let k := sramKey cluster addr / 8
    { s with spStamp := sset s.spStamp k (BitVec.ofNat 64 (max (sget s.spStamp k).toNat floor)) }
  | .image i =>
    { s with saved := modNth (fun x => { x with stamps := sset x.stamps (addr / 8) (BitVec.ofNat 64 (max (sget x.stamps (addr / 8)).toNat floor)) }) s.saved i }
  | .gone => s

/-- R302, R162, R262: the toggle of a stage word that follows a batch; one outside the team's allocation flushes its buffers first. -/
def State.toggleAfter (s : State) (g : Signal) (stage : Option W32) (cluster : Nat) : State :=
  match stage with
  | none => s
  | some x =>
    let a := barAddr cluster x
    let s0 := if s.ownWord g.team a then s else s.flushPubs g.team
    { s0 with signals := s0.signals ++ [{ g with kind := .toggle, cluster := a.cluster, sram := a.sram, target := x.setWidth 64, globalVa := none }] }

/-- R238: whether an earlier advance of the same counter by the same engine is still on its way. -/
def State.advanceAhead (s : State) (k : Nat) (g : Signal) : Bool :=
  let core (h : Signal) : Option Nat := (s.team? h.team).map fun t => t.core
  let place (h : Signal) : Nat × Nat × Nat := match h.globalVa with
    | none => (0, h.cluster, h.sram)
    | some va =>
      let asid := (s.ctx? h.ctx).elim 0 fun c => c.entry.asid
      match s.locate asid (va57 (BitVec.ofNat 64 va)) true with
      | .ok x => (1, x.asid, x.va)
      | .error _ => (1, asid, va)
  (s.signals.take k).any fun h => h.isAdvance h.team && core h == core g && place h == place g

/-- R238, R240, R259, R310, R349: an advance performed at a global counter: held beside a region's words (`none`), sent to another device, or why it fails. -/
def State.advanceGlobal (s : State) (asid : Nat) (a inc : W64) (floor : Nat) (poison : Bool) (src : Option (Nat × Nat)) : Except Nat (Option State) :=
  if !canonical a then .error 8
  else match s.locate asid (va57 a) true with
  | .error r => .error r
  | .ok x =>
    match x.attr.device with
    | some dev =>
      if s.homeRefuses x then .error 5 else if s.remotePoison 0 then .error 7 else if s.sealedAt asid a x then .error 9
      else .ok (some (s.fresh.sendAdvance dev x.pa inc poison floor src))
    | none =>
      if s.inRegionSet x.asid x.va 8 then .ok none
      else match s.sysRead asid a 8 with
      | .error r => .error r
      | .ok (s1, d, _) =>
        match s1.sysWrite asid a 8 ((timelineWord inc poison (d.setWidth 64)).setWidth 128) floor with
        | .error r => .error r
        | .ok (s2, _) => .ok (some s2)

/-- R238, R302: whether an advance that has been sent to another device has not left yet. -/
def State.advanceOut (s : State) (g : Signal) : Bool := s.outbox.any fun o => (o.lane.map fun x => (x.1, x.2.1)) == g.src

/-- R238, R302, R310, R356: an advance in flight reaches its counter, in scratchpad or in global memory, and then its stage word toggles; one for a counter on another device has left when that follows. A global counter that cannot be reached ends the team. -/
def landAdvance (k : Nat) (s : State) : Out :=
  match nth? s.signals k with
  | none => .next s
  | some g =>
    match g.kind with
    | .advance inc floor pc stage =>
      let home := (s.team? g.team).elim 0 fun t => clusterOf t.core
      let s0 := { s with signals := dropNth s.signals k }
      let after (a : State) : Out := .next ((a.toggleAfter g stage home).sourceDone g.src)
      if s.advanceAhead k g then .next s
      else match g.globalVa with
      | none =>
        after (match s0.changeWord g.ctx none g.cluster g.sram (advanceWord inc) with
          | some s1 => s1.stampWord g.ctx g.cluster g.sram floor
          | none => s0.dropped g.ctx (some g.team) (g.src.map Prod.fst) g.target 4)
      | some va =>
        let a := BitVec.ofNat 64 va
        if g.sent then (if s.advanceOut g then .next s else after s0)
        else match s0.advanceGlobal ((s0.ctx? g.ctx).elim 0 fun c => c.entry.asid) a inc floor false g.src with
        | .ok none => .next s
        | .ok (some s1) =>
          if s1.advanceOut g then .next { s1 with signals := modNth (fun x => { x with sent := true }) s.signals k } else after s1
        | .error r => .next (s0.terminate g.team (g.src.map Prod.fst)
            { kind := 4, cause := 0, access := 6, reason := r, addr := a, pc := pc, lane := none })
    | _ => .next s

/-- R262: the buffers of an entry that have been open for 64 ns flush. -/
def bufferTimeout (k : Nat) (s : State) : Out :=
  match nth? s.pubs k with
  | none => .next s
  | some e =>
    if e.bufs.any fun b => decide (b.opened + 64 ≤ s.now) then
      .next { s with
        pubs := modNth (fun (x : PubEntry) => { x with bufs := [] }) s.pubs k
        signals := s.signals ++ s.updatesOf e e.bufs }
    else .next s

/-- R160. C1 barrier arrival applied at its target bank or saved image, or dropped. -/
def execRemoteArrival (k : Nat) (s : State) : Out :=
  match nth? s.signals k with
  | some g => match g.kind with
    | .arrive count => landWordSignal k (arriveWord count) g s
    | _ => .next s
  | none => .next s

/-- R162. C1 stage-word toggle applied at its target. -/
def execStageToggle (k : Nat) (s : State) : Out :=
  match nth? s.signals k with
  | some g => match g.kind with
    | .toggle => landWordSignal k toggleWord g s
    | _ => .next s
  | none => .next s

/-- R238. Atomic add to a timeline counter at its home. -/
def execCounterAdvance (k : Nat) (s : State) : Out := landAdvance k s

/-- R261. C1 update written to the subscriber's range. -/
def execSubscriptionUpdate (k : Nat) (s : State) : Out := landUpdate k s

/-- R262. Write-combining buffer flushes 64 ns after its first write. -/
def execSubBufferTimeout (k : Nat) (s : State) : Out := bufferTimeout k s

/-- R392. A signal applied to a saved team's image. -/
def execImageSignalApply (k : Nat) (s : State) : Out :=
  match nth? s.signals k with
  | some g =>
    match s.resolve g.ctx g.cluster g.sram 8 with
    | .image _ => match g.kind with
      | .arrive count => landWordSignal k (arriveWord count) g s
      | .toggle => landWordSignal k toggleWord g s
      | .advance .. => if g.globalVa.isNone then landAdvance k s else .next s
      | .update .. => landUpdate k s
    | _ => .next s
  | none => .next s

end Sys2Proof.Machine
end

