-- ==== Sys2Proof/Machine/Barriers.lean ====
section
/-!
DEFINITION. Barriers and stage words, class 13 ops 0x02 to 0x07 (R157 to R162, R181 to R187).
-/

namespace Sys2Proof.Machine

/-- R182: the checks of a barrier or stage word over its lanes, in their order: the cause and the address it names. -/
def State.barFault (s : State) (team cluster : Nat) (own write : Bool) (as : List BarAddr) : Option (Nat × W64) :=
  match as.find? fun a => a.sram % 8 != 0 with
  | some a => some (0x04, a.bits.setWidth 64)
  | none =>
    match if own then as.find? fun a => !s.ownWord team a else none with
    | some a => some (0x15, a.bits.setWidth 64)
    | none =>
      match if write then as.find? fun a => a.cluster == cluster && s.inHeader cluster a.sram 8 else none with
      | some a => some (0x11, a.bits.setWidth 64)
      | none => none

/-- The shape of a barrier or stage word. -/
def barShape (op : BitVec 6) (w : A64) (two : Bool) : Shape :=
  let a := srcOf w.pa w.ra 1
  (formA64 13 op w).shape (if two then [a, srcOf w.pb w.rb 1] else [a]) []

/-- The frame of a lane-acting barrier word: it is counted on `sp` and queued behind the group's scratchpad accesses (R159, R230). -/
def barLaneOp (op : BitVec 6) (w : A64) (own : Bool) (kind : SpKind) (data : W32 → W64) (s : State) : Out :=
  let sh := barShape op w true
  let xa := srcOf w.pa w.ra 1
  let xb := srcOf w.pb w.rb 1
  s.issue sh fun uid u =>
    let cl := s.clusterOfUnit u
    let ls := (u.guardedLanes sh.guard).map fun l => (l, barAddr cl (s.arg32 u xa l), data (s.arg32 u xb l))
    match s.barFault u.team cl own true (ls.map fun x => x.2.1) with
    | some (c, v) => s.raise uid u sh.len c v
    | none =>
      if u.pathFull .sp then s.waits uid u .counter
      else
        let lanes := ls.map fun x =>
          { lane := x.1, addr := x.2.1.sram, data := x.2.2.setWidth 128
            data2 := x.2.1.bits.setWidth 64, at_ := 0, result := 0, ok := true : SpLane }
        let acc : SpAcc := { seq := s.seq, joint := s.seq, kind := kind, size := 8, cluster := cl, dest := 0, span := 0, okPred := none, lanes := lanes }
        let u1 := { u.raiseOp .sp s.seq with spq := u.spq ++ [acc] }
        (s.retire uid u1 sh).takeSeq

/-- R183. Write a barrier word with phase, expected and zero arrived. -/
def execBarInit (w : A64) (s : State) : Out :=
  barLaneOp 2 w true .barInit (fun e => BitVec.ofNat 64 ((if w.rc.getLsbD 0 then 2 ^ 63 else 0) + e.toNat % 2 ^ 31 * 2 ^ 32)) s

/-- R184. Arrive at a barrier with a count per participant. -/
def execBarArr (w : A64) (s : State) : Out :=
  barLaneOp 3 w false .arrive (fun c => BitVec.ofNat 64 (c.toNat % 2 ^ 31)) s

/-- The frame of a word marked always: it takes its address from the lowest-numbered active lane, and acts once every earlier scratchpad access of the unit is performed. -/
def barWordOp (sh : Shape) (x : Src) (own write : Bool) (k : Nat → Unit → Nat → BarAddr → State) (s : State) : Out :=
  s.issueGlobal sh fun uid u =>
    let l := (u.activeLanes.head?).getD 0
    let cl := s.clusterOfUnit u
    let a := barAddr cl (s.arg32 u x l)
    match s.barFault u.team cl own write [a] with
    | some (c, v) => s.raise uid u sh.len c v
    | none =>
      if u.pathFull .sp then s.waits uid u .counter
      else if !u.spq.isEmpty || s.groupSpAhead u then s.waits uid u .scoreboard
      else k uid u l a

/-- The phase a wait awaits: m `[0]`, or bit 0 of rb. -/
def State.awaited (s : State) (u : Unit) (w : A64) (l : Nat) : Bool :=
  if w.rc.getLsbD 1 then w.rc.getLsbD 0 else (s.arg32 u (srcOf w.pb w.rb 1) l).getLsbD 0

/-- R185, R187: a wait on one bit of a word: it goes on when the bit has the awaited value, and stays parked otherwise. -/
def phaseWait (op : BitVec 6) (w : A64) (bit : Nat) (wait : Nat → Wait) (s : State) : Out :=
  let sh := barShape op w (!w.rc.getLsbD 1)
  barWordOp sh (srcOf w.pa w.ra 1) true false (fun uid u l a =>
    let word := BitVec.ofNat 64 (s.sramBytes a.cluster a.sram 8)
    if word.getLsbD bit = s.awaited u w l then (s.retire uid (u.instantOp .sp s.seq) sh).takeSeq
    else s.waits uid u (wait a.sram)) s

/-- R185. Park the group until the barrier phase equals the awaited phase. -/
def execBarWait (w : A64) (s : State) : Out := phaseWait 4 w 63 .barrier s

/-- R186. Arrive with the count of active threads, then park until the phase differs from the one before. -/
def execBarSync (w : A64) (s : State) : Out :=
  let sh := barShape 5 w false
  barWordOp sh (srcOf w.pa w.ra 1) true true (fun uid u _ a =>
    let word := BitVec.ofNat 64 (s.sramBytes a.cluster a.sram 8)
    let done (t : State) (u' : Unit) : State := (t.retire uid ({ u' with synced := none }.instantOp .sp s.seq) sh).takeSeq
    match u.synced with
    | some (sram, phase) =>
      if (BitVec.ofNat 64 (s.sramBytes a.cluster sram 8)).getLsbD 63 != phase then done s u else s.waits uid u (.barrier sram)
    | none =>
      let after := arriveWord (popLow u.active 64) word
      let s1 := s.sramWrite u.team a.cluster a.sram (bytesOf 8 after.toNat)
      if after.getLsbD 63 != word.getLsbD 63 then done s1 u
      else s1.waits uid { u with synced := some (a.sram, word.getLsbD 63) } (.barrier a.sram)) s

/-- R187. Wait until a stage word's phase equals the awaited value. -/
def execStgAcq (w : A64) (s : State) : Out := phaseWait 6 w 0 .stage s

/-- R162: whether an operation of a path that its group issued before a fragment left is not yet retired. -/
def State.groupOpsAhead (s : State) (u : Unit) (p : Path) : Bool :=
  match u.frag with
  | none => false
  | some f => (s.unit? f.parent).elim false fun x => x.ops.any fun o => o.path == p && decide (o.seq < f.since)

/-- R187, R160, R262, R263. Toggle a stage word after the `sp` counter drains; a word outside the team's allocation is toggled by a C1 message, behind the team's buffers and updates. -/
def execStgRel (w : A64) (s : State) : Out :=
  let sh := barShape 7 w false
  barWordOp sh (srcOf w.pa w.ra 1) false true (fun uid u _ a =>
    if u.count .sp ≠ 0 ∨ s.groupOpsAhead u .sp then s.waits uid u .counter
    else
      let ctx := match s.team? u.team with
        | some t => t.ctx
        | none => 0
      let s0 := if s.ownWord u.team a then s else s.flushPubs u.team
      if !s.ownWord u.team a then
        let g : Signal := { ctx := ctx, team := u.team, src := some (uid, s.seq), kind := .toggle, cluster := a.cluster, sram := a.sram, target := a.bits.setWidth 64, globalVa := none }
        ({ s0 with signals := s0.signals ++ [g] }.retire uid (u.raiseOp .sp s.seq) sh).takeSeq
      else
        let s1 := (s0.changeWord ctx (some u.team) a.cluster a.sram toggleWord).getD (s0.dropped ctx (some u.team) (some uid) (a.bits.setWidth 64) 1)
        (s1.retire uid (u.instantOp .sp s.seq) sh).takeSeq) s

end Sys2Proof.Machine
end

