-- ==== Sys2Proof/Machine/Flags.lean ====
section
/-!
DEFINITION. Flag and rounding computations (R23, R44, R59, R93): which mode a rounding code selects, what a rounded result writes, and the flags of packed pairs.
-/

namespace Sys2Proof.Machine

/-- Table 1.4: the mode that `frm` holds. -/
def rmOfNat (n : Nat) : Rm :=
  match n with
  | 0 => .rn
  | 1 => .rz
  | 2 => .ru
  | 3 => .rd
  | _ => .ra

/-- Table 2.8: the mode of a rounding code; code 7 takes the team's `frm` at issue. -/
def State.rmAt (s : State) (u : Unit) (code : Nat) : Rm :=
  if code = 7 then
    (match s.team? u.team with
     | some t => rmOfNat t.frm
     | none => .rn)
  else rmOfNat code

/-- A rounded result as what a lane writes to one register or a pair, low word first. -/
def oneReg (r : Rounded) : LaneRes := ([BitVec.ofNat 64 r.bits], r.flags)

def twoRegs (r : Rounded) : LaneRes := ([BitVec.ofNat 64 (r.bits % 2 ^ 32), BitVec.ofNat 64 (r.bits / 2 ^ 32)], r.flags)

/-- R52: two packed elements, their flags together. -/
def packPair (lo hi : Rounded) : LaneRes :=
  ([BitVec.ofNat 64 (lo.bits % 65536 + 65536 * (hi.bits % 65536))], lo.flags ||| hi.flags)

/-- R52: an operation on the two 16-bit elements of three packed words. -/
def onPairs (f : Nat → Nat → Nat → Rounded) (a b c : W32) : LaneRes :=
  packPair (f (a.toNat % 65536) (b.toNat % 65536) (c.toNat % 65536)) (f (a.toNat / 65536) (b.toNat / 65536) (c.toNat / 65536))

/-- A value of 64 bits as what a lane writes to a pair. -/
def pairVal (x : W64) : List W64 := [(x.extractLsb' 0 32).setWidth 64, (x.extractLsb' 32 32).setWidth 64]

/-- A predicate value. -/
def boolVal (b : Bool) : W64 := if b then 1 else 0

end Sys2Proof.Machine
end

