-- ==== Sys2Proof/Machine/Integer.lean ====
section
/-!
DEFINITION. Integer arithmetic, classes 0 and 1 and their C16 and B32 forms (R79 to R83).
-/

namespace Sys2Proof.Machine

/-- Table 4.2: a 2R operation on 32-bit values. -/
def intOp2 (f : Form) (op : W32 → W32 → W32) (s : State) : Out :=
  let a := srcOf f.w.pa f.w.ra 1
  let b := srcOf f.w.pb f.w.rb 1
  fixedOp (f.shape [a, b] [(.v, f.w.rd.toNat)]) 3
    (fun s u l => ([(op (s.arg32 u a l) (s.arg32 u b l)).setWidth 64], 0)) s

/-- A 1R operation on 32-bit values. -/
def intOp1 (f : Form) (op : W32 → W32) (s : State) : Out :=
  let a := srcOf f.w.pa f.w.ra 1
  fixedOp (f.shape [a] [(.v, f.w.rd.toNat)]) 3 (fun s u l => ([(op (s.arg32 u a l)).setWidth 64], 0)) s

/-- A 3R operation on 32-bit values; rc takes the identity pattern (R42). -/
def intOp3 (f : Form) (op : W32 → W32 → W32 → W32) (s : State) : Out :=
  let a := srcOf f.w.pa f.w.ra 1
  let b := srcOf f.w.pb f.w.rb 1
  let c := Src.vec f.w.rc.toNat 1 0
  fixedOp (f.shape [a, b, c] [(.v, f.w.rd.toNat)]) 3
    (fun s u l => ([(op (s.arg32 u a l) (s.arg32 u b l) (s.arg32 u c l)).setWidth 64], 0)) s

/-- A 2R operation on register pairs. -/
def wideOp2 (f : Form) (op : W64 → W64 → W64) (s : State) : Out :=
  let a := srcOf f.w.pa f.w.ra 2
  let b := srcOf f.w.pb f.w.rb 2
  fixedOp (f.shape [a, b] (spanRegs .v f.w.rd.toNat 2)) 3
    (fun s u l => (pairVal (op (s.arg64 u a l) (s.arg64 u b l)), 0)) s

/-- R82: a 2R operation of variable latency. -/
def divOp (f : Form) (op : W32 → W32 → W32) (s : State) : Out :=
  let a := srcOf f.w.pa f.w.ra 1
  let b := srcOf f.w.pb f.w.rb 1
  varOp (f.shape [a, b] [(.v, f.w.rd.toNat)])
    (fun s u l => ([(op (s.arg32 u a l) (s.arg32 u b l)).setWidth 64], 0)) s

/-- R80: the carry predicates stand in m `[2:0]` and m `[5:3]`. -/
def carryOp (f : Form) (op : W32 → W32 → Bool → W32 × Bool) (s : State) : Out :=
  let a := srcOf f.w.pa f.w.ra 1
  let b := srcOf f.w.pb f.w.rb 1
  let ci := f.w.rc.toNat % 8
  let co := f.w.rc.toNat / 8 % 8
  fixedOp (f.shape [a, b, .pred ci] [(.v, f.w.rd.toNat), (.p, co)]) 3
    (fun s u l =>
      let r := op (s.arg32 u a l) (s.arg32 u b l) (u.arg1 ci l)
      ([r.1.setWidth 64, boolVal r.2], 0)) s

/-- R80: the 33-bit sum, and whether the exact difference is negative. -/
def addCarry (a b : W32) (c : Bool) : W32 × Bool :=
  let t : BitVec 33 := a.setWidth 33 + b.setWidth 33 + (if c then 1 else 0)
  (t.setWidth 32, t.msb)

def subBorrow (a b : W32) (c : Bool) : W32 × Bool :=
  (a - b - (if c then 1 else 0), decide (a.toNat < b.toNat + (if c then 1 else 0)))

/-- R79. A64 32-bit wrapping add. -/
def execAdd (w : A64) (s : State) : Out := intOp2 (formA64 0 0 w) (fun a b => a + b) s

/-- R79. A64 32-bit wrapping subtract. -/
def execSub (w : A64) (s : State) : Out := intOp2 (formA64 0 1 w) (fun a b => a - b) s

/-- R80. Add with carry-in and carry-out predicates. -/
def execAddc (w : A64) (s : State) : Out := carryOp (formA64 0 2 w) addCarry s

/-- R80. Subtract with borrow-in and borrow-out predicates. -/
def execSubb (w : A64) (s : State) : Out := carryOp (formA64 0 3 w) subBorrow s

/-- R79. Saturating signed add. -/
def execAddSatS32 (w : A64) (s : State) : Out := intOp2 (formA64 0 4 w) (addSat true) s

/-- R79. Saturating unsigned add. -/
def execAddSatN32 (w : A64) (s : State) : Out := intOp2 (formA64 0 5 w) (addSat false) s

/-- R79. Saturating signed subtract. -/
def execSubSatS32 (w : A64) (s : State) : Out := intOp2 (formA64 0 6 w) (subSat true) s

/-- R79. Saturating unsigned subtract. -/
def execSubSatN32 (w : A64) (s : State) : Out := intOp2 (formA64 0 7 w) (subSat false) s

/-- R79. Signed 32-bit minimum. -/
def execMinS32 (w : A64) (s : State) : Out := intOp2 (formA64 0 8 w) (minmaxInt true false) s

/-- R79. Unsigned 32-bit minimum. -/
def execMinN32 (w : A64) (s : State) : Out := intOp2 (formA64 0 9 w) (minmaxInt false false) s

/-- R79. Signed 32-bit maximum. -/
def execMaxS32 (w : A64) (s : State) : Out := intOp2 (formA64 0 10 w) (minmaxInt true true) s

/-- R79. Unsigned 32-bit maximum. -/
def execMaxN32 (w : A64) (s : State) : Out := intOp2 (formA64 0 11 w) (minmaxInt false true) s

/-- R79. Absolute value modulo 2^32. -/
def execAbsS32 (w : A64) (s : State) : Out := intOp1 (formA64 0 12 w) absS s

/-- R79. Negation modulo 2^32. -/
def execNegS32 (w : A64) (s : State) : Out := intOp1 (formA64 0 13 w) (fun a => -a) s

/-- R79. 64-bit wrapping add on register pairs. -/
def execAddB64 (w : A64) (s : State) : Out := wideOp2 (formA64 0 16 w) (fun a b => a + b) s

/-- R79. 64-bit wrapping subtract on register pairs. -/
def execSubB64 (w : A64) (s : State) : Out := wideOp2 (formA64 0 17 w) (fun a b => a - b) s

/-- R79. Signed 64-bit minimum. -/
def execMinS64 (w : A64) (s : State) : Out := wideOp2 (formA64 0 24 w) (minmaxInt true false) s

/-- R79. Unsigned 64-bit minimum. -/
def execMinN64 (w : A64) (s : State) : Out := wideOp2 (formA64 0 25 w) (minmaxInt false false) s

/-- R79. Signed 64-bit maximum. -/
def execMaxS64 (w : A64) (s : State) : Out := wideOp2 (formA64 0 26 w) (minmaxInt true true) s

/-- R79. Unsigned 64-bit maximum. -/
def execMaxN64 (w : A64) (s : State) : Out := wideOp2 (formA64 0 27 w) (minmaxInt false true) s

/-- R81. Low 32 bits of a product. -/
def execMulLo (w : A64) (s : State) : Out := intOp2 (formA64 1 0 w) (fun a b => a * b) s

/-- R81. High 32 bits of a signed product. -/
def execMulHiS32 (w : A64) (s : State) : Out := intOp2 (formA64 1 1 w) (mulHi true) s

/-- R81. High 32 bits of an unsigned product. -/
def execMulHiN32 (w : A64) (s : State) : Out := intOp2 (formA64 1 2 w) (mulHi false) s

/-- R81. Low 32 bits of a product plus c. -/
def execMadLo (w : A64) (s : State) : Out := intOp3 (formA64 1 3 w) (fun a b c => a * b + c) s

/-- R81. High signed product half plus c. -/
def execMadHiS32 (w : A64) (s : State) : Out := intOp3 (formA64 1 4 w) (fun a b c => mulHi true a b + c) s

/-- R81. High unsigned product half plus c. -/
def execMadHiN32 (w : A64) (s : State) : Out := intOp3 (formA64 1 5 w) (fun a b c => mulHi false a b + c) s

/-- R82. Signed division toward zero, variable latency. -/
def execDivS32 (w : A64) (s : State) : Out := divOp (formA64 1 6 w) (divInt true) s

/-- R82. Unsigned division, variable latency. -/
def execDivN32 (w : A64) (s : State) : Out := divOp (formA64 1 7 w) (divInt false) s

/-- R82. Signed remainder with the sign of a. -/
def execRemS32 (w : A64) (s : State) : Out := divOp (formA64 1 8 w) (remInt true) s

/-- R82. Unsigned remainder. -/
def execRemN32 (w : A64) (s : State) : Out := divOp (formA64 1 9 w) (remInt false) s

/-- R83. Four signed byte products added to c. -/
def execDp4S8 (w : A64) (s : State) : Out := intOp3 (formA64 1 10 w) (dp4 true) s

/-- R83. Four unsigned byte products added to c. -/
def execDp4N8 (w : A64) (s : State) : Out := intOp3 (formA64 1 11 w) (dp4 false) s

/-- R79. Short two-address 32-bit add rd := rd + rb. -/
def execAddS32C16 (w : C16) (s : State) : Out := intOp2 (formC16 1 0 false w) (fun a b => a + b) s

/-- R79. Short two-address 32-bit subtract rd := rd - rb. -/
def execSubS32C16 (w : C16) (s : State) : Out := intOp2 (formC16 2 0 false w) (fun a b => a - b) s

/-- R79. Short two-address signed minimum. -/
def execMinS32C16 (w : C16) (s : State) : Out := intOp2 (formC16 9 0 false w) (minmaxInt true false) s

/-- R79. Short two-address signed maximum. -/
def execMaxS32C16 (w : C16) (s : State) : Out := intOp2 (formC16 10 0 false w) (minmaxInt true true) s

/-- R79. B32 32-bit add of two registers. -/
def execAddS32B32 (w : B32) (s : State) : Out := intOp2 (formB32 0 0 false w) (fun a b => a + b) s

/-- R79. B32 32-bit add of a register and a signed 7-bit immediate. -/
def execAddS32ImmB32 (w : B32) (s : State) : Out := intOp2 (formB32 1 0 true w) (fun a b => a + b) s

/-- R79. B32 32-bit subtract of two registers. -/
def execSubS32B32 (w : B32) (s : State) : Out := intOp2 (formB32 2 0 false w) (fun a b => a - b) s

/-- R79. B32 32-bit subtract of a signed 7-bit immediate. -/
def execSubS32ImmB32 (w : B32) (s : State) : Out := intOp2 (formB32 3 0 true w) (fun a b => a - b) s

/-- R79. B32 signed minimum. -/
def execMinS32B32 (w : B32) (s : State) : Out := intOp2 (formB32 4 0 false w) (minmaxInt true false) s

/-- R79. B32 signed maximum. -/
def execMaxS32B32 (w : B32) (s : State) : Out := intOp2 (formB32 5 0 false w) (minmaxInt true true) s

/-- R79. B32 unsigned minimum. -/
def execMinN32B32 (w : B32) (s : State) : Out := intOp2 (formB32 6 0 false w) (minmaxInt false false) s

/-- R79. B32 unsigned maximum. -/
def execMaxN32B32 (w : B32) (s : State) : Out := intOp2 (formB32 7 0 false w) (minmaxInt false true) s

/-- R79. B32 absolute value modulo 2^32. -/
def execAbsS32B32 (w : B32) (s : State) : Out := intOp1 (formB32 8 0 false w) absS s

/-- R79. B32 saturating signed add. -/
def execAddSatS32B32 (w : B32) (s : State) : Out := intOp2 (formB32 9 0 false w) (addSat true) s

/-- R81. B32 low 32 bits of a product. -/
def execMulLoS32B32 (w : B32) (s : State) : Out := intOp2 (formB32 10 0 false w) (fun a b => a * b) s

/-- R81. B32 high 32 bits of an unsigned product. -/
def execMulHiN32B32 (w : B32) (s : State) : Out := intOp2 (formB32 11 0 false w) (mulHi false) s

/-- R81. B32 multiply-add with rd as accumulator. -/
def execMadLoS32B32 (w : B32) (s : State) : Out := intOp3 (formB32Acc 12 w) (fun a b c => a * b + c) s

/-- R83. B32 four signed byte products added to rd. -/
def execDp4S8B32 (w : B32) (s : State) : Out := intOp3 (formB32Acc 13 w) (dp4 true) s

end Sys2Proof.Machine
end

