-- ==== Sys2Proof/Machine/BitOps.lean ====
section
/-!
DEFINITION. Bit operations, class 2 and its C16 and B32 forms (R84 to R88).
-/

namespace Sys2Proof.Machine

/-- R51, Table 4.4: a shift of a pair by the low six bits of a 32-bit amount. -/
def wideShift (f : Form) (op : W64 → Nat → W64) (s : State) : Out :=
  let a := srcOf f.w.pa f.w.ra 2
  let b := srcOf f.w.pb f.w.rb 1
  fixedOp (f.shape [a, b] (spanRegs .v f.w.rd.toNat 2)) 3
    (fun s u l => (pairVal (op (s.arg64 u a l) ((s.arg32 u b l).toNat % 64)), 0)) s

/-- R51: shifts by the low five bits of b. -/
def shl32 (a b : W32) : W32 := a <<< (b.toNat % 32)

def shr32 (a b : W32) : W32 := a >>> (b.toNat % 32)

def sar32 (a b : W32) : W32 := a.sshiftRight (b.toNat % 32)

def rol32 (a b : W32) : W32 := a.rotateLeft (b.toNat % 32)

/-- R84. Bitwise AND. -/
def execAnd (w : A64) (s : State) : Out := intOp2 (formA64 2 0 w) (fun a b => a &&& b) s

/-- R84. Bitwise OR. -/
def execOr (w : A64) (s : State) : Out := intOp2 (formA64 2 1 w) (fun a b => a ||| b) s

/-- R84. Bitwise XOR. -/
def execXor (w : A64) (s : State) : Out := intOp2 (formA64 2 2 w) (fun a b => a ^^^ b) s

/-- R84. Bitwise a AND NOT b. -/
def execAndn (w : A64) (s : State) : Out := intOp2 (formA64 2 3 w) (fun a b => a &&& ~~~b) s

/-- R84. Bitwise NOT. -/
def execNot (w : A64) (s : State) : Out := intOp1 (formA64 2 4 w) (fun a => ~~~a) s

/-- R84. 32-bit left shift. -/
def execShl (w : A64) (s : State) : Out := intOp2 (formA64 2 5 w) shl32 s

/-- R84. 32-bit logical right shift. -/
def execShr (w : A64) (s : State) : Out := intOp2 (formA64 2 6 w) shr32 s

/-- R84. 32-bit arithmetic right shift. -/
def execSar (w : A64) (s : State) : Out := intOp2 (formA64 2 7 w) sar32 s

/-- R84. 32-bit rotate left. -/
def execRol (w : A64) (s : State) : Out := intOp2 (formA64 2 8 w) rol32 s

/-- R85. Signed bit-field extract. -/
def execBfeS32 (w : A64) (s : State) : Out := intOp3 (formA64 2 9 w) (bfe true) s

/-- R85. Unsigned bit-field extract. -/
def execBfeN32 (w : A64) (s : State) : Out := intOp3 (formA64 2 10 w) (bfe false) s

/-- R86. Bit-field insert into base c. -/
def execBfi (w : A64) (s : State) : Out := intOp3 (formA64 2 11 w) Machine.bfi s

/-- R87. Bit-order reversal. -/
def execBrev (w : A64) (s : State) : Out := intOp1 (formA64 2 12 w) Machine.brev s

/-- R87. Population count. -/
def execPopc (w : A64) (s : State) : Out := intOp1 (formA64 2 13 w) Machine.popc s

/-- R87. Count of set bits below bit n. -/
def execPopcLo (w : A64) (s : State) : Out := intOp2 (formA64 2 14 w) Machine.popcLo s

/-- R87. Count of leading zeros. -/
def execClz (w : A64) (s : State) : Out := intOp1 (formA64 2 15 w) Machine.clz s

/-- R87. Count of trailing zeros. -/
def execCtz (w : A64) (s : State) : Out := intOp1 (formA64 2 16 w) Machine.ctz s

/-- R88. 30-bit Morton key from three 10-bit coordinates. -/
def execHcell (w : A64) (s : State) : Out := intOp3 (formA64 2 17 w) Machine.hcell s

/-- R84. 64-bit left shift. -/
def execShlB64 (w : A64) (s : State) : Out := wideShift (formA64 2 24 w) (fun a n => a <<< n) s

/-- R84. 64-bit logical right shift. -/
def execShrB64 (w : A64) (s : State) : Out := wideShift (formA64 2 25 w) (fun a n => a >>> n) s

/-- R84. 64-bit arithmetic right shift. -/
def execSarB64 (w : A64) (s : State) : Out := wideShift (formA64 2 26 w) (fun a n => a.sshiftRight n) s

/-- R84. Short two-address bitwise AND. -/
def execAndB32C16 (w : C16) (s : State) : Out := intOp2 (formC16 3 0 false w) (fun a b => a &&& b) s

/-- R84. Short two-address bitwise OR. -/
def execOrB32C16 (w : C16) (s : State) : Out := intOp2 (formC16 4 0 false w) (fun a b => a ||| b) s

/-- R84. Short two-address bitwise XOR. -/
def execXorB32C16 (w : C16) (s : State) : Out := intOp2 (formC16 5 0 false w) (fun a b => a ^^^ b) s

/-- R84. Short two-address left shift by rb[4:0]. -/
def execShlB32C16 (w : C16) (s : State) : Out := intOp2 (formC16 6 0 false w) shl32 s

/-- R84. Short two-address logical right shift. -/
def execShrB32C16 (w : C16) (s : State) : Out := intOp2 (formC16 7 0 false w) shr32 s

/-- R84. Short two-address arithmetic right shift. -/
def execSarB32C16 (w : C16) (s : State) : Out := intOp2 (formC16 8 0 false w) sar32 s

/-- R84. B32 bitwise AND of two registers. -/
def execAndB32B32 (w : B32) (s : State) : Out := intOp2 (formB32 14 0 false w) (fun a b => a &&& b) s

/-- R84. B32 bitwise OR of two registers. -/
def execOrB32B32 (w : B32) (s : State) : Out := intOp2 (formB32 15 0 false w) (fun a b => a ||| b) s

/-- R84. B32 bitwise XOR. -/
def execXorB32B32 (w : B32) (s : State) : Out := intOp2 (formB32 16 0 false w) (fun a b => a ^^^ b) s

/-- R84. B32 a AND NOT b. -/
def execAndnB32B32 (w : B32) (s : State) : Out := intOp2 (formB32 17 0 false w) (fun a b => a &&& ~~~b) s

/-- R84. B32 AND with a sign-extended 7-bit immediate. -/
def execAndB32ImmB32 (w : B32) (s : State) : Out := intOp2 (formB32 18 0 true w) (fun a b => a &&& b) s

/-- R84. B32 OR with a sign-extended 7-bit immediate. -/
def execOrB32ImmB32 (w : B32) (s : State) : Out := intOp2 (formB32 19 0 true w) (fun a b => a ||| b) s

/-- R84. B32 bitwise NOT. -/
def execNotB32B32 (w : B32) (s : State) : Out := intOp1 (formB32 20 0 false w) (fun a => ~~~a) s

/-- R84. B32 left shift by a register amount. -/
def execShlB32B32 (w : B32) (s : State) : Out := intOp2 (formB32 21 0 false w) shl32 s

/-- R84. B32 logical right shift by a register amount. -/
def execShrB32B32 (w : B32) (s : State) : Out := intOp2 (formB32 22 0 false w) shr32 s

/-- R84. B32 arithmetic right shift by a register amount. -/
def execSarB32B32 (w : B32) (s : State) : Out := intOp2 (formB32 23 0 false w) sar32 s

/-- R84. B32 left shift by an immediate amount. -/
def execShlB32ImmB32 (w : B32) (s : State) : Out := intOp2 (formB32 24 0 true w) shl32 s

/-- R84. B32 logical right shift by an immediate amount. -/
def execShrB32ImmB32 (w : B32) (s : State) : Out := intOp2 (formB32 25 0 true w) shr32 s

/-- R84. B32 arithmetic right shift by an immediate amount. -/
def execSarB32ImmB32 (w : B32) (s : State) : Out := intOp2 (formB32 26 0 true w) sar32 s

/-- R87. B32 population count. -/
def execPopcB32B32 (w : B32) (s : State) : Out := intOp1 (formB32 27 0 false w) Machine.popc s

/-- R87. B32 count of set bits below bit n. -/
def execPopcLoB32B32 (w : B32) (s : State) : Out := intOp2 (formB32 28 0 false w) Machine.popcLo s

/-- R87. B32 count of leading zeros. -/
def execClzB32B32 (w : B32) (s : State) : Out := intOp1 (formB32 29 0 false w) Machine.clz s

/-- R88. B32 30-bit Morton key with z taken from rd. -/
def execHcellB32 (w : B32) (s : State) : Out := intOp3 (formB32Acc 30 w) Machine.hcell s

end Sys2Proof.Machine
end

