-- ==== Sys2Proof/Machine/RegionOps.lean ====
section
/-!
DEFINITION. Forwarding atomic regions at the slices and signal boxes: versions, edges, limits, commit (R249 to R255, R258, R259).
-/

namespace Sys2Proof.Machine

/-- The core and ASID of a unit. -/
def State.unitCore (s : State) (u : Unit) : Nat :=
  match s.team? u.team with
  | some t => t.core
  | none => 0

def State.unitAsid (s : State) (u : Unit) : Nat :=
  match (s.team? u.team).bind fun t => s.ctx? t.ctx with
  | some c => c.entry.asid
  | none => 0

/-- R381: whether the team of a unit has been terminated. -/
def State.teamEnded (s : State) (u : Unit) : Bool := (s.team? u.team).elim false fun t => t.terminated

/-- R113, R300: the bytes of a lane that are performed at one instant: those of an atomic whole, 8 bytes of a plain access, a word of a region's, or of one whose team has been terminated (R381). -/
def Req.part (q : Req) (ended : Bool) : Nat :=
  match q.kind with
  | .load _ => min q.size (if q.region then 4 else 8)
  | .store => min q.size (if q.region || ended then 4 else 8)
  | _ => q.size

/-- R232: an access performed away from its core's leased copy leaves those words of the copy unused. -/
def State.fence (s : State) (core asid line : Nat) (mask : BitVec 32) : State :=
  s.modL1 core asid line fun l => if l.owned then l else { l with valid := l.valid &&& ~~~mask }

/-- R232, R235: a group that has made an access to words of a line no longer merges for them into reads that are older. -/
def State.barMerges (s : State) (root asid line : Nat) (mask : BitVec 32) : State :=
  let bar (l : LaneReq) : LaneReq := if l.asid = asid ∧ l.va / 128 = line ∧ l.fill.isSome then { l with barred := (root, mask) :: l.barred } else l
  { s with units := s.units.map fun u => { u with reqs := u.reqs.map fun q => { q with lanes := q.lanes.map bar } } }

/-- R251: whether a region is open and not yet decided. -/
def State.openRegion? (s : State) (r : Nat) : Option Region := s.regions.find? fun x => x.id == r && x.pending.isNone

/-- What a region access comes to; a refused one awaits the end of one of some regions (R252). -/
inductive RegionRes where
  | done (s : State) (value : BitVec 128)
  | stall (s : State) (sources : List Nat)
  | abort (status : Nat)

/-- R250: the value a region reads in a word: its own version, what it read first, the newest version, or the committed value. -/
def State.regionWord (s : State) (r asid word : Nat) (committed : W32) : W32 :=
  match (s.versions.filter fun v => v.asid == asid && v.word == word && v.region == r).getLast? with
  | some v => v.value
  | none =>
    match s.readers.find? fun v => v.asid == asid && v.word == word && v.region == r with
    | some v => v.value
    | none =>
      match (s.versions.filter fun v => v.asid == asid && v.word == word).getLast? with
      | some v => v.value
      | none => committed

/-- R250: whether a region has written, or read, a word. -/
def State.regionWrote (s : State) (r asid word : Nat) : Bool := s.versions.any fun v => v.asid == asid && v.word == word && v.region == r

def State.regionRead (s : State) (r asid word : Nat) : Bool := s.readers.any fun v => v.asid == asid && v.word == word && v.region == r

/-- Table 12.1: the edges of a first read of a word, and of a write. -/
def State.readEdges (s : State) (r asid word : Nat) : List (Nat × EdgeKind) :=
  if s.regionWrote r asid word || s.regionRead r asid word then []
  else match (s.versions.filter fun v => v.asid == asid && v.word == word).getLast? with
    | some v => if v.region = r then [] else [(v.region, .forward)]
    | none => []

def State.writeEdges (s : State) (r asid word : Nat) : List (Nat × EdgeKind) :=
  (match (s.versions.filter fun v => v.asid == asid && v.word == word && v.region != r).getLast? with
    | some v => [(v.region, .writeOrder)]
    | none => []) ++
  ((s.readers.filter fun v => v.asid == asid && v.word == word && v.region != r).map fun v => (v.region, .readOrder))

/-- R250: an edge into `r` joins the graph. A second edge between the same ordered pair adds nothing, but that the region has received a value (R255). -/
def addEdge (r : Nat) (apart : Nat → Bool) (es : List Edge) (e : Nat × EdgeKind) : List Edge :=
  if es.any fun x => x.src == e.1 && x.dst == r && x.stalled.isNone then
    es.map fun x => if x.src == e.1 && x.dst == r && x.stalled.isNone && e.2 == .forward then { x with kind := .forward } else x
  else es ++ [{ src := e.1, dst := r, kind := e.2, delivered := !apart e.1, stalled := none }]

/-- R250, R251: the graph with the edges of an access, from regions that are still uncommitted; edges between dies have still to be exchanged. -/
def State.withEdges (s : State) (r : Nat) (es : List (Nat × EdgeKind)) : List Edge :=
  let die (q : Nat) : Nat := (s.openRegion? q).elim 0 fun x => x.die
  (es.filter fun e => (s.openRegion? e.1).isSome).foldl (addEdge r fun q => die q != die r) s.edges

/-- Whether a region can be reached from another along edges. -/
def reaches (es : List Edge) (goal : Nat) : Nat → List Nat → Bool
  | 0, _ => false
  | fuel + 1, front =>
    front.contains goal || (let next := (es.filter fun e => front.contains e.src).map fun e => e.dst
      if next.isEmpty then false else reaches es goal fuel next.eraseDups)

/-- R252: whether edges into `r` close a cycle in the graph, stalled accesses counted. -/
def closesCycle (es new : List Edge) (r : Nat) : Bool :=
  new.any fun e => reaches (es ++ new) e.src (es.length + new.length + 2) [r]

/-- R251: the depth of a region. -/
def depthOf (es : List Edge) : Nat → Nat → Nat
  | 0, _ => 0
  | fuel + 1, r =>
    let ps := (es.filter fun e => e.dst == r).map fun e => e.src
    if ps.isEmpty then 0 else 1 + ps.foldl (fun (m : Nat) (p : Nat) => max m (depthOf es fuel p)) 0

/-- Table 12.2: whether some region would have more than 4 predecessors or a depth above 4. -/
def overLimits (es : List Edge) : Bool :=
  let regs := (es.map fun e => e.dst).eraseDups
  regs.any fun r => decide (4 < (es.filter fun e => e.dst == r).length) || decide (4 < depthOf es 6 r)

/-- R259: whether a plain write is held on a word: the part that is next to be performed of a request's lane, an engine's element, a write of the part's agents or of the host. -/
def State.heldOn (s : State) (asid word pa : Nat) : Bool :=
  let covers (at_ n : Nat) : Bool := decide (at_ / 4 ≤ word ∧ word < at_ / 4 + max 1 (n / 4))
  (s.units.any fun u => u.reqs.any fun q => q.lanes.any fun l =>
    l.held && !l.done && !q.region && l.asid == asid && covers (l.va + l.at_) (q.part (s.teamEnded u))) ||
  (s.copies.any fun c => c.held.contains (asid, word)) || (s.gathers.any fun c => c.held.contains (asid, word)) ||
  s.deferred.any fun w => match w.host with
    | some (p, _) => p / 4 == pa / 4
    | none => match s.locate w.asid (va57 w.addr) true with
      | .ok x => x.asid == asid && covers x.va w.size
      | .error _ => false

/-- R251: lines holding uncommitted versions at one slice. -/
def State.versionLines (s : State) (home : Nat) : Nat :=
  ((s.versions.filter fun v => homeSlice v.asid (v.word / 32) v.pa v.attr.near == home).map fun v => (v.asid, v.word / 32)).eraseDups.length

/-- R396: whether a region's read of some bytes would take a committed value that is poisoned. -/
def State.regionPoisoned (s : State) (r : Nat) (x : Xlate) (size : Nat) : Bool :=
  ((List.range (max 1 (size / 4))).map fun i => x.va / 4 + i).any fun w =>
    !(s.regionWrote r x.asid w) && !(s.regionRead r x.asid w) && !(s.versions.any fun v => v.asid == x.asid && v.word == w) &&
    s.poisoned { x with va := w * 4, pa := x.pa / 4 * 4 + (w * 4 - x.va / 4 * 4) } 4

/-- R250: what an access of a region does to one line when nothing stops it: the words it reads and records, and the versions it makes. -/
def State.regionEffect (s : State) (r : Nat) (x : Xlate) (size : Nat) (asRead : Bool) (out : Option (BitVec 128)) (floor : Nat) : List Reader × List Version :=
  let line := x.va / 128
  let ws := (List.range (max 1 (size / 4))).map fun i => x.va / 4 + i
  let value (i : Nat) : W32 := s.regionWord r x.asid (line * 32 + i) (s.sliceWord x.asid line i)
  (if asRead then (ws.filter fun w => !(s.regionWrote r x.asid w) && !(s.regionRead r x.asid w)).map fun w =>
      { asid := x.asid, word := w, region := r, value := value (w % 32) : Reader }
    else [],
   match out with
    | none => []
    | some d => (writeWords value (x.va % 128) size d).map fun w =>
        { asid := x.asid, word := line * 32 + w.1, region := r, value := w.2, pa := x.pa / 128 * 128 + 4 * w.1, attr := x.attr, floor := floor : Version })

/-- R249 to R252, R300: an access of region `r` to `size` bytes at `x`: `reads`, `writes` or both; `f` maps the bytes read to what is written, if anything, and `floor` is what the access carries (R231). A sealed range is only read, and keeps no record; a store that passed its port before the seal is a write all the same (R285). `tag` names the access when it stalls. -/
def State.regionAccess (s : State) (r : Nat) (x : Xlate) (size : Nat) (reads writes : Bool) (f : BitVec 128 → Option (BitVec 128)) (floor : Nat) (tag : Nat × Nat) : RegionRes :=
  let line := x.va / 128
  let off := x.va % 128
  if x.attr.ms || x.attr.host.isSome || x.attr.device.isSome then .abort 3
  else if !writes && s.sealedLine x.asid line then
    let s1 := (s.fillL2 x).fetchOwner x.asid line (wordMask off size)
    .done s1 (readWords (s1.sliceWord x.asid line) off size)
  else
    let s1 := (s.fillL2 x).lineRecall x.asid line
    let s2 := { s1 with edges := s1.edges.filter fun e => e.stalled != some tag }
    let ws := (List.range (max 1 (size / 4))).map fun i => x.va / 4 + i
    let old := readWords (fun i => s2.regionWord r x.asid (line * 32 + i) (s2.sliceWord x.asid line i)) off size
    let out := f old
    let asRead := reads || (out.isSome && decide (size < 4))
    let es := ws.flatMap fun w => (if asRead then s2.readEdges r x.asid w else []) ++ (if out.isSome then s2.writeEdges r x.asid w else [])
    let all := s2.withEdges r es
    let new := all.drop s2.edges.length
    let real := all.filter fun e => e.stalled.isNone
    let first (w : Nat) : Bool := !(s2.regionWrote r x.asid w) && !(s2.regionRead r x.asid w)
    if ws.any fun w => first w && s2.heldOn x.asid w (x.pa / 128 * 128 + w % 32 * 4) then .stall s2 []
    else if closesCycle s2.edges new r then .abort 1
    else if overLimits real then
      .stall { s2 with edges := s2.edges ++ new.map fun e => { e with stalled := some tag } } ((es.map Prod.fst).filter fun q => (s2.openRegion? q).isSome).eraseDups
    else
      let key := (x.asid, line)
      match s2.openRegion? r with
      | none => .abort 6
      | some reg =>
        let eff := s2.regionEffect r x size asRead out floor
        let lr := if !eff.1.isEmpty && !reg.linesRead.contains key then key :: reg.linesRead else reg.linesRead
        let lw := if out.isSome && !reg.linesWritten.contains key then key :: reg.linesWritten else reg.linesWritten
        let fresh := out.isSome && !(s2.versions.any fun v => v.asid == x.asid && v.word / 32 == line)
        if 512 < lr.length ∨ 128 < lw.length ∨ (fresh ∧ 1024 ≤ s2.versionLines x.home) then .abort 3
        else
          .done { s2 with
            edges := all
            readers := s2.readers ++ eff.1
            versions := (s2.versions.filter fun v => !(v.region == r && eff.2.any fun w => w.asid == v.asid && w.word == v.word)) ++ eff.2
            regions := s2.regions.map fun y => if y.id == r then { y with linesRead := lr, linesWritten := lw } else y } old

/-- R253, R254: a region without predecessors commits: its versions become the committed values at one instant, also in its own core's copies (R232), and the group's `wct` and status follow; the agents' writes held on its account come after. -/
def State.commitRegion (s : State) (r : Nat) (reg : Region) : State :=
  match s.unit? reg.unit with
  | none => s
  | some u =>
    let mine := s.versions.filter fun v => v.region == r
    let step (a : State × Nat) (v : Version) : State × Nat :=
      let x : Xlate := { pa := v.pa, attr := v.attr, shared := true, permR := true, permW := true, asid := v.asid, va := v.word * 4 }
      let s1 := a.1.fillL2 x
      let s2 := s1.sliceWrite (some (s.unitCore u)) v.asid (v.word / 32) [(v.word % 32, v.value)] true v.floor
      ((s2.barMerges (u.root reg.unit) v.asid (v.word / 32) (1#32 <<< (v.word % 32))).fresh, max a.2 (s1.sliceTime v.asid (v.word / 32)))
    let out := mine.foldl step (s, 0)
    let s1 := { out.1 with
      versions := out.1.versions.filter fun v => v.region != r
      readers := out.1.readers.filter fun v => v.region != r
      edges := out.1.edges.filter fun e => e.src != r && e.dst != r
      regions := out.1.regions.filter fun y => y.id != r }
    (s1.modUnit reg.unit fun u => { u with region := none, wct := max u.wct out.2 }).flushDeferred

end Sys2Proof.Machine
end

