-- ==== Sys2Proof/Machine/Perform.lean ====
section
/-!
DEFINITION. Where global accesses are performed (R114, R116, R198 to R206, R224, R225, R231 to R235, R240 to R244): loads, stores, atomics and reductions at an L1, a slice, a tower base, a host window or another device.
-/

namespace Sys2Proof.Machine

/-- Table 13.2: the float formats of an element type: the format and whether two elements are packed. -/
def atomFmt (ety : Nat) : Fmt × Bool :=
  match ety with
  | 8 => (.f16, true)
  | 9 => (.bf16, true)
  | 11 => (.f64, false)
  | _ => (.f32, false)

/-- R273: a float operation on one element or on two packed ones; its flags are dropped. -/
def atomFloat (ety : Nat) (f : Fmt → Nat → Nat → Rounded) (a b : Nat) : Nat :=
  let ft := atomFmt ety
  if ft.2 then (f ft.1 (a % 65536) (b % 65536)).bits % 65536 + 65536 * ((f ft.1 (a / 65536) (b / 65536)).bits % 65536)
  else (f ft.1 a b).bits

/-- R273: the bytes of an element type in class 16. -/
def atomSize (ety : Nat) : Nat := if ety = 3 ∨ ety = 7 ∨ ety = 11 then 8 else 4

/-- R274, Table 13.2: the new value, if one is written, and the success of an `addlim`. -/
def atomNew (op ety : Nat) (old d d2 : BitVec 128) : Option (BitVec 128) × Bool :=
  let w := 8 * atomSize ety
  let o := old.toNat % 2 ^ w
  let a := d.toNat % 2 ^ w
  let b := d2.toNat % 2 ^ w
  let signed := ety == 2 || ety == 3
  let val (x : Nat) : Int := if signed then toSigned w x else (x : Int)
  let put (x : Nat) : Option (BitVec 128) × Bool := (some (BitVec.ofNat 128 (x % 2 ^ w)), true)
  match op with
  | 0 => put (o + a)
  | 1 => put (if val o ≤ val a then o else a)
  | 2 => put (if val o ≤ val a then a else o)
  | 3 => put (o &&& a)
  | 4 => put (o ||| a)
  | 5 => put (o ^^^ a)
  | 6 => put a
  | 7 => if o = a then put b else (none, true)
  | 8 => if val o + val a ≤ val b then put (o + a) else (none, false)
  | 9 => put (atomFloat ety (fun f x y => f.add .rn x y) o a)
  | 10 => put (atomFloat ety (fun f x y => f.minmax false false x y) o a)
  | _ => put (atomFloat ety (fun f x y => f.minmax true false x y) o a)

/-- The translation that a lane took at issue. -/
def LaneReq.xlate (l : LaneReq) : Xlate :=
  { pa := l.pa, attr := l.attr, shared := l.shared, permR := true, permW := l.permW, asid := l.asid, va := l.va }

/-- The lane of a request with its result. -/
def LaneReq.finish (l : LaneReq) (result : BitVec 128) (stamp : Nat) : LaneReq := { l with done := true, result := result, stamp := stamp }

def LaneReq.wrote! (l : LaneReq) (ctime : Nat) : LaneReq := { l with done := true, wrote := true, ctime := ctime }

/-- The part of a lane that is performed next, as an access of its own. Those of one lane are performed from the lowest address up (log entry 128). -/
def LaneReq.partOf (l : LaneReq) (n : Nat) : LaneReq :=
  { l with ea := l.ea + BitVec.ofNat 64 l.at_, va := l.va + l.at_, pa := l.pa + l.at_, data := l.data >>> (8 * l.at_) &&& BitVec.ofNat 128 (2 ^ (8 * n) - 1) }

/-- A lane of `size` bytes when a part of `n` bytes has come to `p`. -/
def LaneReq.joined (l p : LaneReq) (n size : Nat) : LaneReq :=
  { l with
    at_ := l.at_ + n, done := decide (size ≤ l.at_ + n), held := false, waitsFor := [], result := l.result ||| (p.result <<< (8 * l.at_)), ok := p.ok
    wrote := l.wrote || p.wrote, stamp := max l.stamp p.stamp, ctime := max l.ctime p.ctime, fill := p.fill }

/-- R203, R199: a core owns a line whose recorded permission is enough. -/
def State.coreOwns (s : State) (core asid line : Nat) (write : Bool) : Bool :=
  match s.l2Line? asid line, s.l1Line? core asid line with
  | some b, some l => b.owner == some core && (if write then l.permW else l.permR)
  | _, _ => false

/-- R203, R220: the words of a mask that an owner's copy holds invalid are fetched from the slice, behind the recalls that it has sent; the fetch clears their foreign bits. -/
def State.ownerFetch (s0 : State) (core asid line : Nat) (mask : BitVec 32) : State :=
  match s0.l1Line? core asid line, s0.l2Line? asid line with
  | some a0, some b =>
    if mask &&& ~~~a0.valid = 0 then s0
    else
      let s := s0.deliverRecalls core b.home
      let miss := mask &&& ~~~((s.l1Line? core asid line).elim 0 fun a => a.valid)
      let ws := ((List.range 32).filter fun i => miss.getLsbD i).map fun i => (i, sget b.data i)
      let s1 := s.modL1 core asid line fun l => { l with data := setWords l.data ws, valid := l.valid ||| miss, dirty := l.dirty &&& ~~~miss, stamp := max l.stamp b.stamp }
      let s2 := s1.modL2 asid line fun l => { l with foreign := l.foreign &&& ~~~miss }
      s2.takePoison core asid line miss
  | _, _ => s0

/-- Words written in an owning L1. -/
def State.l1Write (s : State) (core asid line off size : Nat) (d : BitVec 128) (floor : Nat) : State :=
  let mask := wordMask off size
  let s1 := s.modL1 core asid line fun l =>
    { l with data := setWords l.data (writeWords (sget l.data) off size d), valid := l.valid ||| mask, dirty := l.dirty ||| mask, stamp := max l.stamp floor }
  if size < 4 then s1 else s1.clearPoisonL1 core asid line mask

/-- R233: an L1 that comes to own a line writes it at its own clock, so leased copies elsewhere end (log entry 13). -/
def State.dropLeased (s : State) (core asid line : Nat) : State :=
  { s with l1 := s.l1.filter fun l => !(l.asid == asid && l.line == line && l.core != core && !l.owned) }

/-- R203: ownership of a line passes to a core. -/
def State.acquire (s : State) (core : Nat) (x : Xlate) : State := ((s.fillL2 x).takeOwnership core x).dropLeased core x.asid (x.va / 128)

/-- R233: the recalls of writes that a floor covers have reached a core before its access. -/
def State.dueRecalls (s : State) (core floor : Nat) : State :=
  ((s.recalls.filter fun r => r.core == core && decide (r.ctime ≤ floor)).map fun r => r.home).eraseDups.foldl (fun a h => a.deliverRecalls core h) s

/-- Whether the L1 of a core may serve and hold a lane's line: the core has one and the name is canonical (R198, R200). -/
def State.useL1 (s : State) (core : Nat) (l : LaneReq) : Bool := s.hasL1 core && !l.shared

/-- Table 5.4, R199: the copy that serves a load: any live one for `.wt`, an owned one for `.own`. -/
def State.l1Hit (s : State) (core : Nat) (q : Req) (l : LaneReq) : Option L1Line :=
  if 1 < q.rtype ∨ !s.useL1 core l then none
  else (s.l1Serves core l.asid (l.va / 128) (l.va % 128) q.size false).bind fun c => if q.rtype == 0 || c.owned then some c else none

/-- R115, R276, R396: whether an access that reads would consume poison where it would be performed now: at the device that holds the frame, in a copy of its core, or at the home. A host page holds none. -/
def State.consumesPoison (s : State) (core : Nat) (q : Req) (l : LaneReq) : Bool :=
  match q.kind with
  | .store => false
  | .prefetch => false
  | k =>
    if l.attr.device.isSome then s.remotePoison l.lane
    else match (match k with
      | .load _ => s.l1Hit core q l
      | _ => none) with
    | some _ => (List.range (max 1 (q.size / 4))).any fun i => s.poisonL1.contains (core, l.asid, l.va / 4 + i)
    | none => s.poisoned l.xlate q.size

/-- R249, R250, R396: whether an access would, as one of region `g`: one that the region cannot hold reads nothing, and a version or a value read before is no poisoned word. -/
def State.readsPoison (s : State) (g : Option Nat) (core : Nat) (q : Req) (l : LaneReq) : Bool :=
  match g with
  | none => s.consumesPoison core q l
  | some r =>
    (match q.kind with
      | .store => false
      | .prefetch => false
      | _ => true) && !s.uncached l.xlate && s.regionPoisoned r l.xlate q.size

/-- R235: what a `.wt` read leaves for younger reads of its line: the line as the slice holds it, or, of a line that an L1 owns, the words it asked for; no poisoned word (R396). Words read earlier by the same lane stand as they were read. -/
def State.fillFor (s : State) (x : Xlate) (l : LaneReq) (mask : BitVec 32) : Option Fill :=
  (s.l2Line? x.asid (x.va / 128)).map fun b =>
    let before := (l.va - l.at_) % 128 / 4
    let own := (List.range (l.at_ / 4)).map fun i => (before + i, l.result.extractLsb' (32 * i) 32)
    let bad := (s.poisonL2.filter fun p => p.1 == x.asid && p.2 / 32 == x.va / 128).foldl (fun (m : BitVec 32) p => m ||| (1#32 <<< (p.2 % 32))) 0
    { mask := (if b.owner.isNone then BitVec.allOnes 32 else mask ||| own.foldl (fun (m : BitVec 32) w => m ||| (1#32 <<< w.1)) 0) &&& ~~~bad
      words := setWords b.data own }

/-- R116, Table 5.4, R203, R205: a plain load performed. -/
def State.performLoad (s : State) (core : Nat) (q : Req) (l : LaneReq) : State × LaneReq :=
  let x := l.xlate
  let line := x.va / 128
  let off := x.va % 128
  let mask := wordMask off q.size
  if s.uncached x then (s.markPage x, l.finish (s.frameRead x q.size) (s.towerStampOf x))
  else if q.rtype = 3 ∧ (s.l2Line? x.asid line).isNone then
    ((s.markPage x).fence core x.asid line mask, l.finish (s.frameRead x q.size) (s.towerStampOf x))
  else match s.l1Hit core q l with
  | some c => (s, l.finish (readWords (sget c.data) off q.size) c.stamp)
  | none =>
    let l1ok := decide (q.rtype ≤ 1) && s.useL1 core l
    let fromL1 (t : State) : State × LaneReq :=
      match t.l1Line? core x.asid line with
      | some c => (t, l.finish (readWords (sget c.data) off q.size) c.stamp)
      | none => (t, l.finish 0 0)
    if l1ok && s.coreOwns core x.asid line false then fromL1 (s.ownerFetch core x.asid line mask)
    else if l1ok && q.rtype == 1 && !s.sealedLine x.asid line then fromL1 (s.acquire core x)
    else
      let s1 := (s.fillL2 x).fetchOwner x.asid line mask
      let res := l.finish (readWords (s1.sliceWord x.asid line) off q.size) (s1.sliceStamp x.asid line)
      let res' := if q.rtype = 0 ∧ s.hasL1 core then { res with fill := s1.fillFor x l mask } else res
      if l1ok && (s1.l2Line? x.asid line).elim false fun b => b.owner.isNone then
        if s1.sealedLine x.asid line then (s1.fillL1 core x false 0, res')
        else
          let g := s1.grantLease x.asid line q.lease
          (g.1.fillL1 core x false g.2, res')
      else (s1.fence core x.asid line mask, res')

/-- R116, R203, R225: a plain store performed. -/
def State.performStore (s : State) (core : Nat) (q : Req) (l : LaneReq) : State × LaneReq :=
  let x := l.xlate
  let line := x.va / 128
  let off := x.va % 128
  let mask := wordMask off q.size
  if s.uncached x ∨ (q.rtype = 3 ∧ (s.l2Line? x.asid line).isNone) then
    (((s.markPage x).frameWrite x q.size l.data l.floor).fence core x.asid line mask, l.wrote! (s.frameTime x))
  else
    let l1ok := decide (q.rtype ≠ 3) && s.useL1 core l
    if l1ok && s.coreOwns core x.asid line true then
      ((s.ownerFetch core x.asid line mask).l1Write core x.asid line off q.size l.data l.floor, l.wrote! (s.writeClock (portClock (clusterOf core))))
    else if l1ok && q.rtype == 1 then
      let s1 := s.fillL2 x
      ((s1.acquire core x).l1Write core x.asid line off q.size l.data l.floor, l.wrote! (s1.sliceTime x.asid line))
    else
      let s1 := s.fillL2 x
      let s2 := if q.size < 4 then s1.fetchOwner x.asid line mask else s1
      let ws := writeWords (s2.sliceWord x.asid line) off q.size l.data
      (s2.sliceWrite (some core) x.asid line ws (decide (4 ≤ q.size)) l.floor, l.wrote! (s2.sliceTime x.asid line))

/-- R114, R204, R233, Table 10.5: whether an atomic at the slice reads the words that the owner of the line holds dirty: always those of its own core's L1, and those that its floor may cover; else the table leaves it open whether the owner's write comes before it (log entry 117). -/
def State.atomFetches (s : State) (core : Nat) (x : Xlate) (floor : Nat) : Bool :=
  match (s.l2Line? x.asid (x.va / 128)).bind fun b => b.owner with
  | some o => o == core || floor != 0 || (Config.free s.free 40).getLsbD 0
  | none => false

/-- R240 to R243, Table 10.5, Table 11.5: a plain atomic or reduction performed: at the frame, in an owning L1, or at the slice. One of type `.own` to a line that another L1 owns ends that ownership, and takes it. -/
def State.performAtom (s : State) (core : Nat) (q : Req) (l : LaneReq) : State × LaneReq :=
  let x := l.xlate
  let line := x.va / 128
  let off := x.va % 128
  let mask := wordMask off q.size
  let outcome (old : BitVec 128) (stamp ctime : Nat) (put : BitVec 128 → State) (s0 : State) : State × LaneReq :=
    let r := atomNew q.op q.ety old l.data (l.data2.setWidth 128)
    match r.1 with
    | some new => (put new, { l with done := true, result := old, ok := r.2, wrote := true, stamp := stamp, ctime := ctime })
    | none => (s0, { l with done := true, result := old, ok := r.2, wrote := false, stamp := stamp })
  if s.uncached x ∨ (q.rtype = 3 ∧ (s.l2Line? x.asid line).isNone) then
    let s1 := (s.markPage x).fence core x.asid line mask
    outcome (s1.frameRead x q.size) (s1.towerStampOf x) (s1.frameTime x) (fun new => s1.frameWrite x q.size new l.floor) s1
  else if q.kind = .atom ∧ q.scope ≤ 2 ∧ q.rtype ≤ 1 ∧ s.useL1 core l ∧ s.coreOwns core x.asid line true then
    let s1 := s.ownerFetch core x.asid line mask
    match s1.l1Line? core x.asid line with
    | some c => outcome (readWords (sget c.data) off q.size) c.stamp (s1.writeClock (portClock (clusterOf core)))
        (fun new => s1.l1Write core x.asid line off q.size new l.floor) s1
    | none => (s1, l)
  else
    let owner := (s.l2Line? x.asid line).bind fun b => b.owner
    let takes := q.rtype = 1 ∧ s.useL1 core l ∧ owner.isSome ∧ owner ≠ some core
    let s1 := if takes then s.lineRecall x.asid line else if s.atomFetches core x l.floor then (s.fetchOwner x.asid line mask).fresh else s.fillL2 x
    let s2 := s1.fence core x.asid line mask
    let r := outcome (readWords (s1.sliceWord x.asid line) off q.size) (s1.sliceStamp x.asid line) (s1.sliceTime x.asid line)
      (fun new => s1.sliceWrite (some core) x.asid line (writeWords (s1.sliceWord x.asid line) off q.size new) true l.floor) s2
    (if takes then r.1.acquire core x else r.1, r.2)

/-- R116, R118, R215: a prefetch performed: it fills or acquires, and moves no value. A sealed line is held without a lease. -/
def State.performPrefetch (s : State) (core : Nat) (q : Req) (l : LaneReq) : State × LaneReq :=
  let x := l.xlate
  let line := x.va / 128
  let fetched (t : State) : State × LaneReq := (t, { l with done := true })
  if s.uncached x ∨ q.rtype = 3 then fetched s
  else if q.rtype = 2 ∨ !s.useL1 core l then fetched (s.fillL2 x)
  else if s.coreOwns core x.asid line false then fetched s
  else if q.rtype = 1 then fetched (if s.sealedLine x.asid line then s else s.acquire core x)
  else
    let s1 := s.fillL2 x
    let fill := s1.fillFor x l 0
    if (s1.l2Line? x.asid line).elim false fun b => b.owner.isNone then
      let g := if s1.sealedLine x.asid line then (s1, 0) else s1.grantLease x.asid line q.lease
      (g.1.fillL1 core x false g.2, { l with done := true, fill := fill, stamp := s1.sliceStamp x.asid line })
    else fetched s1

/-- Whether an access writes global memory. -/
def ReqKind.writes : ReqKind → Bool
  | .store => true
  | .atom => true
  | .red => true
  | _ => false

def ReqKind.isPrefetch : ReqKind → Bool
  | .prefetch => true
  | _ => false

/-- A plain access performed. -/
def State.performPlain (s : State) (core : Nat) (q : Req) (l : LaneReq) : State × LaneReq :=
  match q.kind with
  | .load _ => s.performLoad core q l
  | .store => s.performStore core q l
  | .prefetch => s.performPrefetch core q l
  | _ => s.performAtom core q l

/-- R249, R250: a region access as a read, a write, or both. -/
def State.performRegion (s : State) (r : Nat) (q : Req) (l : LaneReq) : RegionRes :=
  let f (old : BitVec 128) : Option (BitVec 128) :=
    match q.kind with
    | .load _ => none
    | .store => some l.data
    | _ => (atomNew q.op q.ety old l.data (l.data2.setWidth 128)).1
  s.regionAccess r l.xlate q.size (match q.kind with
    | .store => false
    | _ => true) q.kind.writes f l.floor (q.seq, l.lane)

/-- Whether the byte ranges of two lanes meet. -/
def lanesMeet (a : LaneReq) (na : Nat) (b : LaneReq) (nb : Nat) : Bool :=
  a.asid == b.asid && decide (a.va < b.va + nb ∧ b.va < a.va + na)

/-- R114: the accesses of the same group to the same bytes that come before a lane and are still to be performed, by unit, operation and lane: older ones of its unit, and within one request those of lower lanes; those that the group issued before its `br.div`; and those of the other threads of a fragment, in the order in which their words issued, lower lanes first where they issued together (R150, R189; log entry 116). -/
def State.blockers (s : State) (uid : Nat) (u : Unit) (q : Req) (l : LaneReq) : List (Nat × Nat × Nat) :=
  let meets (i : Nat) (p : Req) (before : Nat → Bool) : List (Nat × Nat × Nat) :=
    if p.kind.isPrefetch then [] else (p.lanes.filter fun m => !m.done && before m.lane && lanesMeet l q.size m p.size).map fun m => (i, p.seq, m.lane)
  u.reqs.flatMap (fun p => meets uid p fun n => decide (p.seq < q.seq ∨ (p.seq = q.seq ∧ n < l.lane))) ++
  (match u.frag with
    | none => []
    | some f =>
      ((s.unit? f.parent).elim [] fun p => p.reqs.flatMap fun r => meets f.parent r fun _ => decide (r.seq < f.since)) ++
      (List.range s.units.length).flatMap fun i => match s.unit? i with
        | none => []
        | some x =>
          if i = uid ∨ !x.inFragment f.parent f.ctr then []
          else x.reqs.flatMap fun p => meets i p fun n => decide (p.joint < q.joint ∨ (p.joint = q.joint ∧ n < f.lane)))

/-- R114: whether one of them holds a lane back. A prefetch moves no value. -/
def State.olderPending (s : State) (uid : Nat) (u : Unit) (q : Req) (l : LaneReq) : Bool := !q.kind.isPrefetch && !(s.blockers uid u q l).isEmpty

/-- A lane of a unit's request, changed. -/
def State.modLane (s : State) (uid seq lane : Nat) (f : LaneReq → LaneReq) : State :=
  s.modUnit uid fun u => { u with reqs := u.reqs.map fun q =>
    if q.seq = seq then { q with lanes := q.lanes.map fun l => if l.lane = lane then f l else l } else q }

/-- R244: a packet's completion time reaches every lane that it carries. -/
def State.doneTags (s : State) (tags : List (Nat × Nat × Nat)) (ctime : Nat) : State :=
  tags.foldl (fun (a : State) (t : Nat × Nat × Nat) =>
    a.modLane t.1 t.2.1 t.2.2 fun m => { m with done := true, wrote := true, ctime := ctime }) s

/-- R113, R114, R203, R258, R259, R381: the next part of a plain lane is performed at its place, held beside a region's words, or, after its team has been terminated, performed or dropped. -/
def State.plainPart (s : State) (uid : Nat) (u : Unit) (q : Req) (l : LaneReq) : State :=
  let core := s.unitCore u
  let ended := s.teamEnded u
  let n := q.part ended
  let q' := { q with size := n }
  let p := l.partOf n
  let put (t : State) (m : LaneReq) : State := (t.modLane uid q.seq l.lane fun _ => l.joined m n q.size).doneTags l.tags m.ctime
  if q.kind.writes && s.inRegionSet p.asid p.va n then
    if l.held then s else s.modLane uid q.seq l.lane fun m => { m with held := true }
  else if ended && l.tags.isEmpty && (Config.free s.free 31).getLsbD 0 then put s.fresh p
  else
    let s0 := (if ended then s.fresh else s).dueRecalls core l.floor
    let out := s0.performPlain core q' p
    put (if q.kind.isPrefetch then out.1 else out.1.barMerges (u.root uid) p.asid (p.va / 128) (wordMask (p.va % 128) n)) out.2

/-- R249 to R252: the next part of a region's lane. -/
def State.regionPart (s : State) (uid : Nat) (u : Unit) (g : Nat) (q : Req) (l : LaneReq) : State :=
  let n := q.part false
  let q' := { q with size := n }
  let p := l.partOf n
  if !l.waitsFor.isEmpty && l.waitsFor.all (fun r => (s.openRegion? r).isSome) then s
  else match s.performRegion g q' p with
  | .done s1 old =>
    let done : LaneReq := { p with result := old, ok := (atomNew q.op q.ety old p.data (p.data2.setWidth 128)).2, stamp := s1.sliceStamp p.asid (p.va / 128) }
    let seen := (s1.fence (s.unitCore u) p.asid (p.va / 128) (wordMask (p.va % 128) n)).barMerges (u.root uid) p.asid (p.va / 128) (wordMask (p.va % 128) n)
    seen.modLane uid q.seq l.lane fun _ => l.joined done n q.size
  | .stall s1 rs => s1.modLane uid q.seq l.lane fun m => { m with waitsFor := rs }
  | .abort st => s.abortRegion g st

/-- R404, R406: the request of a lane to the device that holds its frame. -/
def State.remoteReq (s : State) (q : Req) (l : LaneReq) : RemoteReq :=
  { dev := s.deviceId, pa := l.pa, kind := (match q.kind with
      | .load _ => 0
      | .store => 1
      | .red => 5
      | _ => 2), size := q.size, op := q.op, ety := q.ety, data := l.data, data2 := l.data2, floor := l.floor, unc := q.rtype != 2 }

/-- R404, R407: a lane whose frame another device holds: its request leaves, and once it has left the answer comes, which is free; whether it is poisoned was known at issue (R115). A write's completion time lies between the sending and some time after. -/
def State.remotePart (s : State) (uid dev : Nat) (q : Req) (l : LaneReq) : State :=
  let key : Option (Nat × Nat × Nat) := some (uid, q.seq, l.lane)
  let ask : Outgoing := { dest := dev, req := s.remoteReq q l, lane := key }
  if !l.sent then
    { s with outbox := s.outbox ++ [ask] }.modLane uid q.seq l.lane fun m => { m with sent := true, ctime := s.now }
  else if s.outbox.any fun o => o.lane == key then s
  else
    let old := BitVec.ofNat 128 (s.remoteData.toNat % 2 ^ (8 * q.size))
    let t := l.ctime + (Config.free s.free 3).toNat % (s.now - l.ctime + 16384)
    let stamp := (Config.free s.free 5).toNat % max 1 (s.now - 20)
    let m : LaneReq := match q.kind with
      | .load _ => { l.finish old stamp with ctime := 0 }
      | .store => l.wrote! t
      | _ =>
        let r := atomNew q.op q.ety old l.data (l.data2.setWidth 128)
        { l with done := true, result := old, ok := r.2, wrote := r.1.isSome, stamp := stamp, ctime := if r.1.isSome then t else 0 }
    (s.fresh.modLane uid q.seq l.lane fun _ => m).doneTags l.tags t

/-- R203, R258, R259: a pending lane is performed at its place, a part at a time, or held beside a region's words, or stalls or aborts as a region access, or leaves for another device. -/
def State.laneStep (s : State) (uid : Nat) (u : Unit) (q : Req) (l : LaneReq) : State :=
  if l.done || l.merged || s.olderPending uid u q l then s
  else if q.region then
    match u.region.bind s.openRegion? with
    | none => s
    | some g => s.regionPart uid u g.id q l
  else if l.attr.host.isSome then s
  else match l.attr.device with
  | some dev => s.remotePart uid dev q l
  | none => s.plainPart uid u q l

/-- A lane of a request, by the numbers of its operation and of the lane. -/
def State.laneOf (s : State) (uid seq lane : Nat) : Option (Unit × Req × LaneReq) :=
  (s.unit? uid).bind fun u => (u.reqs.find? fun q => q.seq == seq).bind fun q => (q.lanes.find? fun l => l.lane == lane).map fun l => (u, q, l)

/-- Some parts of a lane, one after another. -/
def State.laneSteps (uid seq lane : Nat) : Nat → State → State
  | 0, s => s
  | n + 1, s => match s.laneOf uid seq lane with
    | none => s
    | some (u, q, l) => State.laneSteps uid seq lane n (s.laneStep uid u q l)

/-- R115, R276, R396: the state in which the lanes `now` of an operation have been performed, in at most four parts each, or in which the region they belong to has been decided; none while some of them cannot be. -/
def State.performNow (s : State) (uid seq : Nat) (now : List Nat) : Option State :=
  let t := now.foldl (fun (a : State) (l : Nat) => State.laneSteps uid seq l 4 a) s
  let decided := (t.unit? uid).elim true fun u => u.region.elim false fun r => (t.openRegion? r).isNone
  if decided || now.all fun l => (t.laneOf uid seq l).elim false fun x => x.2.2.done then some t else none

/-- R115, R396: the state in which every lane of the operations from number `n` on that reads beside poison has been performed, for the units listed. -/
def State.readsNow (s : State) (n : Nat) (uids : List Nat) : Option State :=
  let reads (q : Req) : Bool := match q.kind with
    | .store => false
    | .prefetch => false
    | _ => true
  let one (uid : Nat) (a : Option State) (q : Req) : Option State :=
    if q.seq < n ∨ !reads q then a
    else a.bind fun t => match (q.lanes.filter fun l => t.sectorMarked l.xlate).map fun l => l.lane with
      | [] => some t
      | now => t.performNow uid q.seq now
  uids.foldl (fun (a : Option State) (uid : Nat) => ((s.unit? uid).elim [] fun u => u.reqs).foldl (one uid) a) (some s)

/-- A pending lane, by its place among its unit's requests, takes its step. -/
def performLane (uid r i : Nat) (s : State) : Out :=
  match s.unit? uid with
  | none => .next s
  | some u => match nth? u.reqs r with
    | none => .next s
    | some q => match nth? q.lanes i with
      | none => .next s
      | some l => .next (s.laneStep uid u q l)

/-- R235: a younger `.wt` read or prefetch takes the data and stamp of an older pending read of the same line and floor. A merged prefetch leaves no copy, nor does a merged load (log entry 102). -/
def mergeLane (uid r i : Nat) (uo ro lo : Nat) (s : State) : Out :=
  match (s.unit? uid).bind fun u => (nth? u.reqs r).bind fun q => (nth? q.lanes i).map fun l => (u, q, l),
        (s.unit? uo).bind fun u => (nth? u.reqs ro).bind fun q => (nth? q.lanes lo).map fun l => (q, l) with
  | some (u, q, l), some (q', l') =>
    let off := l.va % 128
    let mask : BitVec 32 := match q.kind with
      | .prefetch => 0
      | _ => wordMask off q.size
    let core := s.unitCore u
    match l'.fill with
    | some f =>
      if !l.done && !q.kind.writes && l.at_ == 0 && !l.attr.host.isSome && !s.uncached l.xlate && !q.region && q.rtype == 0 && s.hasL1 core &&
         decide (q'.seq < q.seq) && l'.floor == l.floor && l'.asid == l.asid && l'.va / 128 == l.va / 128 && (f.mask &&& mask) == mask &&
         !(l'.barred.any fun b => b.1 == u.root uid && (b.2 &&& mask) != 0) && !s.olderPending uid u q l then
        let s1 := ((s.fence core l.asid (l.va / 128) mask).barMerges (u.root uid) l.asid (l.va / 128) mask).modLane uo q'.seq l'.lane
          fun m => { m with barred := l'.barred }
        .next (s1.modLane uid q.seq l.lane fun m => m.finish (readWords (sget f.words) off q.size) l'.stamp)
      else .next s
    | none => .next s
  | _, _ => .next s

/-- R244: a packet of a reduction is combined into an older one that waits for the same word; it carries the greater floor. Nothing of its group stands before it but what that packet carries, and lanes of its own word. -/
def combineLane (uid r i : Nat) (uo ro lo : Nat) (s : State) : Out :=
  match (s.unit? uid).bind fun u => (nth? u.reqs r).bind fun q => (nth? q.lanes i).map fun l => (u, q, l),
        (s.unit? uo).bind fun u => (nth? u.reqs ro).bind fun q => (nth? q.lanes lo).map fun l => (q, l) with
  | some (u, q, l), some (q', l') =>
    let waits (m : LaneReq) : Bool := !m.done && !m.merged && !m.held && !m.sent && !m.attr.host.isSome
    if q.kind == .red && q'.kind == .red && !q.det && !q'.det && !q.region && !q'.region && q.op == q'.op && q.ety == q'.ety &&
       l.asid == l'.asid && l.va == l'.va && waits l && waits l' &&
       decide ((q'.seq < q.seq ∨ (q'.seq = q.seq ∧ l'.lane < l.lane)) ∧ l.tags.length + l'.tags.length + 2 ≤ 8) &&
       ((s.blockers uid u q l).all fun b => (b.1 == uid && b.2.1 == q.seq) || b == (uo, q'.seq, l'.lane) || l'.tags.contains b) then
      let d := match (atomNew q.op q.ety l'.data l.data 0).1 with
        | some x => x
        | none => l'.data
      let s1 := s.modLane uid q.seq l.lane fun m => { m with merged := true, tags := [] }
      .next (s1.modLane uo q'.seq l'.lane fun m => { m with data := d, floor := max m.floor l.floor, tags := m.tags ++ l.tags ++ [(uid, q.seq, l.lane)] })
    else .next s
  | _, _ => .next s

/-- R111, Table 3.1: a loaded value placed in its registers, lowest first. -/
def loadRegs (size : Nat) (signed : Bool) (x : BitVec 128) : List W64 :=
  match size with
  | 1 => [(if signed then (x.setWidth 8).signExtend 32 else (x.setWidth 8).setWidth 32 : W32).setWidth 64]
  | 2 => [(if signed then (x.setWidth 16).signExtend 32 else (x.setWidth 16).setWidth 32 : W32).setWidth 64]
  | n => (List.range (n / 4)).map fun i => (x.extractLsb' (32 * i) 32).setWidth 64

/-- The writes of returned values: lanes that have exited discard theirs (R107). -/
def returnWrites (u : Unit) (dest span : Nat) (rows : List (Nat × List W64)) : List RegWrite :=
  let live := rows.filter fun r => u.launched.getLsbD r.1
  (List.range span).map fun i => { kind := .v, idx := dest + i, vals := live.map fun r => (r.1, nth 0 r.2 i) }

/-- A finished request leaves its unit and its operation returns; stamps and, for writes, the completion times join the unit's (R226, R231). -/
def Unit.finishReq (u : Unit) (q : Req) : Unit :=
  let u1 := { u with
    reqs := u.reqs.filter fun p => p.seq != q.seq
    stamp := match q.kind with
      | .load _ => q.lanes.foldl (fun (m : Nat) (l : LaneReq) => max m l.stamp) u.stamp
      | .atom => q.lanes.foldl (fun (m : Nat) (l : LaneReq) => max m l.stamp) u.stamp
      | _ => u.stamp
    wct := q.lanes.foldl (fun (m : Nat) (l : LaneReq) => if l.wrote then max m l.ctime else m) u.wct }
  u1.returnOp q.seq

/-- A request all of whose lanes are performed. -/
def State.readyReq (s : State) (uid r : Nat) : Option (Unit × Req) :=
  (s.unit? uid).bind fun u => (nth? u.reqs r).bind fun q => if q.lanes.all fun l => l.done then some (u, q) else none

/-- R111, R117, R166: a load's values reach their registers and the `ld` counter drops. A prefetch brings none, and has no counter (R118). -/
def returnLoad (uid r : Nat) (s : State) : Out :=
  match s.readyReq uid r with
  | some (u, q) =>
    match q.kind with
    | .load signed =>
      let u1 := u.finishReq q
      let ws := if q.uni then q.lanes.map fun l => { kind := .u, idx := q.dest, vals := [(0, l.result.setWidth 64)] : RegWrite }
        else returnWrites u q.dest q.span (q.lanes.map fun l => (l.lane, loadRegs q.size signed l.result))
      .next (s.landWrites uid u1 ws)
    | .prefetch => .next (s.setUnit uid { u with reqs := u.reqs.filter fun p => p.seq != q.seq })
    | _ => .next s
  | none => .next s

/-- R117, R243: a store's or reduction's completion time reaches the group. -/
def completeStore (uid r : Nat) (s : State) : Out :=
  match s.readyReq uid r with
  | some (u, q) =>
    match q.kind with
    | .store => .next (s.setUnit uid (u.finishReq q))
    | .red => .next (s.setUnit uid (u.finishReq q))
    | _ => .next s
  | none => .next s

/-- R274, R275: an atomic's old values and success reach the group. -/
def returnAtom (uid r : Nat) (s : State) : Out :=
  match s.readyReq uid r with
  | some (u, q) =>
    if q.kind = .atom then
      let u1 := u.finishReq q
      let ws := returnWrites u q.dest q.span (q.lanes.map fun l => (l.lane, loadRegs q.size false l.result)) ++
        (match q.okPred with
          | some p => [{ kind := .p, idx := p, vals := (q.lanes.filter fun l => u.launched.getLsbD l.lane).map fun l => (l.lane, if l.ok then 1 else 0) }]
          | none => [])
      .next (s.landWrites uid u1 ws)
    else .next s
  | none => .next s

/-- R421: the host completes the accesses of a request that go through a host window, which fixes their completion times. -/
def hostComplete (uid r : Nat) (s : State) : Out :=
  match s.unit? uid with
  | none => .next s
  | some u => match nth? u.reqs r with
    | none => .next s
    | some q =>
      match q.lanes.find? fun l => l.attr.host.isSome && !l.done && !q.region && !s.olderPending uid u q l with
      | none => .next s
      | some l => .next (s.plainPart uid u q l)

/-- R203. C2 load, store, atomic or reduction performed at its home slice. -/
def execSliceRequest (u r l : Nat) (act : ReqAction) (s : State) : Out :=
  match act with
  | .perform => performLane u r l s
  | .mergeRead u' r' l' => mergeLane u r l u' r' l' s
  | .combine u' r' l' => combineLane u r l u' r' l' s

/-- R117. Load value written to registers and ld counter lowered. -/
def execLoadReturn (u r : Nat) (s : State) : Out := returnLoad u r s

/-- R117. Completion time returns, st counter lowered, wct raised. -/
def execStoreCompletion (u r : Nat) (s : State) : Out := completeStore u r s

/-- R275. Old value and completion time return and at counter lowered. -/
def execAtomicReturn (u r : Nat) (s : State) : Out := returnAtom u r s

/-- R421. The host completes an access through a host window. -/
def execHostCompletion (u r : Nat) (s : State) : Out := hostComplete u r s

end Sys2Proof.Machine
end

