-- ==== Sys2Proof/Machine/Levels.lean ====
section
/-!
DEFINITION. The steps that the levels of memory take of their own (R201 to R206, R212, R213, R216, R217, R224), and those of forwarding atomic regions (R251, R253, R255, R256).
-/

namespace Sys2Proof.Machine

/-- R203, R220: a recall reaches its owner, behind the earlier ones from the same slice to the same core. -/
def deliverRecall (k : Nat) (s : State) : Out :=
  match nth? s.recalls k with
  | none => .next s
  | some r =>
    if (s.recalls.take k).any fun q => q.core == r.core && q.home == r.home then .next s
    else .next ({ s with recalls := dropNth s.recalls k }.recallWords r)

/-- R203, R204, Table 10.5: an L1 line leaves its core: an owner writes back and ownership ends, a copy is dropped. -/
def State.evictL1 (s : State) (l : L1Line) : State :=
  if l.owned then s.lineRecall l.asid l.line else s.dropL1 l.core l.asid l.line

def evictL1At (k : Nat) (s : State) : Out :=
  match nth? s.l1 k with
  | none => .next s
  | some l => .next (s.evictL1 l)

/-- R206, R216, R224: a line of L2 that is not pinned goes back to its tower. -/
def evictL2At (k : Nat) (s : State) : Out :=
  match nth? s.l2 k with
  | none => .next s
  | some b => if s.pinned b then .next s else .next ((s.lineRecall b.asid b.line).evictL2 b.asid b.line)

/-- R201, R212: a redirect teaches a port the home of a page, and the remap filter the canonical name of a shared one. Both affect only time. -/
def redirect (cluster asid vpn : Nat) (s : State) : Out :=
  match s.translate asid (vpn * 65536) false with
  | .error _ => .next s
  | .ok x =>
    let page := (cluster, x.asid, x.va / 65536)
    let port := s.homeCache.filter fun e => e.1 == cluster && e != page
    let others := s.homeCache.filter fun e => e.1 != cluster
    let s1 := { s with homeCache := others ++ page :: port.take 255 }
    if x.asid = asid ∧ x.va / 65536 = vpn then .next s1
    else
      let entry := (x.home, asid, vpn, x.asid, x.va / 65536)
      let mine := s.remaps.filter fun e => e.1 == x.home && e != entry
      let rest := s.remaps.filter fun e => e.1 != x.home
      .next { s1 with remaps := rest ++ entry :: mine.take 4095 }

/-- R224: a leased copy whose expiry its core's clock has reached is gone. -/
def expireLease (k : Nat) (s : State) : Out :=
  match nth? s.l1 k with
  | none => .next s
  | some l => if s.l1Live l then .next s else .next (s.dropL1 l.core l.asid l.line)

/-- R216: a pin whose expiry has passed ends. -/
def expirePin (k : Nat) (s : State) : Out :=
  match nth? s.l2 k with
  | none => .next s
  | some b =>
    if b.pin ≠ 0 ∧ !s.pinned b then .next (s.modL2 b.asid b.line fun b => { b with pin := 0 }) else .next s

/-- Whether a line of 57-bit addresses lies at least in part in a range of them. -/
def lineIn (base len line : Nat) : Bool := decide (len ≠ 0 ∧ line * 128 < base + len ∧ base < line * 128 + 128)

/-- R213: an access that was translated under the mapping of a range and is not yet performed. -/
def State.translatedIn (s : State) (asid base len : Nat) : Bool :=
  s.units.any fun u => u.reqs.any fun q => q.lanes.any fun l =>
    !l.done && ((l.asid == asid && lineIn base len (l.va / 128)) || (s.unitAsid u == asid && lineIn base len (va57 l.ea / 128)))

/-- R255: the regions that hold a version of a word in a range abort. -/
def State.abortRange (s : State) (asid base len status : Nat) : State :=
  let rs := ((s.versions.filter fun v => v.asid == asid && decide (base ≤ v.word * 4 + 3 ∧ v.word * 4 < base + len)).map fun v => v.region).eraseDups
  rs.foldl (fun (a : State) (r : Nat) => a.abortRegion r status) s

/-- The L2 lines of an ASID in a range. -/
def State.l2In (s : State) (asid base len : Nat) : List L2Line := s.l2.filter fun b => b.asid == asid && lineIn base len b.line

/-- R213, R217: a shootdown: filters and home caches forget the range, owners and L2 write back, copies and pins go, regions with versions there abort. It completes when every access translated before has been performed. -/
def shootdown (asid : Nat) (base : W64) (len : Nat) (s : State) : Out :=
  let b := va57 base
  if s.translatedIn asid b len then .next s
  else
    let pages (a vpn : Nat) : Bool := a == asid && decide (len ≠ 0 ∧ vpn * 65536 < b + len ∧ b < vpn * 65536 + 65536)
    let lines := s.l2In asid b len
    let s1 := { s with
      homeCache := s.homeCache.filter fun e => !(pages e.2.1 e.2.2)
      remaps := s.remaps.filter fun e => !(pages e.2.1 e.2.2.1) && !(pages e.2.2.2.1 e.2.2.2.2) }
    let lost (a : State) (l : L2Line) : State :=
      if !s.pinned l then a else a.postEvent l.pinCtx 1 ((BitVec.ofNat 57 (l.line * 128)).signExtend 64) (BitVec.ofNat 64 l.asid) 0
    let s2 := lines.foldl (fun (a : State) (l : L2Line) => ((lost a l).lineRecall l.asid l.line).evictL2 l.asid l.line) s1
    let s3 := { s2 with
      l1 := s2.l1.filter fun l => !(l.asid == asid && lineIn b len l.line)
      poisonL1 := s2.poisonL1.filter fun p => !(p.2.1 == asid && lineIn b len (p.2.2 / 32)) }
    .next (s3.abortRange asid b len 3)

/-- R251: an edge between dies reaches both signal boxes. -/
def deliverEdge (k : Nat) (s : State) : Out :=
  match nth? s.edges k with
  | none => .next s
  | some e => if e.delivered then .next s else .next { s with edges := modNth (fun (x : Edge) => { x with delivered := true }) s.edges k }

/-- R253: whether a region's predecessors have all ended and every edge of it is known to both of its signal boxes. -/
def State.mayCommit (s : State) (r : Nat) : Bool :=
  !(s.edges.any fun e => e.dst == r && e.stalled.isNone) && !(s.edges.any fun e => e.src == r && !e.delivered && e.stalled.isNone)

/-- R253, R292: the commit of a region whose group waits at `far.end`. -/
def commitAt (r : Nat) (s : State) : Out :=
  match s.openRegion? r with
  | none => .next s
  | some reg =>
    match s.unit? reg.unit with
    | none => .next s
    | some u =>
      match u.wait with
      | .farEnd rd pcNext stepNext =>
        if s.mayCommit r then
          .next ((s.commitRegion r reg).modUnit reg.unit fun x =>
            { x.putVar ⟨.u, rd, [(0, 0)]⟩ with wait := .none, pc := pcNext, step := stepNext })
        else .next s
      | _ => .next s

/-- Table 12.3: a region open for longer than its context's `farto` aborts with status 4. -/
def timeoutRegion (r : Nat) (s : State) : Out :=
  match s.openRegion? r with
  | none => .next s
  | some reg =>
    let farto := match ((s.unit? reg.unit).bind fun u => s.team? u.team).bind fun t => s.ctx? t.ctx with
      | some c => c.entry.farto
      | none => 0
    if reg.opened + farto * 1000 < s.now then .next (s.abortRegion r 4) else .next s

/-- R256: a group takes a decided abort. -/
def abortTaken (uid : Nat) (s : State) : Out :=
  match s.unit? uid with
  | none => .next s
  | some u => if u.live && s.abortPending u then .next (s.takeAbort uid) else .next s

/-- R203. C3 recall fetches or invalidates words that an owner holds. -/
def execWordRecall (k : Nat) (s : State) : Out := deliverRecall k s

/-- R203. C3 recall ends ownership of a line, or an L1 evicts one. -/
def execLineRecall (k : Nat) (s : State) : Out := evictL1At k s

/-- R206. Slice sends a tower request: a line of L2 goes back to its tower. -/
def execTowerRequest (k : Nat) (s : State) : Out := evictL2At k s

/-- R201. Redirect reply to a cluster port. -/
def execRedirectReply (cluster asid vpn : Nat) (s : State) : Out := redirect cluster asid vpn s

/-- R224. A leased L1 copy expires. -/
def execLeaseExpiry (k : Nat) (s : State) : Out := expireLease k s

/-- R216. A pin expires. -/
def execPinExpiry (k : Nat) (s : State) : Out := expirePin k s

/-- R213. System software invalidates mappings of an ASID range. -/
def execShootdown (asid : Nat) (base : BitVec 64) (len : Nat) (s : State) : Out := shootdown asid base len s

/-- R251. Dependence edge exchanged between signal boxes. -/
def execRegionEdge (k : Nat) (s : State) : Out := deliverEdge k s

/-- R253. Region commits after its predecessors at one commit instant. -/
def execRegionCommit (r : Nat) (s : State) : Out := commitAt r s

/-- R256. Group takes a decided abort and continues at the handler. -/
def execAbortTaken (u : Nat) (s : State) : Out := abortTaken u s

/-- R255. Region open longer than `farto` aborts with status 4. -/
def execRegionTimeout (r : Nat) (s : State) : Out := timeoutRegion r s

end Sys2Proof.Machine
end

