-- ==== Sys2Proof/Machine/Global.lean ====
section
/-!
DEFINITION. The issue of global accesses: loads, stores and prefetches of class 14 (R109 to R118), `s.ld` (R166), atomics and reductions of class 16 (R272 to R278).
-/

namespace Sys2Proof.Machine

/-- R38, R39: a memory operand. -/
structure MemOperand where
  mode : BitVec 2
  sbase : Nat
  vindex : Nat
  scale : Nat
  off : W64
deriving DecidableEq, Repr

def AMoperand (w : AM) : MemOperand :=
  { mode := w.mode, sbase := w.sbase.toNat, vindex := w.vindex.toNat, scale := w.scale.toNat, off := w.off.signExtend 64 }

def AMToperand (w : AMT) : MemOperand :=
  { mode := w.mode, sbase := w.sbase.toNat, vindex := w.vindex.toNat, scale := w.scale.toNat, off := w.off.signExtend 64 }

/-- The index register of an operand; mode 2 has none. -/
def MemOperand.index (m : MemOperand) : Src := .vec m.vindex 1 0

def MemOperand.srcs (m : MemOperand) : List Src := if m.mode = 2 then [.base m.sbase] else [.base m.sbase, m.index]

/-- R109, R272: the effective address of a lane. -/
def State.ea (s : State) (u : Unit) (m : MemOperand) (l : Nat) : W64 :=
  let idx : W64 :=
    if m.mode = 0 then (s.arg32 u m.index l).signExtend 64
    else if m.mode = 1 then (s.arg32 u m.index l).setWidth 64
    else 0
  u.uget m.sbase + (idx <<< m.scale) + m.off

/-- The data of a lane in `n` consecutive registers, lowest first. -/
def State.argWide (s : State) (u : Unit) (x : Src) (l n : Nat) : BitVec 128 :=
  BitVec.ofNat 128 ((List.range n).foldr (fun i a => (s.srcWord u x l i).toNat + 2 ^ 32 * a) 0)

/-- What the checks of R115 say of an access: a trap, a translation fault of a lane, or the lanes with their translations. -/
inductive Check where
  | trap (cause : Nat) (tval : W64)
  | park (addr : W64) (reason lane : Nat)
  | ok (lanes : List (Nat × W64 × Xlate))
deriving DecidableEq, Repr

/-- The places of the lanes, or the first lane whose address has none. -/
def locateAll (find : W64 → Except Nat Xlate) : List (Nat × W64) → Except (Nat × W64 × Nat) (List (Nat × W64 × Xlate))
  | [] => .ok []
  | (l, a) :: rest =>
    match find a with
    | .error r => .error (l, a, r)
    | .ok x =>
      match locateAll find rest with
      | .error e => .error e
      | .ok xs => .ok ((l, a, x) :: xs)

/-- A lane of a request that is checked and not yet performed; its packet carries the group's floor (R231). -/
def laneReq (floor lane : Nat) (ea : W64) (x : Xlate) (data : BitVec 128) (data2 : BitVec 64) : LaneReq :=
  { lane := lane, ea := ea, asid := x.asid, va := x.va, pa := x.pa, attr := x.attr, shared := x.shared, permW := x.permW, data := data, data2 := data2,
    floor := floor, at_ := 0, sent := false, done := false, held := false, waitsFor := [], result := 0, ok := true, wrote := false, stamp := 0,
    ctime := 0, fill := none, barred := [], merged := false, tags := [] }

/-- What a word of global access needs beside its shape: the kind of its request, its size, the path it counts on, the access code of its fault record, whether it writes and reads, its destination. -/
structure GlobalAccess where
  kind : ReqKind
  size : Nat
  path : Path
  access : Nat
  write : Bool
  read : Bool
  rtype : Nat
  scope : Nat
  op : Nat
  ety : Nat
  uni : Bool
  dest : Nat
  span : Nat
  okPred : Option Nat
deriving DecidableEq, Repr

/-- Table 5.4, Table 11.5: whether an L1 may serve an access of this kind. -/
def GlobalAccess.useL1 (g : GlobalAccess) : Bool :=
  match g.kind with
  | .load _ => decide (g.rtype ≤ 1)
  | .store => decide (g.rtype ≠ 3)
  | .atom => decide (g.rtype ≤ 1 ∧ g.scope ≤ 2)
  | .red => false
  | .prefetch => decide (g.rtype ≤ 1)

/-- An access of the group that is performed at the home: a `.si` load (R282), or an 8-byte atomic at device scope (R297, R298). -/
def homeAccess (size : Nat) (write : Bool) : GlobalAccess :=
  { kind := if write then .atom else .load false, size := size, path := .ld, access := if write then 3 else 1, write := write, read := true, rtype := 2, scope := 4
    op := 0, ety := 7, uni := false, dest := 0, span := 0, okPred := none }

/-- The request of a word: its team's lease and `det` as they stand at issue (R224, R245). -/
def State.request (s : State) (u : Unit) (g : GlobalAccess) (lanes : List LaneReq) : Req :=
  { seq := s.seq, pc := u.pc.signExtend 64, kind := g.kind, size := g.size, rtype := g.rtype, scope := g.scope, op := g.op, ety := g.ety
    lease := (s.team? u.team).elim 512 fun t => t.lease
    det := (s.team? u.team).elim false fun t => t.det
    region := u.region.isSome, joint := s.seq, uni := g.uni, dest := g.dest, span := g.span, okPred := g.okPred, lanes := lanes }

/-- R209, R405: where an address of a unit lies for an access. A home on another device answers before the word is done; a region has none there to ask (R249). -/
def State.place (s : State) (u : Unit) (g : GlobalAccess) (a : W64) : Except Nat Xlate :=
  match s.locateAt (s.unitCore u) (s.unitAsid u) (va57 a) g.size g.write g.useL1 with
  | .ok x => if u.region.isNone && s.homeRefuses x then .error 5 else .ok x
  | .error r => .error r

/-- R115, R276: the checks of a global access, in their order. -/
def State.checkGlobal (s : State) (u : Unit) (g : GlobalAccess) (lanes : List (Nat × W64)) : Check :=
  match lanes.find? fun x => x.2.toNat % g.size != 0 with
  | some x => .trap 0x04 x.2
  | none =>
    match lanes.find? fun x => !canonical x.2 with
    | some x => .trap 0x12 x.2
    | none =>
      match locateAll (s.place u g) lanes with
      | .error (l, a, r) => .park a r l
      | .ok xs =>
        match if g.write then xs.find? fun x => s.sealedAt (s.unitAsid u) x.2.1 x.2.2 else none with
        | some x => .trap 0x11 x.2.1
        | none =>
          match if g.read then xs.find? fun x => s.readsPoison u.region (s.unitCore u) (s.request u g []) (laneReq u.floor x.1 x.2.1 x.2.2 0 0) else none with
          | some x => .trap 0x13 x.2.1
          | none => .ok xs

/-- R18: the bytes of its frames that a running grid writes. -/
def State.noteCode (s : State) (team : Nat) (pas : List Nat) : State :=
  match s.team? team with
  | none => s
  | some t => { s with grids := modNth (fun (g : Grid) => { g with written := g.written ++ pas.filter fun a => !(g.written.contains a) }) s.grids t.grid }

/-- The frame bytes of the lanes of a write. -/
def writtenBytes (size : Nat) (xs : List (Nat × W64 × Xlate)) : List Nat := xs.flatMap fun x => (List.range size).map fun i => x.2.2.pa + i

/-- R248, R282, R298, R367: the group for an access of its own that no region takes in: those of `wait.tl`, of a ring's header and of `lq.push`. -/
def Unit.plain (u : Unit) : Unit := { u with region := none }

/-- What the homes of lanes on other devices have answered at an issue is not asked again. -/
def State.asked (s : State) (xs : List (Nat × W64 × Xlate)) : State := if xs.any fun x => x.2.2.attr.device.isSome then s.fresh else s

/-- R115, R117, R227: the frame of a counted global access: its lanes are checked, the counter rises, and the request leaves. Lanes that read beside poison are performed at once, so that the check holds for what they read (log entry 101). -/
def globalOp (sh : Shape) (g : GlobalAccess) (lanes : State → Unit → List (Nat × W64)) (data : State → Unit → Nat → BitVec 128 × BitVec 64) (s : State) : Out :=
  s.issueGlobal sh fun uid u =>
    match s.checkGlobal u g (lanes s u) with
    | .trap c v => s.raise uid u sh.len c v
    | .park a r l =>
      if u.drained then (s.setUnit uid { u with lastIssue := s.tick }).parkFault uid a g.access r (some l) else s.waits uid u .drain
    | .ok xs =>
      if u.pathFull g.path then s.waits uid u .counter
      else
        let reqs := xs.map fun x => laneReq u.floor x.1 x.2.1 x.2.2 (data s u x.1).1 (data s u x.1).2
        let u1 := { u.raiseOp g.path s.seq with reqs := u.reqs ++ [s.request u g reqs] }
        let s1 := if g.write then s.noteCode u.team (writtenBytes g.size xs) else s
        let t := ((s1.retire uid u1 sh).takeSeq).asked xs
        if 1 < (s.together u).length then t else (t.readsNow s.seq [uid]).getD (s.waits uid u .drain)

/-- The lanes of a word with their effective addresses. -/
def laneAddrs (guard : BitVec 4) (m : MemOperand) (s : State) (u : Unit) : List (Nat × W64) :=
  (u.guardedLanes guard).map fun l => (l, s.ea u m l)

/-- Table 5.3: bytes, registers and sign of an access code. -/
def accessBytes (code : Nat) : Nat :=
  match code with
  | 0 => 1
  | 1 => 1
  | 2 => 2
  | 3 => 2
  | 4 => 4
  | 5 => 8
  | 6 => 16
  | 8 => 1
  | 9 => 2
  | 10 => 4
  | 11 => 8
  | _ => 16

def regsOf (bytes : Nat) : Nat := max 1 (bytes / 4)

def codeSigned (code : Nat) : Bool := code == 1 || code == 3

/-- R109, R111. Global load of 1 to 16 bytes per lane. -/
def execLd (w : AM) (s : State) : Out :=
  let m := AMoperand w
  let size := accessBytes w.code.toNat
  let n := regsOf size
  let sh := (formA64 14 (w.mode ++ w.code) w.toA64).shape m.srcs (spanRegs .v w.rd.toNat n)
  globalOp sh
    { kind := .load (codeSigned w.code.toNat), size := size, path := .ld, access := 1, write := false, read := true
      rtype := w.rtype.toNat, scope := w.scope.toNat, op := 0, ety := 0, uni := false, dest := w.rd.toNat, span := n, okPred := none }
    (laneAddrs w.guard m) (fun _ _ _ => (0, 0)) s

/-- R109, R111. Global store of 1 to 16 bytes per lane. -/
def execSt (w : AM) (s : State) : Out :=
  let m := AMoperand w
  let size := accessBytes w.code.toNat
  let n := regsOf size
  let d := Src.vec w.rd.toNat n 0
  let sh := (formA64 14 (w.mode ++ w.code) w.toA64).shape (m.srcs ++ [d]) []
  globalOp sh
    { kind := .store, size := size, path := .st, access := 2, write := true, read := false
      rtype := w.rtype.toNat, scope := w.scope.toNat, op := 0, ety := 0, uni := false, dest := 0, span := 0, okPred := none }
    (laneAddrs w.guard m) (fun s u l => (s.argWide u d l n, 0)) s

/-- R118: the lanes of a prefetch that do something. -/
def State.prefetchLanes (s : State) (u : Unit) (g : GlobalAccess) (lanes : List (Nat × W64)) : List LaneReq :=
  lanes.filterMap fun x =>
    if !canonical x.2 then none
    else match s.place u g x.2 with
      | .error _ => none
      | .ok t => if t.attr.device.isSome || t.attr.host.isSome then none else some (laneReq u.floor x.1 x.2 t 0 0)

/-- R118, R248. Bring a line towards the L1 or L2 without trapping from its address; nothing while a region is open. -/
def execPrefetch (w : AM) (s : State) : Out :=
  let m := AMoperand w
  let sh := (formA64 14 (w.mode ++ w.code) w.toA64).shape m.srcs []
  let g : GlobalAccess :=
    { kind := .prefetch, size := 1, path := .ld, access := 1, write := false, read := false, rtype := w.rtype.toNat
      scope := w.scope.toNat, op := 0, ety := 0, uni := false, dest := 0, span := 0, okPred := none }
  s.issue sh fun uid u =>
    let reqs := if u.region.isSome then [] else s.prefetchLanes u g (laneAddrs w.guard m s u)
    if reqs.isEmpty then s.retire uid u sh
    else (s.retire uid { u with reqs := u.reqs ++ [s.request u g reqs] } sh).takeSeq

/-- R166. Load 8 bytes into a uniform register. -/
def execSLd (w : AM) (s : State) : Out :=
  let m := AMoperand w
  let sh := { (formA64 11 13 w.toA64).shape [.uni w.sbase.toNat 1] [(.u, w.rd.toNat)] with pipe := true }
  globalOp sh
    { kind := .load false, size := 8, path := .ld, access := 1, write := false, read := true
      rtype := w.rtype.toNat, scope := w.scope.toNat, op := 0, ety := 0, uni := true, dest := w.rd.toNat, span := 1, okPred := none }
    (fun s u => [(0, s.ea u m 0)]) (fun _ _ _ => (0, 0)) s

/-- Table 13.1: the registers of a class 16 word: a value's, and all the data read at issue. -/
def atomValueRegs (ety : Nat) : Nat := atomSize ety / 4

def atomDataRegs (op ety : Nat) : Nat := if op = 7 ∨ op = 8 then 2 * atomValueRegs ety else atomValueRegs ety

/-- R272, Table 13.1: the data of a lane and, for `cas` and `addlim`, the second value. -/
def State.atomData (s : State) (u : Unit) (x : Src) (op ety l : Nat) : BitVec 128 × BitVec 64 :=
  let n := atomValueRegs ety
  let all := s.argWide u x l (atomDataRegs op ety)
  (BitVec.ofNat 128 (all.toNat % 2 ^ (32 * n)), BitVec.ofNat 64 (all.toNat / 2 ^ (32 * n)))

/-- R272 to R276, R278: a global atomic or reduction; `red` writes no register and counts on `st`. -/
def globalAtom (w : AMT) (form : BitVec 2) (red : Bool) (okPred : Option Nat) (s : State) : Out :=
  let m := AMToperand w
  let op := w.code.toNat
  let ety := w.ety.toNat
  let d := Src.vec w.rd.toNat (atomDataRegs op ety) 0
  let dsts := if red then [] else spanRegs .v w.rd.toNat (atomValueRegs ety)
  let oks := match okPred with
    | some p => [(RegKind.p, p)]
    | none => []
  let sh := (formA64 16 (form ++ w.code) w.toA64).shape (m.srcs ++ [d]) (dsts ++ oks)
  globalOp sh
    { kind := if red then .red else .atom, size := atomSize ety, path := if red then .st else .at_, access := if red then 4 else 3
      write := true, read := true, rtype := w.rtype.toNat, scope := w.scope.toNat, op := op, ety := ety, uni := false
      dest := w.rd.toNat, span := if red then 0 else atomValueRegs ety, okPred := okPred }
    (laneAddrs w.guard m) (fun s u l => s.atomData u d op ety l) s

/-- The predicate that the guard field of a word names. -/
def guardPred (g : BitVec 4) : Nat := (g.extractLsb' 0 3).toNat

/-- R274. Global atomic: read, modify, write, and the old value comes back. -/
def execAtom (w : AMT) (s : State) : Out := globalAtom w 0 false none s

/-- R274. Global compare and swap. -/
def execAtomCas (w : AMT) (s : State) : Out := globalAtom w 0 false none s

/-- R274. Global bounded add, whose success goes to the guard predicate. -/
def execAtomAddlim (w : AMT) (s : State) : Out := globalAtom w 0 false (some (guardPred w.guard)) s

/-- R278. Global reduction without a result. -/
def execRed (w : AMT) (s : State) : Out := globalAtom w 2 true none s

end Sys2Proof.Machine
end

