-- ==== Sys2Proof/Machine/Scratchpad.lean ====
section
/-!
DEFINITION. Scratchpad loads, stores and atomics (R193, R196, R269 to R271, R277), and their performance at the banks in program order, barrier operations among them (R158, R159, R183, R184, R230).
-/

namespace Sys2Proof.Machine

/-- R270: the checks of a scratchpad access over its lanes, in their order. -/
def State.spFault (s : State) (u : Unit) (size : Nat) (write read : Bool) (lanes : List (Nat × W64)) : Option (Nat × W64) :=
  let cl := s.clusterOfUnit u
  let ctx := (s.team? u.team).elim 0 fun t => t.ctx
  match lanes.find? fun x => x.2.toNat % size != 0 with
  | some x => some (0x04, x.2)
  | none =>
    match lanes.find? fun x => decide (2 ^ 20 ≤ x.2.toNat) || !s.sramAllowed ctx u.team cl x.2.toNat write with
    | some x => some (0x12, x.2)
    | none =>
      match if write then lanes.find? fun x => s.inHeader cl x.2.toNat size else none with
      | some x => some (0x11, x.2)
      | none =>
        match if read then lanes.find? fun x => s.sramPoisoned cl x.2.toNat size else none with
        | some x => some (0x13, x.2)
        | none => none

/-- What a scratchpad word needs beside its shape. -/
structure SpAccess where
  kind : SpKind
  size : Nat
  path : Path
  write : Bool
  read : Bool
  dest : Nat
  span : Nat
  okPred : Option Nat
deriving DecidableEq, Repr

/-- R269 to R271, R277: the frame of a scratchpad access: its lanes are checked, its counter rises, and it queues behind the earlier ones. -/
def spOp (sh : Shape) (g : SpAccess) (m : MemOperand) (data : State → Unit → Nat → BitVec 128 × BitVec 64) (s : State) : Out :=
  s.issue sh fun uid u =>
    let lanes := laneAddrs sh.guard m s u
    match s.spFault u g.size g.write g.read lanes with
    | some (c, v) => s.raise uid u sh.len c v
    | none =>
      if u.pathFull g.path then s.waits uid u .counter
      else
        let acc : SpAcc :=
          { seq := s.seq, joint := s.seq, kind := g.kind, size := g.size, cluster := s.clusterOfUnit u, dest := g.dest, span := g.span, okPred := g.okPred
            lanes := lanes.map fun x => { lane := x.1, addr := x.2.toNat, data := (data s u x.1).1, data2 := (data s u x.1).2, at_ := 0, result := 0, ok := true } }
        (s.retire uid { u.raiseOp g.path s.seq with spq := u.spq ++ [acc] } sh).takeSeq

/-- R269. Scratchpad load of 1 to 16 bytes per lane. -/
def execLdSp (w : AM) (s : State) : Out :=
  let m := AMoperand w
  let size := accessBytes w.code.toNat
  let n := regsOf size
  let sh := (formA64 15 (w.mode ++ w.code) w.toA64).shape m.srcs (spanRegs .v w.rd.toNat n)
  spOp sh { kind := .load (codeSigned w.code.toNat), size := size, path := .sp, write := false, read := true, dest := w.rd.toNat, span := n, okPred := none }
    m (fun _ _ _ => (0, 0)) s

/-- R269. Scratchpad store of 1 to 16 bytes per lane. -/
def execStSp (w : AM) (s : State) : Out :=
  let m := AMoperand w
  let size := accessBytes w.code.toNat
  let n := regsOf size
  let d := Src.vec w.rd.toNat n 0
  let sh := (formA64 15 (w.mode ++ w.code) w.toA64).shape (m.srcs ++ [d]) []
  spOp sh { kind := .store, size := size, path := .sp, write := true, read := false, dest := 0, span := 0, okPred := none }
    m (fun s u l => (s.argWide u d l n, 0)) s

/-- R277. Scratchpad atomic at the word's bank, counted on `at`. -/
def execAtomSp (w : AMT) (s : State) : Out :=
  let m := AMToperand w
  let op := w.code.toNat
  let ety := w.ety.toNat
  let d := Src.vec w.rd.toNat (atomDataRegs op ety) 0
  let okPred := if op = 8 then some (guardPred w.guard) else none
  let oks := match okPred with
    | some p => [(RegKind.p, p)]
    | none => []
  let n := atomValueRegs ety
  let sh := (formA64 16 (1#2 ++ w.code) w.toA64).shape (m.srcs ++ [d]) (spanRegs .v w.rd.toNat n ++ oks)
  spOp sh { kind := .atom op ety, size := atomSize ety, path := .at_, write := true, read := true, dest := w.rd.toNat, span := n, okPred := okPred }
    m (fun s u l => s.atomData u d op ety l) s

/-- The value of a scratchpad word of some bytes. -/
def State.spValue (s : State) (cluster addr size : Nat) : BitVec 128 := BitVec.ofNat 128 (s.sramBytes cluster addr size)

/-- R274, R277: one lane of a scratchpad atomic: the state after, the old value, and success. -/
def State.spAtom (s : State) (team cluster op ety : Nat) (l : SpLane) : State × BitVec 128 × Bool :=
  let n := atomSize ety
  let old := s.spValue cluster l.addr n
  let r := atomNew op ety old l.data (l.data2.setWidth 128)
  match r.1 with
  | some new => (s.sramWrite team cluster l.addr (bytesOf n new.toNat), old, r.2)
  | none => (s, old, r.2)

/-- R158 to R160, R184, R262, R263: one lane of `bar.arr`, and whether it is made: a count of 0 makes no arrival; a local word changes at once, a remote one gets a C1 message. One outside the team's own allocation flushes the team's buffers and comes after its updates. -/
def State.arrive (s : State) (uid seq team ctx cluster : Nat) (l : SpLane) : State × Bool :=
  let a := barAddr cluster (l.data2.setWidth 32)
  let count := l.data.toNat
  let own := s.ownWord team a
  let s0 := if own then s else s.flushPubs team
  if count = 0 then (s, true)
  else if a.remote then
    ({ s0 with signals := s0.signals ++
        [{ ctx := ctx, team := team, src := some (uid, seq), kind := .arrive count, cluster := a.cluster, sram := a.sram, target := a.bits.setWidth 64, globalVa := none }] },
      true)
  else if !own && s0.updatesOut team then (s0, false)
  else ((s0.changeWord ctx (some team) a.cluster a.sram (arriveWord count)).getD (s0.dropped ctx (some team) (some uid) (a.bits.setWidth 64) 0), true)

/-- R271, R274, R353, R381: the bytes of a lane that are performed at one instant: the whole of an access, or a word of a write whose team has been terminated. -/
def SpAcc.part (a : SpAcc) (ended : Bool) : Nat :=
  match a.kind with
  | .store => if ended then min a.size 4 else a.size
  | .barInit => if ended then min a.size 4 else a.size
  | _ => a.size

/-- A lane when `n` more bytes of it are performed and return `v`. -/
def SpLane.joined (l : SpLane) (n : Nat) (v : BitVec 128) (ok : Bool) : SpLane :=
  { l with at_ := l.at_ + n, result := l.result ||| v <<< (8 * l.at_), ok := ok }

/-- The next part of a lane performed at its bank; a lane whose arrival must wait stays as it is. -/
def State.spPart (s : State) (uid : Nat) (u : Unit) (a : SpAcc) (l : SpLane) (n : Nat) : State × SpLane :=
  let addr := l.addr + l.at_
  match a.kind with
  | .load _ => (s, l.joined n (s.spValue a.cluster addr n) true)
  | .atom op ety =>
    let r := s.spAtom u.team a.cluster op ety l
    (r.1, l.joined n r.2.1 r.2.2)
  | .arrive =>
    let r := s.arrive uid a.seq u.team ((s.team? u.team).elim 0 fun t => t.ctx) a.cluster l
    (r.1, if r.2 then l.joined n 0 true else l)
  | .store => (s.sramWrite u.team a.cluster addr (bytesOf n (l.data.toNat / 2 ^ (8 * l.at_))), l.joined n 0 true)
  | .barInit => (s.sramWrite u.team a.cluster addr (bytesOf n (l.data.toNat / 2 ^ (8 * l.at_))), l.joined n 0 true)

/-- R381: a part of a write whose team has been terminated is performed or dropped, a free choice. -/
def State.spEndedPart (s : State) (uid : Nat) (u : Unit) (a : SpAcc) (l : SpLane) (n : Nat) : State × SpLane :=
  if (Config.free s.free 31).getLsbD 0 then (s.fresh, l.joined n 0 true) else s.fresh.spPart uid u a l n

def SpAcc.lane? (a : SpAcc) : Option SpLane := a.lanes.find? fun l => decide (l.at_ < a.size)

def SpAcc.putLane (a : SpAcc) (l : SpLane) : SpAcc := { a with lanes := a.lanes.map fun x => if x.lane = l.lane then l else x }

/-- Some parts of an access, one after another, in ascending lane order. -/
def State.spParts (uid : Nat) (u : Unit) : Nat → State → SpAcc → State × SpAcc
  | 0, s, a => (s, a)
  | k + 1, s, a =>
    match a.lane? with
    | none => (s, a)
    | some l =>
      let r := if s.teamEnded u then s.spEndedPart uid u a l (a.part true) else s.spPart uid u a l (a.part false)
      State.spParts uid u k r.1 (a.putLane r.2)

/-- How many parts of an access are still to be performed. -/
def SpAcc.left (a : SpAcc) (ended : Bool) : Nat := (a.lanes.map fun l => (a.size - l.at_ + a.part ended - 1) / a.part ended).foldl (· + ·) 0

/-- The register writes that a performed access returns. -/
def SpAcc.writes (a : SpAcc) (u : Unit) : List RegWrite :=
  let signed := match a.kind with
    | .load sg => sg
    | _ => false
  returnWrites u a.dest a.span (a.lanes.map fun l => (l.lane, loadRegs a.size signed l.result)) ++
    (match a.okPred with
      | some p => [{ kind := .p, idx := p, vals := (a.lanes.filter fun l => u.launched.getLsbD l.lane).map fun l => (l.lane, if l.ok then 1 else 0) }]
      | none => [])

/-- R159, R230: whether the oldest access of a fragment thread waits: for one that its group issued before the `br.div`, or for one of another thread that came before it: those of one group keep the order in which their words issued, lower lanes first where they issued together (R114, R150, R189; log entry 116). -/
def State.spWaits (s : State) (uid : Nat) (u : Unit) (a : SpAcc) : Bool :=
  s.groupSpAhead u || (match u.frag with
    | none => false
    | some f => (List.range s.units.length).any fun i => i != uid && (s.unit? i).elim false fun x => x.inFragment f.parent f.ctr &&
        x.spq.any fun b => decide (b.joint < a.joint) || (b.joint == a.joint && x.lowerThread f))

/-- R230, R227: parts of the oldest scratchpad access of a unit are performed at its bank; after the last its values return, and its operation returns when nothing of it is left on its way. -/
def performSp (uid : Nat) (s : State) : Out :=
  match s.unit? uid with
  | none => .next s
  | some u =>
    match u.spq with
    | [] => .next s
    | a :: rest =>
      if s.spWaits uid u a then .next s
      else
        let n := a.left (s.teamEnded u)
        let out := State.spParts uid u (s.someOf n) (if n ≤ 1 then s else s.fresh) a
        if out.2.lane?.isSome then .next (out.1.modUnit uid fun x => { x with spq := out.2 :: rest })
        else
          let s1 := out.1.modUnit uid fun x => { x with spq := rest }.landWrites (out.2.writes x)
          .next (s1.opDone uid a.seq)

/-- R230. Scratchpad access performed at its bank and sp or at counter lowered. -/
def execSpAccessPerformed (u : Nat) (s : State) : Out := performSp u s

end Sys2Proof.Machine
end

