-- ==== Sys2Proof/Machine/Waits.lean ====
section
/-!
DEFINITION. Waits on path counters, completion times and timeline counters, class 17 ops 0x00 to 0x02 (R226, R228, R239, R280 to R282).
-/

namespace Sys2Proof.Machine

/-- Table 13.4: the path codes of `wait.cnt`. -/
def pathOf (n : Nat) : Path :=
  match n with
  | 0 => .ld
  | 1 => .st
  | 2 => .at_
  | 3 => .sp
  | 4 => .cp
  | _ => .msg

/-- R231: the floor of a unit after it acquires a stamp. -/
def Unit.acquireStamp (u : Unit) (stamp : Nat) : Unit := { u with floor := max u.floor stamp }

/-- R228, R280. Wait until a path counter is at most n; on `ld` or `at` the floor rises to the greatest stamp received. -/
def execWaitCnt (w : A64) (s : State) : Out :=
  let reg := w.rc.getLsbD 3
  let path := pathOf (w.rc.toNat % 8)
  let sh := (formA64 17 0 w).shape (if reg then [.uni w.ra.toNat 1] else []) []
  s.issueGlobal sh fun uid u =>
    let n := if reg then (u.uget w.ra.toNat).toNat else w.rb.toNat
    if n < u.count path then s.waits uid u .counter
    else
      let u1 := if path = .ld ∨ path = .at_ then u.acquireStamp u.stamp else u
      s.retire uid u1 sh

/-- R226, R281. Wait for `st` and `at` to drain and for global time to pass `wct`; the floor rises to `wct`. -/
def execWaitWct (w : A64) (s : State) : Out :=
  let sh := (formA64 17 1 w).shape [] []
  s.issueGlobal sh fun uid u =>
    if u.count .st ≠ 0 ∨ u.count .at_ ≠ 0 then s.waits uid u .counter
    else if !s.passed (s.unitClock u) u.wct then s.waits uid u .wct
    else s.retire uid (u.acquireStamp u.wct) sh

/-- R226: global time has passed the `wct` that a group waits for. -/
def wctPassed (uid : Nat) (s : State) : Out :=
  match s.unit? uid with
  | none => .next s
  | some u =>
    if u.live && u.wait == .wct && s.passed (s.unitClock u) u.wct then .next (s.modUnit uid fun x => { x with wait := .none }) else .next s

/-- A reading of a timeline counter: the state after, the word and its stamp; or a trap, or a translation fault. -/
inductive Reading where
  | got (s : State) (word : W64) (stamp : Nat)
  | behind
  | trap (cause : Nat) (tval : W64)
  | park (reason : Nat)

/-- R232, R307: a word that a group reads at its home outside its own requests; a leased copy of its core is not used for it any more, nor an older pending read (R235). -/
def State.readHome (s : State) (uid : Nat) (u : Unit) (x : Xlate) (size : Nat) : State × BitVec 128 × Nat :=
  let r := s.readAt x size
  let mask := wordMask (x.va % 128) size
  ((r.1.fence (s.unitCore u) x.asid (x.va / 128) mask).barMerges (u.root uid) x.asid (x.va / 128) mask, r.2)

/-- R114: whether an earlier access of the group to the bytes of such a read is still to be performed. -/
def State.homeBusy (s : State) (uid : Nat) (u : Unit) (x : Xlate) (size : Nat) : Bool :=
  s.olderPending uid u (s.request u (homeAccess size false) []) (laneReq u.floor 0 0 x 0 0)

/-- The unit with its requests as they stand after such a read. -/
def State.withReqs (s : State) (uid : Nat) (u : Unit) : Unit := { u with reqs := (s.unit? uid).elim u.reqs fun x => x.reqs }

/-- R282: the counter in global memory, read at its home in the way of a `.si` load. -/
def State.readGlobalCounter (s : State) (uid : Nat) (u : Unit) (a : W64) : Reading :=
  match s.checkGlobal u.plain (homeAccess 8 false) [(0, a)] with
  | .trap c v => .trap c v
  | .park _ r _ => .park r
  | .ok [] => .got s 0 0
  | .ok (x :: _) =>
    if s.homeBusy uid u x.2.2 8 then .behind
    else
    let r := s.readHome uid u x.2.2 8
    .got r.1 (r.2.1.setWidth 64) r.2.2

/-- R282: the counter in cluster SRAM. -/
def State.readSpCounter (s : State) (u : Unit) (a : W64) : Reading :=
  match s.spFault u 8 false true [(0, a)] with
  | some (c, v) => .trap c v
  | none =>
    let cl := s.clusterOfUnit u
    .got s (BitVec.ofNat 64 (s.sramBytes cl a.toNat 8)) (sget s.spStamp (sramKey cl a.toNat / 8)).toNat

/-- R75: the flags of the matrix commands up to a ticket are all in place. -/
def Unit.orderFlags (u : Unit) (n : Nat) : Unit :=
  let due := u.mflags.filter fun x => decide (x.1 ≤ n)
  { u with fflags := due.foldl (fun (m : Flags) (x : Nat × Flags) => m ||| x.2) u.fflags, mflags := u.mflags.filter fun x => decide (n < x.1) }

/-- R75, R321: a wait that has found the team's matrix timeline at `n` or more orders the flags of the commands up to ticket `n`. -/
def State.ordered (s : State) (u : Unit) (sp : Bool) (a : W64) (n : Nat) : Unit :=
  match s.team? u.team with
  | some t => if sp && a.toNat == t.base then u.orderFlags n else u
  | none => u

/-- R239, R282. Wait on a timeline counter: poison releases without acquiring, a count of n or more acquires. -/
def execWaitTl (w : A64) (s : State) : Out :=
  let p := w.rd.toNat % 8
  let sh := (formA64 17 2 w).shape [.uni w.ra.toNat 1, .uni w.rb.toNat 1] [(.p, p)]
  s.issueGlobal sh fun uid u =>
    let a := u.uget w.ra.toNat
    let n := (u.uget w.rb.toNat).toNat % 2 ^ 63
    let sp := w.rc.getLsbD 0
    let result (t : State) (u1 : Unit) (b : Bool) : State :=
      t.retire uid (u1.writeVar [⟨.p, p, u.activeLanes.map fun l => (l, if b then 1 else 0)⟩] 0) sh
    match if sp then s.readSpCounter u a else s.readGlobalCounter uid u a with
    | .behind => s.waits uid u .counter
    | .trap c v => s.raise uid u sh.len c v
    | .park r => if u.drained then (s.setUnit uid { u with lastIssue := s.tick }).parkFault uid a 1 r none else s.waits uid u .drain
    | .got t word stamp =>
      let v := t.withReqs uid u
      if word.msb then result t v true
      else if n ≤ word.toNat then result t ((t.ordered v sp a n).acquireStamp (max stamp v.stamp)) false
      else t.waits uid v (.timeline a)

/-- R226. Global time passes a group's wct. -/
def execWctPassed (u : Nat) (s : State) : Out := wctPassed u s

end Sys2Proof.Machine
end

