-- ==== Sys2Proof/Machine/Cache.lean ====
section
/-!
DEFINITION. Cache maintenance, sealing, pinning and bank modes, class 17 ops 0x03 to 0x09 (R194, R215, R216, R283 to R290).
-/

namespace Sys2Proof.Machine

/-- R283: whether a line overlaps a range taken modulo 2^64. -/
def lineMeets (base len : W64) (line : Nat) : Bool :=
  let a : W64 := (BitVec.ofNat 57 (line * 128)).signExtend 64
  len != 0 && ((a - base).ult len || (base - a).ult 128)

/-- The shape of a word with a base and a length. -/
def rangeShape (op : BitVec 6) (w : A64) (more : List Src) (res : Bool) : Shape :=
  (formA64 17 op w).shape ([.uni w.ra.toNat 1, .uni w.rb.toNat 1] ++ more) (if res then [(.u, w.rd.toNat)] else [])

/-- R283: the copies of a core in a range that are neither owned nor sealed are gone. -/
def State.invalidate (s : State) (core asid : Nat) (base len : W64) : State :=
  let gone (l : L1Line) : Bool := l.core == core && l.asid == asid && lineMeets base len l.line && !l.owned && !s.sealedLine l.asid l.line
  { s with
    l1 := s.l1.filter fun l => !gone l
    poisonL1 := s.poisonL1.filter fun p => !(s.l1.any fun l => gone l && l.core == p.1 && l.asid == p.2.1 && l.line == p.2.2 / 32) }

/-- R283. Invalidate unowned, unsealed L1 copies in a range. -/
def execInval (w : A64) (s : State) : Out :=
  let sh := rangeShape 3 w [] false
  s.issue sh fun uid u =>
    (s.invalidate (s.unitCore u) (s.unitAsid u) (u.uget w.ra.toNat) (u.uget w.rb.toNat)).retire uid u sh

/-- R284. End the core's ownership of the lines in a range with write-back; it then holds no copy of them. -/
def execWb (w : A64) (s : State) : Out :=
  let sh := rangeShape 4 w [] false
  s.issue sh fun uid u =>
    let base := u.uget w.ra.toNat
    let len := u.uget w.rb.toNat
    let mine := s.l1.filter fun l => l.core == s.unitCore u && l.asid == s.unitAsid u && lineMeets base len l.line
    (mine.foldl State.evictL1 s).retire uid u sh

/-- R285: a range as sealing keeps it, its 57-bit base and its bytes, when its base and length are legal. -/
def sealRange (base len : W64) : Option (Nat × Nat) :=
  let last := base + len - 1
  if base.toNat % 128 ≠ 0 ∨ len.toNat % 128 ≠ 0 ∨ len = 0 ∨ 2 ^ 64 < base.toNat + len.toNat ∨ !canonical base ∨ !canonical last then none
  else some (va57 base, va57 last + 1 - va57 base)

/-- R285: the status of a `seal`; its conditions are tried in the order of the table. -/
def sealStatus (c : Context) (base len : W64) : Nat × Option (Nat × Nat) :=
  if 16 ≤ c.sealed.length then (1, none)
  else match sealRange base len with
    | none => (2, none)
    | some r => if c.sealed.any fun x => decide (r.1 < x.1 + x.2 ∧ x.1 < r.1 + r.2) then (3, none) else (0, some r)

/-- R212, R215: a range of a context by its names: its own, and for each page that is mapped under another context's name, that one. -/
def State.rangeNames (s : State) (asid : Nat) (r : Nat × Nat) : List (Nat × Nat × Nat) :=
  let pages := (List.range ((r.1 + r.2 + 65535) / 65536 - r.1 / 65536)).map fun i => r.1 / 65536 + i
  (asid, r.1, r.2) :: pages.filterMap fun p =>
    let lo := max r.1 (p * 65536)
    match s.translate asid lo false with
    | .ok x => if x.shared then some (x.asid, x.va, min (r.1 + r.2) (p * 65536 + 65536) - lo) else none
    | .error _ => none

/-- A write to some ranges that passed its port before operation `seq` and is not yet performed. -/
def State.storesIn (s : State) (names : List (Nat × Nat × Nat)) (seq : Nat) : Bool :=
  s.units.any fun u => u.reqs.any fun q => decide (q.seq < seq) && q.kind.writes && q.lanes.any fun l =>
    !l.done && names.any fun n => l.asid == n.1 && lineIn n.2.1 n.2.2 (l.va / 128)

/-- R285: owners in some ranges write back and leave, and leased copies go with them, so that no copy of an older value is held without a lease. -/
def State.sealLines (s : State) (names : List (Nat × Nat × Nat)) : State :=
  let s1 := (names.flatMap fun n => s.l2In n.1 n.2.1 n.2.2).foldl (fun (a : State) (l : L2Line) => a.lineRecall l.asid l.line) s
  let covers (asid line : Nat) : Bool := names.any fun n => asid == n.1 && lineIn n.2.1 n.2.2 line
  { s1 with
    l1 := s1.l1.filter fun l => !covers l.asid l.line
    poisonL1 := s1.poisonL1.filter fun p => !covers p.2.1 (p.2.2 / 32) }

/-- R286, R216: the L2 copies of some ranges go back to their towers; a pinned line stays, with the words of its tower. -/
def State.dropL2In (s : State) (names : List (Nat × Nat × Nat)) : State :=
  (names.flatMap fun n => s.l2In n.1 n.2.1 n.2.2).foldl (fun (a : State) (l : L2Line) =>
    if s.pinned l then a.cleanL2 l.asid l.line else a.evictL2 l.asid l.line) s

/-- R286: the latest reading of the slices' clocks, of a change that reaches every slice. -/
def State.slicesClock (s : State) : Nat := (List.range 128).foldl (fun (m : Nat) (h : Nat) => max m (s.writeClock (sliceClock h))) s.now

/-- The slot and ASID of a unit's context. -/
def State.unitCtx (s : State) (u : Unit) : Option Context := (s.team? u.team).bind fun t => s.ctx? t.ctx

/-- A word that ends with a value for s[rd]. -/
def State.finishU (s : State) (uid : Nat) (u : Unit) (sh : Shape) (rd : Nat) (v : W64) : State :=
  s.retire uid (u.writeVar [⟨.u, rd, [(0, v)]⟩] 0) sh

/-- R285. Seal a range of the context. -/
def execSeal (w : A64) (s : State) : Out :=
  let sh := rangeShape 5 w [] true
  let rd := w.rd.toNat
  s.issue sh fun uid u =>
    let base := u.uget w.ra.toNat
    let len := u.uget w.rb.toNat
    let asid := s.unitAsid u
    match s.unitCtx u with
    | none => s.finishU uid u sh rd 0
    | some c =>
      match u.wait with
      | .sealing q =>
        match sealRange base len with
        | none => s.finishU uid u sh rd 0
        | some r =>
          if s.storesIn (s.rangeNames asid r) q then s.setUnit uid { u with lastIssue := s.tick }
          else (s.sealLines (s.rangeNames asid r)).finishU uid u sh rd 0
      | _ =>
        match sealStatus c base len with
        | (0, some r) =>
          let s1 := s.modCtx c.slot fun x => { x with sealed := x.sealed ++ [r], marks := x.marks ++ (s.rangeMarks asid r).map Prod.fst }
          let names := s.rangeNames asid r
          let s2 := names.foldl (fun (a : State) n => a.abortRange n.1 n.2.1 n.2.2 3) (s1.sealLines names)
          if s2.storesIn names s.seq then s2.setUnit uid { u with wait := .sealing s.seq, lastIssue := s.tick }
          else s2.finishU uid u sh rd 0
        | (st, _) => s.finishU uid u sh rd (BitVec.ofNat 64 st)

/-- R286. Remove a sealed range and every cached copy of it. -/
def execUnseal (w : A64) (s : State) : Out :=
  let sh := rangeShape 6 w [] true
  let rd := w.rd.toNat
  s.issue sh fun uid u =>
    let asid := s.unitAsid u
    match s.unitCtx u, sealRange (u.uget w.ra.toNat) (u.uget w.rb.toNat) with
    | some c, some r =>
      if c.sealed.contains r then
        let names := s.rangeNames asid r
        let s1 := (s.sealLines names).dropL2In names
        let s2 := s1.modCtx c.slot fun x =>
          { x with sealed := x.sealed.filter fun y => y != r, marks := x.marks.filter fun m => m.1 != r.1 }
        s2.finishU uid { u with wct := max u.wct s.slicesClock } sh rd 0
      else s.finishU uid u sh rd 1
    | _, _ => s.finishU uid u sh rd 1

/-- The addresses of the lines that overlap a range taken modulo 2^64. -/
def rangeLines (base len : W64) : List W64 :=
  if len = 0 then []
  else
    let first := base &&& ~~~127#64
    let count := ((base &&& 127).toNat + len.toNat + 127) / 128
    (List.range count).map fun i => first + BitVec.ofNat 64 (128 * i)

/-- R216: the pinned lines of the set of a line, but for the line itself. -/
def State.pinnedBeside (s : State) (x : Xlate) : Nat := ((s.setBeside x).filter s.pinned).length

/-- R287: one line pinned, or skipped. A line that another context has pinned becomes this one's (log entry 103). -/
def pinLine (ctx asid dur : Nat) (acc : State × Nat) (a : W64) : State × Nat :=
  if !canonical a then acc
  else match acc.1.translate asid (va57 a) false with
    | .error _ => acc
    | .ok x =>
      if acc.1.uncached x || decide (8 ≤ acc.1.pinnedBeside x) then acc
      else
        let s1 := acc.1.fillL2 x
        let e := s1.clock (sliceClock x.home) + dur
        (s1.modL2 x.asid (x.va / 128) fun b => { b with pin := max b.pin e, pinCtx := ctx }, acc.2 + 1)

/-- R287: the duration of a pin in ns. -/
def pinTime (x : W64) : Nat := min (max x.toNat 64) (2 ^ 30)

/-- R287. Pin the lines of a range in L2 for a time. -/
def execL2Pin (w : A64) (s : State) : Out :=
  let sh := rangeShape 7 w [.uni w.rc.toNat 1] true
  s.issue sh fun uid u =>
    match s.unitCtx u with
    | none => s.finishU uid u sh w.rd.toNat 0
    | some c =>
      let lines := rangeLines (u.uget w.ra.toNat) (u.uget w.rb.toNat)
      let out := lines.foldl (pinLine c.slot c.entry.asid (pinTime (u.uget w.rc.toNat))) (s, 0)
      out.1.finishU uid u sh w.rd.toNat (BitVec.ofNat 64 out.2)

/-- R288: a line of a range under its canonical name loses the context's pin. -/
def unpinLine (ctx asid : Nat) (s : State) (a : W64) : State :=
  if !canonical a then s
  else match s.translate asid (va57 a) false with
    | .error _ => s
    | .ok x => s.modL2 x.asid (x.va / 128) fun b => if b.pinCtx == ctx then { b with pin := 0 } else b

/-- R288. End the context's pins in a range, under the lines' own names and under shared ones. -/
def execL2Unpin (w : A64) (s : State) : Out :=
  let sh := rangeShape 8 w [] false
  s.issue sh fun uid u =>
    match s.unitCtx u with
    | none => s.retire uid u sh
    | some c =>
      let base := u.uget w.ra.toNat
      let len := u.uget w.rb.toNat
      let s1 := { s with l2 := s.l2.map fun b =>
        if b.asid == c.entry.asid && b.pinCtx == c.slot && lineMeets base len b.line then { b with pin := 0 } else b }
      let s2 := if s1.l2.any fun b => b.pin != 0 && b.pinCtx == c.slot then (rangeLines base len).foldl (unpinLine c.slot c.entry.asid) s1 else s1
      s2.retire uid u sh

/-- R194: a core's L1 is written back and invalidated. -/
def State.flushL1 (s : State) (core : Nat) : State :=
  let mine := s.l1.filter fun l => l.core == core
  mine.foldl (fun (a : State) (l : L1Line) => a.evictL1 l) s

/-- Table 10.2: a bank takes a mode. -/
def State.changeBank (s : State) (cluster : Nat) (b : Bank) (mode : BankMode) : State :=
  if b.mode = mode then s
  else if b.mode = .cache then s.sramZero cluster b.idx
  else if mode = .cache then
    let s1 := s.sramZero cluster b.idx
    { s1 with zeroBanks := s1.zeroBanks.filter fun x => x != cluster * 1024 + b.idx }
  else { s with zeroBanks := s.zeroBanks.filter fun x => x != cluster * 1024 + b.idx }

/-- R289: the status of a change of `n` banks from an address. -/
def Team.bankStatus (t : Team) (a : W64) (n : Nat) (mode : BankMode) : Nat :=
  let idxs := (List.range n).map fun i => a.toNat / 1024 + i
  if a.toNat % 1024 ≠ 0 ∨ !(idxs.all fun i => t.banks.any fun b => b.idx == i) then 1
  else if idxs.contains (t.base / 1024) then 2
  else
    let after := t.banks.filter fun b => if idxs.contains b.idx then mode == .cache else b.mode == .cache
    if after.length < t.desc.cacheBanks then 3 else 0

/-- R195: whether a scratchpad access that is checked and not yet performed reaches one of some banks. -/
def State.accessesBanks (s : State) (cluster : Nat) (idxs : List Nat) : Bool :=
  s.units.any fun u => u.spq.any fun a => a.cluster == cluster && a.lanes.any fun l => idxs.contains (l.addr / 1024)

/-- R194, R289, R328: the frame of a change of bank modes. -/
def bankOp (w : A64) (mode : BankMode) (s : State) : Out :=
  let sh := (formA64 17 9 w).shape [.uni w.ra.toNat 1] [(.u, w.rd.toNat)]
  let n := w.rb.toNat
  s.issue sh fun uid u =>
    match s.team? u.team with
    | none => s.finishU uid u sh w.rd.toNat 1
    | some t =>
      let a := u.uget w.ra.toNat
      let cl := clusterOf t.core
      let idxs := (List.range n).map fun i => a.toNat / 1024 + i
      if u.count .sp ≠ 0 then s.waits uid u .counter
      else match t.bankStatus a n mode with
        | 0 =>
          let mine := t.banks.filter fun b => idxs.contains b.idx
          let changed := (mine.filter fun b => b.mode != mode).map fun b => b.idx
          if s.accessesBanks cl idxs || (t.queue.any fun c => c.usesBanks changed) then s.waits uid u .counter
          else
            let moves := mine.any fun b => b.mode != mode && (b.mode == .cache || mode == .cache)
            let s1 := if moves then s.flushL1 t.core else s
            let s2 := mine.foldl (fun (x : State) (b : Bank) => x.changeBank cl b mode) s1
            let s3 := s2.modTeam u.team fun x => { x with banks := x.banks.map fun b => if idxs.contains b.idx then { b with mode := mode } else b }
            s3.finishU uid u sh w.rd.toNat 0
        | st => s.finishU uid u sh w.rd.toNat (BitVec.ofNat 64 st)

/-- R194, R289. Set banks to cache mode. -/
def execBankCfgCache (w : A64) (s : State) : Out := bankOp w .cache s

/-- R194, R289. Set banks to scratchpad mode. -/
def execBankCfgSp (w : A64) (s : State) : Out := bankOp w .sp s

/-- R194, R289. Set banks to FIFO mode. -/
def execBankCfgFifo (w : A64) (s : State) : Out := bankOp w .fifo s

/-- Table 13.5: the description of a bank of an allocation, whose banks are listed by rising address. -/
def Team.bankQuery (t : Team) (i : W64) : W64 :=
  match nth? t.banks i.toNat with
  | none => 1#64 <<< 63
  | some b =>
    let m := match b.mode with
      | .cache => 0
      | .sp => 1
      | .fifo => 2
    BitVec.ofNat 64 (m * 2 ^ 32 + b.idx * 1024)

/-- R290. Describe a bank of the team's allocation. -/
def execBankCfgQuery (w : A64) (s : State) : Out :=
  let sh := (formA64 17 9 w).shape [.uni w.ra.toNat 1] [(.u, w.rd.toNat)]
  s.issue sh fun uid u =>
    s.finishU uid u sh w.rd.toNat ((s.team? u.team).elim (1#64 <<< 63) fun t => t.bankQuery (u.uget w.ra.toNat))

end Sys2Proof.Machine
end

