-- ==== Sys2Proof/Machine/Compare.lean ====
section
/-!
DEFINITION. Compares, selects, moves and predicates, class 3 and its C16 and B32 forms (R89 to R92).
-/

namespace Sys2Proof.Machine

/-- R89, Table 4.2 of types: an integer compare of type `ty` into a predicate. -/
def cmpOp (f : Form) (s : State) : Out :=
  let cc := f.w.rc.toNat % 8
  let ty := f.w.rc.toNat / 8
  let span := if 2 ≤ ty then 2 else 1
  let a := srcOf f.w.pa f.w.ra span
  let b := srcOf f.w.pb f.w.rb span
  let signed := ty % 2 == 0
  fixedOp (f.shape [a, b] [(.p, f.w.rd.toNat % 8)]) 3
    (fun s u l =>
      let t := if 2 ≤ ty then cmpInt cc signed (s.arg64 u a l) (s.arg64 u b l) else cmpInt cc signed (s.arg32 u a l) (s.arg32 u b l)
      ([boolVal t], 0)) s

/-- R90: a floating-point compare of `.f32` or of `.f64` pairs. -/
def fcmpOp (f : Form) (s : State) : Out :=
  let cc := f.w.rc.toNat % 8
  let wide := f.w.rc.toNat / 8 == 1
  let span := if wide then 2 else 1
  let a := srcOf f.w.pa f.w.ra span
  let b := srcOf f.w.pb f.w.rb span
  fixedOp (f.shape [a, b] [(.p, f.w.rd.toNat % 8)]) 3
    (fun s u l =>
      let r := if wide then Fmt.f64.compare cc (s.arg64 u a l).toNat (s.arg64 u b l).toNat
        else Fmt.f32.compare cc (s.arg32 u a l).toNat (s.arg32 u b l).toNat
      ([boolVal r.1], r.2)) s

/-- R92: two predicates combined, or one inverted. -/
def predOp (f : Form) (two : Bool) (op : Bool → Bool → Bool) (s : State) : Out :=
  let a := f.w.ra.toNat % 8
  let b := f.w.rb.toNat % 8
  fixedOp (f.shape (if two then [.pred a, .pred b] else [.pred a]) [(.p, f.w.rd.toNat % 8)]) 3
    (fun _ u l => ([boolVal (op (u.arg1 a l) (u.arg1 b l))], 0)) s

/-- R91: select by a predicate in m `[2:0]`, inverted by m `[3]`. -/
def selOp (f : Form) (s : State) : Out :=
  let a := srcOf f.w.pa f.w.ra 1
  let b := srcOf f.w.pb f.w.rb 1
  let p := f.w.rc.toNat % 8
  fixedOp (f.shape [a, b, .pred p] [(.v, f.w.rd.toNat)]) 3
    (fun s u l => ([(if u.arg1 p l != f.w.rc.getLsbD 3 then s.arg32 u a l else s.arg32 u b l).setWidth 64], 0)) s

/-- R91: an immediate loaded into a register. -/
def liOp (f : Form) (imm : W32) (s : State) : Out :=
  fixedOp (f.shape [] [(.v, f.w.rd.toNat)]) 3 (fun _ _ _ => ([imm.setWidth 64], 0)) s

/-- R89. Integer compare into a predicate. -/
def execCmp (w : A64) (s : State) : Out := cmpOp (formA64 3 0 w) s

/-- R90. Floating-point compare into a predicate. -/
def execFcmp (w : A64) (s : State) : Out := fcmpOp (formA64 3 1 w) s

/-- R91. Select a or b by a predicate. -/
def execSel (w : A64) (s : State) : Out := selOp (formA64 3 2 w) s

/-- R91. Copy a 32-bit source through the crossbar. -/
def execMov (w : A64) (s : State) : Out := intOp1 (formA64 3 3 w) (fun a => a) s

/-- R91. Load a 32-bit immediate into a vector register. -/
def execLi (w : AI) (s : State) : Out := liOp (formAI 3 4 w) w.imm s

/-- R92. Predicate AND. -/
def execPand (w : A64) (s : State) : Out := predOp (formA64 3 8 w) true (fun a b => a && b) s

/-- R92. Predicate OR. -/
def execPor (w : A64) (s : State) : Out := predOp (formA64 3 9 w) true (fun a b => a || b) s

/-- R92. Predicate XOR. -/
def execPxor (w : A64) (s : State) : Out := predOp (formA64 3 10 w) true (fun a b => a != b) s

/-- R92. Predicate NOT. -/
def execPnot (w : A64) (s : State) : Out := predOp (formA64 3 11 w) false (fun a _ => !a) s

/-- R91. Short two-address copy of a vector register into rd, the short form of A64 3:0x03. -/
def execMovB32C16 (w : C16) (s : State) : Out := intOp1 (formC16 0 0 true w) (fun a => a) s

/-- R91. B32 register copy. -/
def execMovB32B32 (w : B32) (s : State) : Out := intOp1 (formB32 31 0 false w) (fun a => a) s

/-- R89. B32 equality compare into a predicate. -/
def execCmpEqS32B32 (w : B32) (s : State) : Out := cmpOp (formB32 32 0 false w) s

/-- R89. B32 signed less-than compare into a predicate. -/
def execCmpLtS32B32 (w : B32) (s : State) : Out := cmpOp (formB32 33 2 false w) s

/-- R89. B32 unsigned less-than compare into a predicate. -/
def execCmpLtN32B32 (w : B32) (s : State) : Out := cmpOp (formB32 34 10 false w) s

/-- R89. B32 signed greater-or-equal compare into a predicate. -/
def execCmpGeS32B32 (w : B32) (s : State) : Out := cmpOp (formB32 35 5 false w) s

/-- R90. B32 binary32 less-than compare into a predicate. -/
def execFcmpLtF32B32 (w : B32) (s : State) : Out := fcmpOp (formB32 36 2 false w) s

/-- R90. B32 binary32 greater-or-equal compare into a predicate. -/
def execFcmpGeF32B32 (w : B32) (s : State) : Out := fcmpOp (formB32 37 5 false w) s

end Sys2Proof.Machine
end

