-- ==== Sys2Proof/Machine/Subscriptions.lean ====
section
/-!
DEFINITION. Scratchpad subscriptions, class 19 ops 0x00 to 0x02 (R260 to R264, R294, R295).
-/

namespace Sys2Proof.Machine

/-- Whether a range of a cluster lies wholly in scratchpad banks of one team, and which. -/
def State.spRange (s : State) (cluster addr len : Nat) : Option Nat :=
  match s.bankAt cluster addr with
  | some (t, .sp) =>
    let idxs := (List.range ((addr + len - 1) / 1024 + 1 - addr / 1024)).map fun i => addr / 1024 + i
    if idxs.all fun i => s.bankAt cluster (i * 1024) == some (t, .sp) then some t else none
  | _ => none

/-- R260, R294: the operands of `sub.open`. -/
structure SubArgs where
  loc : Nat
  sid : Nat
  remote : Nat
  cluster : Nat
  len : Nat
deriving DecidableEq, Repr

def subArgs (a b c : W64) : SubArgs :=
  { loc := (a.extractLsb' 0 20).toNat, sid := (a.extractLsb' 32 5).toNat, remote := (b.extractLsb' 0 20).toNat
    cluster := (b.extractLsb' 20 7).toNat, len := c.toNat }

/-- R264: whether an entry is on its core; those of a saved or power-gated publisher are saved with it. -/
def State.pubLive (s : State) (e : PubEntry) : Bool := (s.team? e.team).elim false fun t => t.liveAlloc

/-- The publisher entry of a core for a range. -/
def State.pubOf (s : State) (core base len : Nat) : Option PubEntry :=
  s.pubs.find? fun e => e.core == core && e.base == base && e.len == len && s.pubLive e

/-- Table 12.5: the status of `sub.open`, and the publisher team when it is 0. A rule of alignment or length is tried first, then the rows in an order in which each has what it needs. -/
def State.subStatus (s : State) (team core : Nat) (a : SubArgs) : Nat × Nat :=
  if a.len = 0 ∨ 65536 < a.len ∨ a.len % 128 ≠ 0 ∨ a.loc % 128 ≠ 0 ∨ a.remote % 128 ≠ 0 ∨ s.spRange (clusterOf core) a.loc a.len ≠ some team then (5, 0)
  else if s.subs.any fun x => x.core == core && x.sid == a.sid then (1, 0)
  else match (s.spRange a.cluster a.remote a.len).bind fun t => (s.team? t).map fun p => (t, p) with
  | none => (4, 0)
  | some (t, p) =>
    if (s.team? team).map (fun x => x.ctx) ≠ some p.ctx then (4, 0)
    else match s.pubOf p.core a.remote a.len with
    | some e => if 8 ≤ e.subs.length then (3, 0) else (0, t)
    | none => if 32 ≤ (s.pubs.filter fun e => e.core == p.core && s.pubLive e).length then (2, 0) else (0, t)

/-- R260, R261, R294: the entries of a subscription installed. What the entry has buffered for its earlier subscribers leaves first. -/
def State.installSub (s : State) (team core pub : Nat) (a : SubArgs) : State :=
  let pcore := (s.team? pub).elim 0 fun t => t.core
  let y : SubEntry := { core := core, sid := a.sid, team := team, loc := a.loc, len := a.len, remoteCluster := a.cluster, remote := a.remote, pubCore := pcore, lost := false }
  let fresh : PubEntry := { core := pcore, team := pub, base := a.remote, len := a.len, subs := [(core, a.sid)], bufs := [] }
  match s.pubOf pcore a.remote a.len with
  | some e =>
    { s with
      pubs := s.pubs.map fun x => if x = e then { x with subs := x.subs ++ [(core, a.sid)], bufs := [] } else x
      signals := s.signals ++ s.updatesOf e e.bufs
      subs := s.subs ++ [y] }
  | none => { s with pubs := s.pubs ++ [fresh], subs := s.subs ++ [y] }

/-- R260, R294. Ask for a publisher's writes in a range to be copied into a local range. -/
def execSubOpen (w : A64) (s : State) : Out :=
  let sh := (formA64 19 0 w).shape [.uni w.ra.toNat 1, .uni w.rb.toNat 1, .uni w.rc.toNat 1] [(.u, w.rd.toNat)]
  s.issue sh fun uid u =>
    let a := subArgs (u.uget w.ra.toNat) (u.uget w.rb.toNat) (u.uget w.rc.toNat)
    let core := s.unitCore u
    match s.subStatus u.team core a with
    | (0, pub) => (s.installSub u.team core pub a).finishU uid u sh w.rd.toNat 0
    | (st, _) => s.finishU uid u sh w.rd.toNat (BitVec.ofNat 64 st)

/-- R264: a subscriber entry closes: the publisher's context hears `sub-lost`, and updates not yet applied are dropped. -/
def State.closeSub (s : State) (y : SubEntry) : State :=
  let serves (e : PubEntry) : Bool := e.core == y.pubCore && e.base == y.remote && e.len == y.len && e.subs.contains (y.core, y.sid)
  let s1 := match s.pubs.find? serves with
    | some e => match s.team? e.team with
      | some pt => s.postEvent pt.ctx 2 (BitVec.ofNat 64 e.base) (BitVec.ofNat 64 (clusterOf e.core * 2 ^ 20 + y.sid)) (BitVec.ofNat 64 y.core)
      | none => s
    | none => s
  let s2 := s1.dropUpdates [(y.core, y.sid)]
  { s2 with
    subs := s2.subs.filter fun x => !(x.core == y.core && x.sid == y.sid)
    pubs := (s2.pubs.map fun e => if serves e then { e with subs := e.subs.filter fun x => x != (y.core, y.sid) } else e).filter
      fun e => !e.subs.isEmpty }

/-- R264, R295. Close a subscriber entry. -/
def execSubClose (w : A64) (s : State) : Out :=
  let sh := (formA64 19 1 w).shape [] [(.u, w.rd.toNat)]
  s.issue sh fun uid u =>
    match s.subs.find? fun x => x.core == s.unitCore u && x.sid == w.rb.toNat && x.team == u.team with
    | some y =>
      let s1 := s.closeSub y
      s1.finishU uid { u with ops := (s1.unit? uid).elim u.ops fun x => x.ops } sh w.rd.toNat 0
    | none => s.finishU uid u sh w.rd.toNat 1

/-- R262, R295. Flush the team's publisher buffers, counted on `sp` until every update has been applied. -/
def execSubFlush (w : A64) (s : State) : Out :=
  let sh := { (formA64 19 2 w).shape [] [] with pipe := true }
  s.issue sh fun uid u =>
    if u.pathFull .sp then s.waits uid u .counter
    else
      let out := s.pubs.flatMap fun e => if e.team = u.team then s.updatesOf e e.bufs else []
      let s1 := { s with
        pubs := s.pubs.map fun (e : PubEntry) => if e.team = u.team then { e with bufs := [] } else e
        signals := s.signals ++ out.map fun (g : Signal) => { g with src := some (uid, s.seq) } }
      (s1.retire uid (if out.isEmpty then u.instantOp .sp s.seq else u.raiseOp .sp s.seq) sh).takeSeq

end Sys2Proof.Machine
end

