-- ==== Sys2Proof/Machine/Messages.lean ====
section
/-!
DEFINITION. Receive rings: messages, waits and pops, class 19 ops 0x03 to 0x05, the receiving NI and the ring agent (R265 to R268, R296 to R298, R414 to R416).
-/

namespace Sys2Proof.Machine

/-- Table 12.6: a ring header. -/
structure Ring where
  head : Nat
  tail : Nat
  count : Nat
  slot : Nat
  enable : Bool
  sound : Bool
deriving DecidableEq, Repr

def ringOf (x : BitVec 128) : Ring :=
  let f (lo n : Nat) : Nat := (x.extractLsb' lo n).toNat
  let count := f 64 16
  let slot := f 80 8
  { head := f 0 32, tail := f 32 32, count := count, slot := slot, enable := x.getLsbD 96
    sound := f 97 31 == 0 && f 88 8 == 0 && decide (1 ≤ slot ∧ slot ≤ 16 ∧ count ≠ 0 ∧ 2 ^ count.log2 = count) }

/-- The messages of a ring that are not yet freed. -/
def Ring.unread (r : Ring) : Nat := (r.tail + 2 ^ 32 - r.head) % 2 ^ 32

/-- R265: the bytes a ring takes, header included, and where its slot `k` begins. -/
def Ring.bytes (r : Ring) : Nat := 16 + r.count * 16 * r.slot

def Ring.slotAt (r : Ring) (header k : Nat) : Nat := header + 16 + k % r.count * 16 * r.slot

/-- R265: the ring whose header stands at an address of FIFO banks, and its team. -/
def State.fifoRing (s : State) (cluster addr : Nat) : Option (Nat × Ring) :=
  match s.bankAt cluster addr with
  | some (t, .fifo) =>
    let r := ringOf (BitVec.ofNat 128 (s.sramBytes cluster addr 16))
    let idxs := (List.range ((addr + r.bytes - 1) / 1024 + 1 - addr / 1024)).map fun i => addr / 1024 + i
    if r.sound && addr % 16 == 0 && idxs.all (fun i => s.bankAt cluster (i * 1024) == some (t, .fifo)) then some (t, r) else none
  | _ => none

/-- What the receiving side makes of a message; `fault` says that the header's page does not translate at its home (R405). -/
inductive RingState where
  | gone
  | invalid
  | fault (reason : Nat)
  | full
  | ready (r : Ring)
deriving DecidableEq, Repr

/-- R266, R267: the state of a ring in FIFO banks towards a message of a context. -/
def State.fifoState (s : State) (m : Msg) : RingState :=
  let image := s.saved.any fun x => x.ctx == m.ctx && x.cluster == m.cluster && x.record.banks.any fun b => b.idx == m.sram / 1024 && b.mode == .fifo
  let own := match s.bankAt m.cluster m.sram with
    | some (t, _) => (s.team? t).elim false fun x => x.ctx == m.ctx
    | none => false
  if own then
    match s.fifoRing m.cluster m.sram with
    | none => .invalid
    | some (_, r) =>
      if !r.enable || decide (16 * r.slot < m.bytes.length) then .invalid
      else if r.unread = r.count then .full else .ready r
  else if image then .full else .gone

/-- R266, R414: the state of a ring in this device's memory. -/
def State.globalRing (s : State) (m : Msg) : RingState :=
  match s.ctx? m.ctx with
  | none => .gone
  | some c =>
    match s.sysRead c.entry.asid ((BitVec.ofNat 57 m.va).signExtend 64) 16 with
    | .error r => if r ≤ 6 then .fault r else .invalid
    | .ok (_, d, _) =>
      let r := ringOf d
      if !r.sound || !r.enable || decide (16 * r.slot < m.bytes.length) then .invalid
      else if r.unread = r.count then .full else .ready r

/-- R267: a message that is done leaves, and its operation returns with its last one. -/
def State.msgDone (s : State) (k : Nat) (m : Msg) : State :=
  let rest := dropNth s.msgs k
  let s1 := { s with msgs := rest }
  if rest.any fun x => x.src == m.src && x.seq == m.seq then s1 else s1.modUnit m.src fun u => u.returnOp m.seq

def State.msgPhase (s : State) (k : Nat) (p : MsgPhase) : State := { s with msgs := modNth (fun (m : Msg) => { m with phase := p }) s.msgs k }

/-- R296: the target of a message as a 64-bit value. -/
def Msg.target (m : Msg) : W64 :=
  match m.dest with
  | none => BitVec.ofNat 64 (m.cluster * 2 ^ 20 + m.sram)
  | some _ => (BitVec.ofNat 57 m.va).signExtend 64

/-- R266, R267: a message dropped with `ring-invalid` (5) or `target-gone` (4). -/
def State.dropMsg (s : State) (k : Nat) (m : Msg) (kind : Nat) : State :=
  let team := (s.unit? m.src).map fun u => u.team
  (s.postGone m.ctx kind m.target (if kind = 4 then 3 else 0) team (some m.src)).msgDone k m

/-- R135: the group that a message comes from; a fragment thread belongs to its parent's. -/
def State.msgGroup (s : State) (m : Msg) : Nat := (s.unit? m.src).elim m.src fun u => u.root m.src

/-- R267, R415: whether an earlier message of the same group to the same ring is still on its way. -/
def State.msgBehind (s : State) (k : Nat) (m : Msg) : Bool :=
  (s.msgs.take k).any fun x => s.msgGroup x == s.msgGroup m && x.dest == m.dest && x.cluster == m.cluster && x.sram == m.sram && x.va == m.va

/-- R266: the NI writes a message into slot tail, zero-fills the rest, and then advances tail. -/
def State.landFifo (s : State) (m : Msg) (r : Ring) : State :=
  let pad := List.replicate (16 * r.slot - m.bytes.length) (0 : Byte)
  (s.sramPut m.cluster (r.slotAt m.sram r.tail) (m.bytes ++ pad)).sramPut m.cluster (m.sram + 4) (bytesOf 4 ((r.tail + 1) % 2 ^ 32))

/-- R266: a message for a ring in FIFO banks reaches the receiving NI. -/
def fifoMessage (k : Nat) (s : State) : Out :=
  match nth? s.msgs k with
  | none => .next s
  | some m =>
    if m.phase ≠ .flying ∨ m.dest.isSome ∨ s.msgBehind k m then .next s
    else match s.fifoState m with
    | .gone => .next (s.dropMsg k m 4)
    | .invalid => .next (s.dropMsg k m 5)
    | .fault _ => .next (s.dropMsg k m 5)
    | .full => .next (s.msgPhase k .refused)
    | .ready r => .next ((s.landFifo m r).msgDone k m)

/-- The 16-byte pieces of a message written from an address on, each with the sender's floor. -/
def State.writePieces (s : State) (asid floor : Nat) : Nat → W64 → List Byte → Except (Nat × W64) State
  | 0, _, _ => .ok s
  | n + 1, a, bs =>
    match s.sysWrite asid a 16 (BitVec.ofNat 128 (natOfBytes (bs.take 16))) floor with
    | .error r => .error (r, a)
    | .ok (s1, _) => State.writePieces s1 asid floor n (a + 16) (bs.drop 16)

/-- R405, R415: the record that the home posts for a slot its agent cannot translate: no response is awaited. -/
def State.homeRecord (s : State) (ctx access reason : Nat) (addr : W64) : State :=
  match s.ctx? ctx with
  | none => s
  | some c =>
    let s := s.postWaiting ctx
    let id := nextFaultId c.awaiting 65536 c.faultId
    let f : FaultInfo := { kind := 1, cause := 0, access := access, reason := reason, addr := addr, pc := 0, lane := none }
    let r := s.postRing c.entry.asid c.entry.faultRing true (faultWords f (2 ^ 32 - 1) (2 ^ 32 - 1) 0 0 0 id)
    match r.2 with
    | .posted => r.1.modCtx ctx fun c => { c with faultId := (id + 1) % 65536 }
    | _ => r.1

/-- R415: the back-off before the next try, in ns. -/
def backoffNs (tries : Nat) : Nat := min (2000 * 2 ^ tries) 256000

/-- R259: whether the slot or the tail that a message is to be written to is held beside a region's words. -/
def State.ringBusy (s : State) (m : Msg) (c : Context) (r : Ring) : Bool :=
  let slot := m.target + BitVec.ofNat 64 (r.slotAt 0 r.tail)
  s.agentsHeld || s.regionBusy c.entry.asid (m.target + 4) 4 || (List.range r.slot).any fun i => s.regionBusy c.entry.asid (slot + BitVec.ofNat 64 (16 * i)) 16

/-- R266, R414: the ring agent writes a message into slot tail, zero-fills the rest, and then advances tail; or the reason for which the slot cannot be translated; none where the tail or, for another reason, the slot cannot be written. -/
def State.fillSlot (s : State) (m : Msg) (c : Context) (r : Ring) : Except (Option Nat) State :=
  let pad := List.replicate (16 * r.slot - m.bytes.length) (0 : Byte)
  match s.writePieces c.entry.asid m.floor r.slot (m.target + BitVec.ofNat 64 (r.slotAt 0 r.tail)) (m.bytes ++ pad) with
  | .error (reason, _) => .error (if reason ≤ 6 then some reason else none)
  | .ok s1 =>
    match s1.sysWrite c.entry.asid (m.target + 4) 4 (BitVec.ofNat 128 ((r.tail + 1) % 2 ^ 32)) m.floor with
    | .ok (s2, _) => .ok s2
    | .error _ => .error none

/-- R416, Table 24.3: the first free entry of a context's replay queue, none where it is full or unregistered; a count outside 64 to 65,536 registers none (log entry 74). -/
def State.replayEntry (s : State) (c : Context) : Option Nat :=
  if c.entry.replayBase = 0 ∨ c.entry.replayLog < 6 ∨ 16 < c.entry.replayLog then none
  else
    let used := s.msgs.filterMap fun m => if m.ctx = c.slot then m.entry else none
    (List.range (used.length + 1)).find? fun i => !used.contains i && decide (i < 2 ^ c.entry.replayLog)

/-- R416: the bytes of an entry, which the manual leaves open, written 16 at a time. -/
def State.writeEntry (s : State) (asid : Nat) : Nat → W64 → Except Nat State
  | 0, _ => .ok s
  | n + 1, a =>
    match s.agentWrite asid a 16 (Config.free s.free (2 ^ 20 + a.toNat / 8 + 1) ++ Config.free s.free (2 ^ 20 + a.toNat / 8)) with
    | .error r => .error r
    | .ok s1 => State.writeEntry s1 asid n (a + 16)

/-- R415, R416: a message is parked in the replay queue of its context, where there is room; else it stays in the retry buffer of its sender. -/
def State.parkMsg (s : State) (k : Nat) : State :=
  match nth? s.msgs k with
  | none => s
  | some m =>
    match m.entry, (s.ctx? m.ctx).bind fun c => (s.replayEntry c).map fun i => (c, i) with
    | none, some (c, i) =>
      match s.writeEntry c.entry.asid 32 (c.entry.replayBase + BitVec.ofNat 64 (512 * i)) with
      | .ok s1 => { s1.fresh with msgs := modNth (fun (x : Msg) => { x with entry := some i }) s1.msgs k }
      | .error _ => s
    | _, _ => s

/-- R223, R415: a message answered retry-later is parked and backs off by the clock of its sender's NI; the home has posted a record for the slot. -/
def State.msgLater (s : State) (k : Nat) : State :=
  let now (m : Msg) : Nat := s.clock (niClock ((s.unit? m.src).elim 0 s.clusterOfUnit))
  { s with msgs := modNth (fun (x : Msg) => { x with tries := x.tries + 1, sent := false, phase := .backoff (now x + backoffNs x.tries) }) s.msgs k }.parkMsg k

/-- R415: a message behind one that is parked is parked too. -/
def State.msgFollows (s : State) (k : Nat) (m : Msg) : State :=
  let parked (x : Msg) : Bool := s.msgGroup x == s.msgGroup m && x.dest == m.dest && x.va == m.va && decide (0 < x.tries)
  if (s.msgs.take k).any parked then s.parkMsg k else s

/-- R414, R415: the ring agent lands a message in this device's memory, or answers retry-later. -/
def State.landGlobal (s : State) (k : Nat) (m : Msg) (c : Context) (r : Ring) : State :=
  match s.fillSlot m c r with
  | .ok s1 => s1.msgDone k m
  | .error (some reason) => (s.homeRecord m.ctx 9 reason (m.target + BitVec.ofNat 64 (r.slotAt 0 r.tail))).msgLater k
  | .error none => s.dropMsg k m 5

/-- R408, R410, R414: a message for a ring on another device leaves through a port; what the agent there answers is that device's: landed, ring-full, retry-later or dropped. Where the device has become unreachable before the message has left, it is dropped with `target-gone`; afterwards, only where the home had not accepted it (R403, a free choice). -/
def State.remoteRing (s : State) (k : Nat) (m : Msg) (dev : Nat) (asid : Nat) : State :=
  let key : Option (Nat × Nat × Nat) := some (m.src, m.seq, m.lane)
  let lost := !s.reachable asid dev
  let waits := s.outbox.any fun o => o.lane == key
  if lost && (!m.sent || waits) then { s with outbox := s.outbox.filter fun o => o.lane != key }.dropMsg k m 4
  else if !m.sent then
    let pa := match s.locate asid m.va true with
      | .ok x => x.pa
      | .error _ => 0
    let req : RemoteReq := { dev := s.deviceId, pa := pa, kind := 3, size := 16, op := 0, ety := 0, data := 0, data2 := 0, floor := m.floor, message := m.bytes }
    { s with
      outbox := s.outbox ++ [{ dest := dev, req := req, lane := key, cls := 0, flits := m.bytes.length / 52 + 1 }]
      msgs := modNth (fun (x : Msg) => { x with sent := true }) s.msgs k }
  else if waits then s
  else match (Config.free s.free 24).toNat % (if lost then 5 else 4) with
  | 0 => s.msgDone k m
  | 1 => { s with msgs := modNth (fun (x : Msg) => { x with sent := false, phase := .refused }) s.msgs k }
  | 2 => s.msgLater k
  | 3 => s.dropMsg k m 5
  | _ => s.dropMsg k m 4

/-- R414: a message for a global ring reaches the ring agent of the header's home. -/
def agentMessage (k : Nat) (s : State) : Out :=
  match nth? s.msgs k with
  | none => .next s
  | some m =>
    if m.phase ≠ .flying then .next s
    else if s.msgBehind k m then .next (if m.dest.isSome then s.msgFollows k m else s)
    else match m.dest, s.ctx? m.ctx with
    | some dev, some c =>
      if dev ≠ s.deviceId then .next ((s.remoteRing k m dev c.entry.asid).fresh)
      else match s.globalRing m with
      | .gone => .next (s.dropMsg k m 4)
      | .invalid => .next (s.dropMsg k m 5)
      | .fault _ => .next (s.dropMsg k m 5)
      | .full => .next (s.msgPhase k .refused)
      | .ready r => .next (if s.ringBusy m c r then s else s.landGlobal k m c r)
    | _, _ => .next s

/-- R267: a refused message is sent again once its ring is no longer full. -/
def retryMessage (k : Nat) (s : State) : Out :=
  match nth? s.msgs k with
  | none => .next s
  | some m =>
    let st := match m.dest with
      | none => s.fifoState m
      | some d => if d = s.deviceId then s.globalRing m else .gone
    if m.phase = .refused ∧ st ≠ .full then .next (s.msgPhase k .flying) else .next s

/-- R415: the back-off of a parked message ends. -/
def backoffDone (k : Nat) (s : State) : Out :=
  match nth? s.msgs k with
  | none => .next s
  | some m =>
    match m.phase with
    | .backoff t => if t ≤ s.clock (niClock ((s.unit? m.src).elim 0 s.clusterOfUnit)) then .next (s.msgPhase k .flying) else .next s
    | _ => .next s

/-- One lane of `msg.send`: its source, target value, and for a global ring the header's translation. -/
structure MsgLane where
  lane : Nat
  src : Nat
  target : W64
deriving DecidableEq, Repr

def MsgLane.isGlobal (x : MsgLane) : Bool := x.target.msb

/-- R296: the header's address, as a 64-bit address of the context. -/
def MsgLane.header (x : MsgLane) : W64 := (x.target.setWidth 57).signExtend 64

/-- R297: whether a source lies in the team's own scratchpad or FIFO banks. -/
def State.ownSource (s : State) (team cluster addr len : Nat) : Bool :=
  decide (addr < 2 ^ 20) &&
  ((List.range (len / 16)).all fun i => match s.bankAt cluster (addr + 16 * i) with
    | some (t, m) => t == team && m != .cache
    | none => false)

/-- R297: the checks of `msg.send`, in their order. A poisoned source word raises nothing here: its bytes are sent (log entry 127). -/
def State.checkSend (s : State) (u : Unit) (len : Nat) (lanes : List MsgLane) : Check :=
  match lanes.find? fun x => x.src % 16 != 0 || (x.isGlobal && x.header.toNat % 16 != 0) with
  | some x => .trap 0x04 (if x.src % 16 ≠ 0 then BitVec.ofNat 64 x.src else x.header)
  | none =>
    match lanes.find? fun x => !s.ownSource u.team (s.clusterOfUnit u) x.src len with
    | some x => .trap 0x12 (BitVec.ofNat 64 x.src)
    | none =>
      match locateAll (fun a => s.locate (s.unitAsid u) (va57 a) true) ((lanes.filter fun x => x.isGlobal).map fun x => (x.lane, x.header)) with
      | .error (l, a, r) => .park a r l
      | .ok xs => .ok xs

/-- R296: the message of a lane, read from its source at issue. -/
def State.message (s : State) (uid : Nat) (u : Unit) (len : Nat) (homes : List (Nat × W64 × Xlate)) (x : MsgLane) : Msg :=
  let dest := if x.isGlobal then
      some (match homes.find? fun h => h.1 == x.lane with
        | some h => h.2.2.attr.device.getD s.deviceId
        | none => s.deviceId)
    else none
  { src := uid, pc := u.pc.signExtend 64, seq := s.seq, lane := x.lane, ctx := (s.team? u.team).elim 0 fun t => t.ctx
    cluster := if x.isGlobal then 0 else (x.target.extractLsb' 20 7).toNat
    dest := dest, va := if x.isGlobal then va57 x.header else 0, sram := if x.isGlobal then 0 else (x.target.extractLsb' 0 20).toNat
    bytes := bytesOf len (s.sramBytes (s.clusterOfUnit u) x.src len), floor := u.floor, tries := 0, sent := false, phase := .flying }

/-- R267, R416: whether a cluster's retry buffer is full: messages that a full ring has refused, and those answered retry-later that the replay queue has no room for. -/
def State.retryFull (s : State) (cluster : Nat) : Bool :=
  decide (64 ≤ (s.msgs.filter fun m => (m.phase == .refused || (decide (0 < m.tries) && m.entry.isNone)) && (match s.unit? m.src with
    | some u => s.clusterOfUnit u == cluster
    | none => false)).length)

/-- R296, R297. Send one message from each guarded-in active lane. -/
def execMsgSend (w : A64) (s : State) : Out :=
  let a := srcOf w.pa w.ra 1
  let t := Src.vec w.rb.toNat 2 0
  let len := 16 * (w.rc.toNat % 16 + 1)
  let sh := (formA64 19 3 w).shape [a, t] []
  s.issueGlobal sh fun uid u =>
    let lanes := (u.guardedLanes sh.guard).map fun l => { lane := l, src := (s.arg32 u a l).toNat, target := s.arg64 u t l : MsgLane }
    match s.checkSend u len lanes with
    | .trap c v => s.raise uid u sh.len c v
    | .park x r l => if u.drained then (s.setUnit uid { u with lastIssue := s.tick }).parkFault uid x 9 r (some l) else s.waits uid u .drain
    | .ok homes =>
      if u.pathFull .msg then s.waits uid u .counter
      else if !u.spq.isEmpty || s.groupSpAhead u then s.waits uid u .scoreboard
      else if s.retryFull (s.clusterOfUnit u) then s.waits uid u .counter
      else
        let ms := lanes.map fun x => s.message uid u len homes x
        let u1 := if ms.isEmpty then u.instantOp .msg s.seq else u.raiseOp .msg s.seq
        ({ s with msgs := s.msgs ++ ms }.retire uid u1 sh).takeSeq

/-- A ring that `msg.wait` or `msg.pop` names: the state after reading it, the ring and the stamp of its tail; or a trap or translation fault; or an earlier access of the group to it that comes first (R114). -/
inductive RingRead where
  | ring (s : State) (r : Ring) (x : Option Xlate) (stamp : Nat)
  | trap (cause : Nat) (tval : W64)
  | park (reason : Nat)
  | behind

/-- R298: the ring in FIFO banks of the team's own allocation. -/
def State.ownRing (s : State) (u : Unit) (a : W64) : RingRead :=
  if 2 ^ 20 ≤ a.toNat then .trap 0x12 a
  else match s.fifoRing (s.clusterOfUnit u) a.toNat with
  | some (t, r) => if t = u.team then .ring s r none 0 else .trap 0x12 a
  | none => .trap 0x12 a

/-- R298: the ring in global memory of this device, checked as an 8-byte atomic is. -/
def State.ownGlobalRing (s : State) (uid : Nat) (u : Unit) (a : W64) : RingRead :=
  match s.checkGlobal u.plain (homeAccess 8 true) [(0, a)] with
  | .trap c v => .trap c v
  | .park _ r _ => .park r
  | .ok [] => .trap 0x12 a
  | .ok (x :: _) =>
    if s.homeBusy uid u x.2.2 16 then .behind
    else if s.poisoned x.2.2 16 then .trap 0x13 a
    else
      let d := s.readHome uid u x.2.2 16
      let r := ringOf d.2.1
      if a.toNat % 16 ≠ 0 ∨ !r.sound ∨ x.2.2.attr.device.isSome then .trap 0x12 a else .ring d.1 r (some x.2.2) d.2.2

/-- Table 13.4: the frame of `msg.wait` and `msg.pop`: the ring and the count n they name. A translation fault of a global header is recorded with access 3. -/
def ringOp (op : BitVec 6) (w : A64) (k : Nat → Unit → Shape → State → Ring → Option Xlate → Nat → Nat → State) (s : State) : Out :=
  let reg := w.rc.getLsbD 0
  let sh := (formA64 19 op w).shape (if reg then [.uni w.ra.toNat 1, .uni w.rb.toNat 1] else [.uni w.ra.toNat 1]) []
  s.issueGlobal sh fun uid u =>
    let a := u.uget w.ra.toNat
    let n := if reg then (u.uget w.rb.toNat).toNat else w.rb.toNat
    if !u.spq.isEmpty || s.groupSpAhead u then s.waits uid u .scoreboard
    else match if w.rc.getLsbD 1 then s.ownGlobalRing uid u a else s.ownRing u a with
    | .trap c v => s.raise uid u sh.len c v
    | .park r => if u.drained then (s.setUnit uid { u with lastIssue := s.tick }).parkFault uid a 3 r none else s.waits uid u .drain
    | .behind => s.waits uid u .counter
    | .ring s1 r x stamp => k uid (s1.withReqs uid u) sh s1 r x stamp n

/-- R268, R298. Wait until a ring holds n messages. -/
def execMsgWait (w : A64) (s : State) : Out :=
  ringOp 4 w (fun uid u sh s1 r x stamp n =>
    if r.unread < min n r.count then s1.waits uid u (.msgWait (u.uget w.ra.toNat))
    else s1.retire uid (if x.isSome then u.acquireStamp stamp else u) sh) s

/-- R268, R298. Free n messages of a ring, or all that are unread. -/
def execMsgPop (w : A64) (s : State) : Out :=
  ringOp 5 w (fun uid u sh s1 r x _ n =>
    let head := (r.head + min n r.unread) % 2 ^ 32
    match x with
    | none =>
      let a := (u.uget w.ra.toNat).toNat
      (s1.sramPut (s.clusterOfUnit u) a (bytesOf 4 head)).retire uid u sh
    | some x =>
      if s1.inRegionSet x.asid x.va 4 then s1.waits uid u (.msgWait (u.uget w.ra.toNat))
      else (s1.writeAt (some (s.unitCore u)) x 4 (BitVec.ofNat 128 head) u.floor).1.retire uid u sh) s

/-- R266. Ring message received by the NI and written into slot tail. -/
def execRingMessage (k : Nat) (s : State) : Out := fifoMessage k s

/-- R267. A refused message is sent again. -/
def execMessageRetry (k : Nat) (s : State) : Out := retryMessage k s

/-- R414. Ring agent on the home device lands a message in a global ring. -/
def execRingAgentMessage (k : Nat) (s : State) : Out := agentMessage k s

/-- R415. Back-off of a parked message ends. -/
def execBackoffExpiry (k : Nat) (s : State) : Out := backoffDone k s

end Sys2Proof.Machine
end

