-- ==== Sys2Proof/Machine/Copy.lean ====
section
/-!
DEFINITION. The issue of copy-engine and tower-base commands, class 20 (R301 to R304, R308, R350 to R360).
-/

namespace Sys2Proof.Machine

/-- R302: the number of a group's open batch among all batches. -/
def batchId (uid n : Nat) : Nat := uid * 2 ^ 32 + n

/-- The destination ranges of a copy: whether global, first byte, end. A conversion whose output length is not known at issue counts with all it has room for (log entry 129). -/
def copyDst (k : CopyKind) (size : Nat) : List (Bool × Nat × Nat) :=
  match k with
  | .lanes es => es.map fun e => (e.2.global, e.2.addr.toNat, e.2.addr.toNat + size)
  | .tile _ g _ dst _ ds len rows => (List.range rows).map fun (r : Nat) =>
      let a := (dst + BitVec.ofInt 64 (ds * (r : Int))).toNat
      (g, a, a + len * size)
  | .zero a len => [(false, a, a + len)]
  | .conv k _ a b block st =>
    let x : ConvArgs := { e := size, sp := false, a := a, b := b, p := block }
    (match k with
      | .pack => [(false, (x.arr 0).toNat, (x.arr 0).toNat + (x.rows * x.cols + 31) / 32 * 4), (false, (x.arr 1).toNat, (x.arr 1).toNat + x.rows * x.cols * x.e)]
      | .isect =>
        let n := (x.arr 4).toNat / 2 ^ 32 * x.e
        [(false, a.toNat, a.toNat + n), (false, b.toNat, b.toNat + n)]
      | .merge => [(false, a.toNat, a.toNat + b.toNat * 8)]
      | _ => (List.range x.rows).map fun r => (false, a.toNat + r * x.stride, a.toNat + r * x.stride + x.cols * x.e)) ++ [(false, st, st + 8)]

/-- R306, R308: how many 128-byte lines some ranges touch, each counted once. -/
def linesIn (rs : List (Bool × Nat × Nat)) : Nat :=
  ((rs.filter fun r => decide (r.2.1 < r.2.2)).flatMap fun r =>
    (List.range ((r.2.2 + 127) / 128 - r.2.1 / 128)).map fun i => (r.1, r.2.1 / 128 + i)).eraseDups.length

/-- R308: the entries a command takes. -/
def copyEntries (k : CopyKind) (size : Nat) : Nat := max 1 (linesIn (copyDst k size))

/-- R308: the commands that a core's queue and its spill ring hold, by operation number, context and entries, in the order in which they were accepted. -/
def State.queued (s : State) (core : Nat) : List (Nat × Nat × Nat) :=
  let ctxOf (t : Nat) : Nat := (s.team? t).elim 0 fun x => x.ctx
  let commits := s.batches.filterMap fun b => ((s.unit? (b.id / 2 ^ 32)).bind fun u => s.team? u.team).bind fun t =>
    if b.closed && t.core == core then some (b.seq, t.ctx, 1) else none
  let all := ((s.copies.filter fun c => c.core == core).map fun c => (c.seq, ctxOf c.team, c.entries)) ++
    ((s.gathers.filter fun c => c.core == core).map fun c => (c.seq, ctxOf c.team, c.entries)) ++ commits
  all.foldl (fun (l : List (Nat × Nat × Nat)) x => l.takeWhile (fun y => decide (y.1 ≤ x.1)) ++ [x] ++ l.dropWhile (fun y => decide (y.1 ≤ x.1))) []

/-- R308: how many entries of a context stand in its spill ring when the first `room` entries of a core stand in its queue. -/
def spilledFrom (ctx : Nat) : Nat → List (Nat × Nat × Nat) → Nat
  | _, [] => 0
  | room, (_, c, n) :: rest => (if c = ctx then n - room else 0) + spilledFrom ctx (room - n) rest

/-- R308: the entries of a context in its spill ring, which every core shares. -/
def State.spilled (s : State) (ctx : Nat) : Nat := (List.range 256).foldl (fun (n : Nat) (k : Nat) => n + spilledFrom ctx 256 (s.queued k)) 0

/-- R308: whether a command must wait at issue: the core's queue is full, and so is the spill ring of its context. Where there is any room a command is accepted whole (log entry 119). -/
def State.queueFull (s : State) (core : Nat) (c : Option Context) : Bool :=
  if (s.queued core).foldl (fun (n : Nat) x => n + x.2.2) 0 < 256 then false
  else match c with
    | none => true
    | some x => decide (2 ^ x.entry.spillLog ≤ s.spilled x.slot)

/-- The size codes of Table 18.1. -/
def sizeOfCode (n : Nat) : Nat := if n = 0 then 4 else if n = 1 then 8 else 16

/-- The shape of a class 20 word: copy-role groups alone issue it. -/
def copyShape (op : BitVec 6) (w : A64) (srcs : List Src) (dsts : List (RegKind × Nat)) : Shape :=
  { (formA64 20 op w).shape srcs dsts with role := some 0 }

/-- R351: the first check that fails: its cause and `tval`. -/
def firstFault : List (Option (Nat × W64)) → Option (Nat × W64)
  | [] => none
  | some x :: _ => some x
  | none :: rest => firstFault rest

/-- A check of one value. -/
def failIf (b : Bool) (cause : Nat) (v : W64) : Option (Nat × W64) := if b then some (cause, v) else none

/-- A check of one value of each lane, the lowest lane first. -/
def failAny {α : Type} (xs : List α) (bad : α → Bool) (cause : Nat) (v : α → W64) : Option (Nat × W64) :=
  (xs.find? bad).map fun x => (cause, v x)

/-- R355: whether the end of an element is misplaced, or cannot be an address. -/
def CopyEnd.misaligned (e : CopyEnd) (n : Nat) : Bool := e.addr.toNat % n != 0

def CopyEnd.noAddress (e : CopyEnd) : Bool := if e.global then !canonical e.addr else decide (2 ^ 20 ≤ e.addr.toNat)

/-- R196: whether a scratchpad end reaches a header of its cluster. -/
def State.headerHit (s : State) (cluster : Nat) (e : CopyEnd) (n : Nat) : Bool := !e.global && s.inHeader cluster e.addr.toNat n

/-- The frame of a command that joins its group's batch (R302, R304, R308). -/
def batchOp (sh : Shape) (kind : State → Unit → Nat × CopyKind) (entries : CopyKind → Nat → Nat)
    (check : State → Unit → Option (Nat × W64)) (s : State) : Out :=
  s.issue sh fun uid u =>
    match check s u with
    | some (c, v) => s.raise uid u sh.len c v
    | none =>
      let core := s.unitCore u
      let k := kind s u
      let n := entries k.2 k.1
      if u.pathFull .cp then s.waits uid u .counter
      else if s.queueFull core (s.unitCtx u) then s.waits uid u .counter
      else
        let cmd : CopyCmd :=
          { seq := s.seq, core := core, team := u.team, unit := uid, batch := batchId uid u.batch, pc := u.pc.signExtend 64, size := k.1
            kind := k.2, floor := u.floor, next := 0, ctime := 0, entries := n, held := [], got := [], sent := none, writes := none, fault := none }
        ({ s with copies := s.copies ++ [cmd] }.retire uid (u.instantOp .cp s.seq) sh).takeSeq

/-- R355, Table 18.3: the elements of `cp`, in lane order. -/
def State.cpElems (s : State) (u : Unit) (w : A64) : List (CopyEnd × CopyEnd) :=
  let p := w.pa.toNat
  let dir := p / 4 % 4
  let ra := Src.vec w.ra.toNat 1 0
  let rd := Src.vec w.rd.toNat 1 0
  (u.guardedLanes w.guard).map fun l =>
    let x := s.arg32 u ra l
    let idx : W64 := if w.pa.getLsbD 4 then x.setWidth 64 else x.signExtend 64
    let g : CopyEnd := { global := true, addr := u.uget w.rb.toNat + (idx <<< (p / 32 % 4)) }
    let a : CopyEnd := { global := false, addr := x.setWidth 64 }
    let d : CopyEnd := { global := false, addr := (s.arg32 u rd l).setWidth 64 }
    if dir = 0 then (g, d) else if dir = 1 then (a, d) else (d, g)

/-- R355. Copy one element for each guarded-in active lane. -/
def execCp (w : A64) (s : State) : Out :=
  let p := w.pa.toNat
  let n := sizeOfCode (p % 4)
  let srcs := [Src.vec w.ra.toNat 1 0] ++ (if p / 4 % 4 = 1 then [] else [.uni w.rb.toNat 1]) ++ [.vec w.rd.toNat 1 0]
  batchOp (copyShape 0 w srcs []) (fun s u => (n, .lanes (s.cpElems u w))) copyEntries
    (fun s u =>
      let es := s.cpElems u w
      let cl := s.clusterOfUnit u
      firstFault
        [failAny es (fun e => e.1.misaligned n || e.2.misaligned n) 0x04 (fun e => if e.1.misaligned n then e.1.addr else e.2.addr),
         failAny es (fun e => e.1.noAddress || e.2.noAddress) 0x12 (fun e => if e.1.noAddress then e.1.addr else e.2.addr),
         failAny es (fun e => s.headerHit cl e.2 n) 0x11 (fun e => e.2.addr)]) s

/-- R357: the operands of `cp.tile`. -/
structure TileArgs where
  srcG : Bool
  dstG : Bool
  src : W64
  dst : W64
  sstride : Int
  dstride : Int
  len : Nat
  rows : Nat
  spare : W32
  counts : W64
deriving DecidableEq, Repr

def Unit.tileArgs (u : Unit) (w : A64) : TileArgs :=
  let dir := w.pa.toNat / 4 % 4
  let p := u.uget w.rb.toNat
  let q := u.uget (w.rb.toNat + 1)
  { srcG := dir == 0, dstG := dir == 2, src := u.uget w.ra.toNat, dst := u.uget w.rd.toNat, sstride := (p.extractLsb' 0 32).toInt
    dstride := (p.extractLsb' 32 32).toInt, len := (q.extractLsb' 0 16).toNat, rows := (q.extractLsb' 16 16).toNat
    spare := q.extractLsb' 32 32, counts := q }

/-- R351: the first byte of some rows of scratchpad that lies in a header of the cluster, the first such row's. -/
def State.rowsHitHeader (s : State) (cluster : Nat) (base : Nat) (stride : Int) (bytes rows : Nat) : Option W64 :=
  if bytes = 0 then none
  else (List.range rows).findSome? fun (r : Nat) => s.headerAt cluster ((base : Int) + stride * (r : Int)) bytes

/-- R357. Copy a strided tile. -/
def execCpTile (w : A64) (s : State) : Out :=
  let n := sizeOfCode (w.pa.toNat % 4)
  batchOp (copyShape 2 w [.uni w.ra.toNat 1, .uni w.rb.toNat 2, .uni w.rd.toNat 1] [])
    (fun _ u =>
      let a := u.tileArgs w
      (n, .tile a.srcG a.dstG a.src a.dst a.sstride a.dstride a.len a.rows)) copyEntries
    (fun s u =>
      let a := u.tileArgs w
      let src : CopyEnd := { global := a.srcG, addr := a.src }
      let dst : CopyEnd := { global := a.dstG, addr := a.dst }
      let hit := if a.dstG then none else s.rowsHitHeader (s.clusterOfUnit u) a.dst.toNat a.dstride (a.len * n) a.rows
      firstFault
        [failIf (a.spare != 0) 0x0C a.counts,
         failIf (src.misaligned n) 0x04 a.src,
         failIf (dst.misaligned n) 0x04 a.dst,
         failIf (a.sstride % (n : Int) != 0) 0x04 (BitVec.ofInt 64 a.sstride),
         failIf (a.dstride % (n : Int) != 0) 0x04 (BitVec.ofInt 64 a.dstride),
         failIf src.noAddress 0x12 a.src,
         failIf dst.noAddress 0x12 a.dst,
         hit.map fun v => (0x11, v)]) s

/-- R358. Write zeros to a scratchpad range. -/
def execCpZero (w : A64) (s : State) : Out :=
  batchOp (copyShape 3 w [.uni w.ra.toNat 1, .uni w.rb.toNat 1] [])
    (fun _ u => (1, .zero (u.uget w.ra.toNat).toNat (u.uget w.rb.toNat).toNat)) copyEntries
    (fun s u =>
      let a := u.uget w.ra.toNat
      let len := u.uget w.rb.toNat
      firstFault
        [failIf (decide (2 ^ 20 ≤ len.toNat)) 0x0C len,
         failIf (a.toNat % 16 != 0) 0x04 a,
         failIf (len.toNat % 16 != 0) 0x04 len,
         failIf (decide (2 ^ 20 ≤ a.toNat)) 0x12 a,
         (if len = 0 then none else s.headerAt (s.clusterOfUnit u) a.toNat len.toNat).map fun v => (0x11, v)]) s

/-- R360, Table 18.4: the shape operand. -/
structure ConvShape where
  rows : Nat
  cols : Nat
  stride : Nat
deriving DecidableEq, Repr

def convShape (x : W64) : ConvShape :=
  { rows := (x.extractLsb' 0 16).toNat, cols := (x.extractLsb' 16 16).toNat, stride := (x.extractLsb' 32 20).toNat }

/-- R360: an array of a conversion: its address, its alignment, whether it is in scratchpad, and whether it is written. -/
structure ConvArray where
  addr : W64
  align : Nat
  sp : Bool
  out : Bool
deriving DecidableEq, Repr

def ConvArray.noAddress (a : ConvArray) : Bool := ({ global := !a.sp, addr := a.addr } : CopyEnd).noAddress

/-- Table 18.2: the arrays of a conversion, the status word last. -/
def convArrays (k : ConvKind) (e : Nat) (rsp : Bool) (a b : W64) (p : Nat → W64) (status : W64) : List ConvArray :=
  let rd (x : W64) (n : Nat) : ConvArray := { addr := x, align := n, sp := rsp, out := false }
  let wr (x : W64) (n : Nat) : ConvArray := { addr := x, align := n, sp := true, out := true }
  (match k with
    | .unpackBitmap => [wr a e, rd (p 0) 4, rd (p 1) e]
    | .unpackCsr => [wr a e, rd (p 0) 4, rd (p 1) 4, rd (p 2) e]
    | .unpackCoo => [wr a e, rd (p 0) 8, rd (p 1) e]
    | .pack => [rd a e, wr (p 0) 4, wr (p 1) e]
    | .isect => [wr a e, wr b e, rd (p 0) 4, rd (p 1) e, rd (p 2) 4, rd (p 3) e]
    | .merge => [wr a 8, rd (p 0) 4, rd (p 1) 4]) ++ [wr status 8]

/-- R360: the checks on the counts of a conversion. -/
def convCounts (k : ConvKind) (e : Nat) (b : W64) (p : Nat → W64) : List (Option (Nat × W64)) :=
  match k with
  | .isect =>
    let words := (p 4).extractLsb' 0 32
    [failIf (decide (2 ^ 22 < words.toNat)) 0x0C (words.setWidth 64)]
  | .merge =>
    let la := (p 2).extractLsb' 0 32
    let lb := (p 2).extractLsb' 32 32
    [failIf (decide (2 ^ 27 ≤ la.toNat)) 0x0C (la.setWidth 64), failIf (decide (2 ^ 27 ≤ lb.toNat)) 0x0C (lb.setWidth 64),
     failIf (decide (2 ^ 32 ≤ b.toNat)) 0x0C b]
  | _ =>
    let sh := convShape b
    [failIf (decide (2 ^ 52 ≤ b.toNat)) 0x0C b, failIf (decide (sh.stride < sh.cols * e)) 0x0C b]

def convStride (k : ConvKind) (e : Nat) (b : W64) : Option (Nat × W64) :=
  match k with
  | .isect => none
  | .merge => none
  | _ => failIf ((convShape b).stride % e != 0) 0x04 (BitVec.ofNat 64 (convShape b).stride)

/-- R360: the bytes a conversion is sure to write, by their first address and count. -/
def convExtents (k : ConvKind) (e : Nat) (a b : W64) (p : Nat → W64) (status : W64) : List (W64 × Nat × Nat × Nat) :=
  let sh := convShape b
  (match k with
    | .pack => [(p 0, 4, 1, (sh.rows * sh.cols + 31) / 32 * 4)]
    | .isect => []
    | .merge => []
    | _ => [(a, sh.stride, sh.rows, sh.cols * e)]) ++ [(status, 8, 1, 8)]

/-- R360: the frame of a sparse conversion; `n` is how many registers its block takes. -/
def convOp (op : BitVec 6) (k : A64 → ConvKind) (n : A64 → Nat) (w : A64) (s : State) : Out :=
  let e := 2 ^ (w.pa.toNat / 4 % 4)
  let rsp := w.pa.getLsbD 4
  let blk := w.pb.toNat % 32
  let kind := k w
  let srcs := [Src.uni w.ra.toNat 1, .uni w.rb.toNat 1, .uni blk (n w), .uni w.rc.toNat 1]
  batchOp (copyShape op w srcs [])
    (fun _ u => (e, .conv kind rsp (u.uget w.ra.toNat) (u.uget w.rb.toNat) ((List.range (n w)).map fun i => u.uget (blk + i)) (u.uget w.rc.toNat).toNat))
    copyEntries
    (fun s u =>
      let a := u.uget w.ra.toNat
      let b := u.uget w.rb.toNat
      let p := fun i => u.uget (blk + i)
      let st := u.uget w.rc.toNat
      let arrays := convArrays kind e rsp a b p st
      let cl := s.clusterOfUnit u
      firstFault (convCounts kind e b p ++
        [convStride kind e b,
         failAny arrays (fun x => x.addr.toNat % x.align != 0) 0x04 (fun x => x.addr),
         failAny arrays ConvArray.noAddress 0x12 (fun x => x.addr),
         (convExtents kind e a b p st).findSome? fun x => (s.rowsHitHeader cl x.1.toNat x.2.1 x.2.2.2 x.2.2.1).map fun v => (0x11, v)])) s

/-- R317, R360. Unpack a compressed array to a dense tile. -/
def execCpUnpack (w : A64) (s : State) : Out :=
  convOp 6 (fun w => if w.pa.toNat % 4 = 0 then .unpackBitmap else if w.pa.toNat % 4 = 1 then .unpackCsr else .unpackCoo)
    (fun w => if w.pa.toNat % 4 = 0 then 2 else 3) w s

/-- R317, R360. Pack a dense tile to a bitmap and its nonzero values. -/
def execCpPack (w : A64) (s : State) : Out := convOp 7 (fun _ => .pack) (fun _ => 2) w s

/-- R318, R360. Intersect two bitmaps with their values. -/
def execCpIsect (w : A64) (s : State) : Out := convOp 8 (fun _ => .isect) (fun _ => 5) w s

/-- R319, R360. Intersect two ascending key streams. -/
def execCpMerge (w : A64) (s : State) : Out := convOp 9 (fun _ => .merge) (fun _ => 3) w s

/-- R302: a batch of a unit changed, or begun. -/
def State.withBatch (s : State) (id : Nat) (f : Batch → Batch) : State :=
  if s.batches.any fun b => b.id == id then { s with batches := s.batches.map fun b => if b.id = id then f b else b }
  else { s with batches := s.batches ++ [f { id := id, seq := 0, closed := false, tl := none, inc := 0, stage := none, ctime := 0, pc := 0 }] }

/-- R302, R356. Close the batch, naming its counter and stage word. -/
def execCpCommit (w : A64) (s : State) : Out :=
  let sp := w.pa.getLsbD 0
  let imm := w.pa.getLsbD 1
  let sh := copyShape 1 w ([.uni w.ra.toNat 1] ++ (if imm then [] else [.uni w.rb.toNat 1]) ++ [.uni w.rc.toNat 1]) []
  s.issue sh fun uid u =>
    let ctr := u.uget w.ra.toNat
    let stage : W32 := (u.uget w.rc.toNat).setWidth 32
    let cl := s.clusterOfUnit u
    let hasC := decide (w.ra ≠ 0)
    let hasG := decide (w.rc ≠ 0)
    let g := barAddr cl stage
    let e : CopyEnd := { global := !sp, addr := ctr }
    match firstFault
      [failIf (hasC && e.misaligned 8) 0x04 ctr,
       failIf (hasG && g.sram % 8 != 0) 0x04 (stage.setWidth 64),
       failIf (hasC && e.noAddress) 0x12 ctr,
       failIf (hasC && s.headerHit cl e 8) 0x11 ctr,
       failIf (hasG && g.cluster == cl && s.inHeader cl g.sram 8) 0x11 (stage.setWidth 64)] with
    | some (c, v) => s.raise uid u sh.len c v
    | none =>
      if u.pathFull .cp || s.queueFull (s.unitCore u) (s.unitCtx u) then s.waits uid u .counter
      else
        let inc : W64 := if imm then w.pb.setWidth 64 else BitVec.ofNat 64 ((u.uget w.rb.toNat).toNat % 2 ^ 63)
        let s1 := s.withBatch (batchId uid u.batch) fun b =>
          { b with seq := s.seq, closed := true, tl := if hasC then some (!sp, ctr) else none, inc := inc, stage := if hasG then some stage else none,
                   pc := u.pc.signExtend 64 }
        (s1.retire uid { u.instantOp .cp s.seq with batch := u.batch + 1 } sh).takeSeq

/-- R359: the segments of `cp.gather` and `cp.scatter`: scratchpad address, start and count of each guarded-in active lane. -/
def State.segments (s : State) (u : Unit) (w : A64) : List (Nat × Nat × Nat) :=
  (u.guardedLanes w.guard).map fun l =>
    ((s.arg32 u (.vec w.rd.toNat 1 0) l).toNat, (s.arg32 u (.vec w.ra.toNat 1 0) l).toNat, (s.arg32 u (.vec w.rb.toNat 1 0) l).toNat)

/-- R303, R359: the frame of `cp.gather` and `cp.scatter`. -/
def towerOp (op : BitVec 6) (scatter : Bool) (w : A64) (s : State) : Out :=
  let pb := w.pb.toNat
  let n := sizeOfCode (pb / 64)
  let lsp := w.pb.getLsbD 5
  let rt := w.rc.toNat
  let sh := copyShape op w
    [.vec w.ra.toNat 1 0, .uni (w.pa.toNat % 32) 1, .vec w.rb.toNat 1 0, .uni (pb % 32) 1, .vec w.rd.toNat 1 0] [(.u, rt)]
  s.issue sh fun uid u =>
    let base := u.uget (w.pa.toNat % 32)
    let list := u.uget (pb % 32)
    let segs := s.segments u w
    let cl := s.clusterOfUnit u
    let listEnd : CopyEnd := { global := !lsp, addr := list }
    match firstFault
      [failAny segs (fun x => decide (65535 < x.2.2)) 0x0C (fun x => BitVec.ofNat 64 x.2.2),
       failIf (base.toNat % n != 0) 0x04 base,
       failIf (list.toNat % 4 != 0) 0x04 list,
       failAny segs (fun x => x.1 % n != 0) 0x04 (fun x => BitVec.ofNat 64 x.1),
       failIf (!canonical base) 0x12 base,
       failIf listEnd.noAddress 0x12 list,
       failAny segs (fun x => decide (2 ^ 20 ≤ x.1)) 0x12 (fun x => BitVec.ofNat 64 x.1),
       if scatter then none else segs.findSome? fun x => (if x.2.2 = 0 then none else s.headerAt cl x.1 (x.2.2 * n)).map fun v => (0x11, v)] with
    | some (c, v) => s.raise uid u sh.len c v
    | none =>
      let core := s.unitCore u
      let entries := max 1 (linesIn (segs.map fun x => (false, x.1, x.1 + x.2.2 * n)))
      if u.pathFull .cp then s.waits uid u .counter
      else if s.queueFull core (s.unitCtx u) then s.waits uid u .counter
      else
        let ticket := ((s.team? u.team).elim 0 fun t => t.tTicket) + 1
        let cmd : TowerCmd :=
          { seq := s.seq, core := core, team := u.team, unit := uid, pc := u.pc.signExtend 64, ticket := ticket, scatter := scatter, size := n
            listSp := lsp, list := list, base := base, segs := segs, floor := u.floor, next := 0, ctime := 0, entries := entries, held := []
            got := [], fault := none }
        let s1 := { s with gathers := s.gathers ++ [cmd] }.modTeam u.team fun t => { t with tTicket := ticket }
        let u1 := (u.instantOp .cp s.seq).writeVar [⟨.u, rt, [(0, BitVec.ofNat 64 ticket)]⟩] 0
        (s1.retire uid u1 sh).takeSeq

/-- R311, R359. Gather the elements that an index list names. -/
def execCpGather (w : A64) (s : State) : Out := towerOp 4 false w s

/-- R312, R359. Scatter elements to the places that an index list names. -/
def execCpScatter (w : A64) (s : State) : Out := towerOp 5 true w s

end Sys2Proof.Machine
end

