-- ==== Sys2Proof/Machine/CopyEngine.lean ====
section
/-!
DEFINITION. The copy engine and the tower base at work: pieces, conversions, elements, batches, tickets and their faults (R302, R303, R305 to R319).
-/

namespace Sys2Proof.Machine

/-- The scratchpad destinations of a gather. -/
def towerDst (c : TowerCmd) : List (Bool × Nat × Nat) :=
  if c.scatter then [] else c.segs.map fun g => (false, g.1, g.1 + g.2.2 * c.size)

def rangesMeet (xs ys : List (Bool × Nat × Nat)) : Bool :=
  xs.any fun x => ys.any fun y => x.1 == y.1 && decide (x.2.1 < y.2.2 ∧ y.2.1 < x.2.2)

/-- R307: whether an earlier command of the same group is to write some of the same scratchpad bytes first. -/
def State.behindEarlier (s : State) (unit seq : Nat) (dst : List (Bool × Nat × Nat)) : Bool :=
  let sp := dst.filter fun r => !r.1
  (s.copies.any fun c => c.unit == unit && decide (c.seq < seq) && rangesMeet (copyDst c.kind c.size) sp) ||
  (s.gathers.any fun c => c.unit == unit && decide (c.seq < seq) && decide (c.next < c.count) && rangesMeet (towerDst c) sp)

/-- R212: the canonical name of a global address, or none. -/
def State.globalName (s : State) (asid : Nat) (e : CopyEnd) : Option (Nat × Nat) :=
  if !e.global then none
  else match s.locate asid (va57 e.addr) true with
    | .ok x => some (x.asid, x.va)
    | .error _ => none

/-- R307, R212: the same for the bytes of one global element, under whatever names the commands give them. A scatter's places follow from its list. -/
def State.behindGlobal (s : State) (h : EngineHome) (unit seq : Nat) (e : CopyEnd) (n : Nat) : Bool :=
  match s.globalName h.asid e with
  | none => false
  | some a =>
    let meets (d : CopyEnd) (m : Nat) : Bool := match s.globalName h.asid d with
      | some b => a.1 == b.1 && decide (a.2 < b.2 + m ∧ b.2 < a.2 + n)
      | none => false
    (s.copies.any fun c => c.unit == unit && decide (c.seq < seq) && ((copyDst c.kind c.size).any fun r => r.1) &&
      (List.range (c.count - c.next)).any fun k => meets (c.elem (c.next + k)).2 c.elemSize) ||
    (s.gathers.any fun c => c.scatter && c.unit == unit && decide (c.seq < seq) &&
      (List.range (c.count - c.next)).any fun k => match s.towerRead h c (c.next + k) with
        | .ok (_, idx, _) => idx != skipIndex && meets (c.globalEnd idx) c.size
        | .error _ => false)

/-- R259: the words of a global destination that lie in some region's read or write set. -/
def State.heldWords (s : State) (h : EngineHome) (e : CopyEnd) (n : Nat) : List (Nat × Nat) :=
  match s.globalName h.asid e with
  | none => []
  | some a => if s.inRegionSet a.1 a.2 n then (List.range (n / 4)).map fun i => (a.1, a.2 / 4 + i) else []

/-- R197: the banks that a command has covered with zero bytes alone; a copy sets flags when all its data is zero. -/
def State.zeroedBanks (s : State) (h : EngineHome) (c : CopyCmd) : List Nat :=
  let n := c.elemSize
  let dst := ((List.range c.count).map fun i => (c.elem i).2).filter fun e => !e.global
  let zero (e : CopyEnd) : Bool := s.sramBytes h.cluster e.addr.toNat n == 0
  let clears := match c.kind with
    | .zero .. => true
    | _ => dst.all zero
  if !clears then []
  else
    let starts := (dst.filter zero).map fun e => e.addr.toNat
    ((starts.map fun a => a / 1024).eraseDups.filter fun b => (List.range (1024 / n)).all fun j => starts.contains (b * 1024 + n * j)).map
      fun b => h.cluster * 1024 + b

/-- R302, R197: a finished copy leaves the queue; its batch takes its completion time, and the banks it zeroed take their flags. -/
def State.finishCopy (s : State) (k : Nat) (c : CopyCmd) : State :=
  let zs := s.zeroedBanks (s.engineHome c.team) c
  let s1 := { s with copies := dropNth s.copies k, zeroBanks := zs ++ s.zeroBanks.filter fun b => !zs.contains b }
  (s1.withBatch c.batch fun b => { b with ctime := max b.ctime c.ctime }).modTeam c.team fun t => { t with wct := max t.wct c.ctime }

/-- R307, R259: whether the next element of a copy stays behind an earlier write of its group, or beside a region's words. -/
def State.elemWaits (s : State) (h : EngineHome) (c : CopyCmd) : Bool :=
  let e := (c.elem c.next).2
  s.behindGlobal h c.unit c.seq e c.elemSize || !(s.heldWords h e c.elemSize).isEmpty

/-- The command past its next element, whose write has the completion time `t`. -/
def CopyCmd.past (c : CopyCmd) (t : Nat) : CopyCmd :=
  { c with next := c.next + 1, ctime := max c.ctime t, held := [], got := c.got.filter (fun g => g.1 != c.next), sent := none }

/-- R309: elements of one page, in order, as far as none waits or lies on another device. -/
def State.copyRun (h : EngineHome) (page : Option (Nat × Nat)) : Nat → State → CopyCmd → State × CopyCmd
  | 0, s, c => (s, c)
  | fuel + 1, s, c =>
    if c.count ≤ c.next ∨ s.elemPage h c c.next ≠ page ∨ s.elemWaits h c ∨ (s.elemRemote h c c.next).isSome then (s, c)
    else match s.copyElem h c c.next with
      | .error f => (s, { c with fault := some f })
      | .ok (s1, t) => State.copyRun h page fuel s1 (c.past t)

/-- R309, R404, R407: the next element, whose global side lies on another device: its request leaves, and once it has left the element is done. Where the device has become unreachable meanwhile, its home may not have accepted it (R403, a free choice). -/
def State.copyRemote (s : State) (h : EngineHome) (c : CopyCmd) (dev : Nat) (x : Xlate) (write : Bool) : State × CopyCmd :=
  let req : RemoteReq :=
    { dev := s.deviceId, pa := x.pa, kind := if write then 1 else 0, size := c.elemSize, op := 0, ety := 0
      data := (if write then (match s.elemData h c c.next with
        | .ok (_, d) => d
        | .error _ => 0) else 0), data2 := 0, floor := c.floor }
  ({ s with outbox := s.outbox ++ [{ dest := dev, req := req, lane := some (c.unit, c.seq, c.next) }] }, { c with sent := some s.now })

/-- R407: the answer to such an element, which is free: the data, or the completion time of the write. -/
def State.copyAnswered (s : State) (h : EngineHome) (c : CopyCmd) (t : Nat) : State × CopyCmd :=
  let e := c.elem c.next
  let write := !(e.1.elim false fun x => x.global)
  let side := if write then e.2.addr else e.1.elim 0 fun x => x.addr
  if s.outbox.any fun o => o.lane == some (c.unit, c.seq, c.next) then (s, c)
  else if (s.elemRemote h c c.next).isNone && (Config.free s.free 39).getLsbD 0 then
    (s.fresh, { c with fault := some ⟨side, if write then 6 else 5, 5⟩ })
  else if write then (s.fresh, c.past (t + (Config.free s.free 3).toNat % (s.now - t + 16384)))
  else match s.fresh.engineWrite h 6 e.2 c.elemSize s.remoteData c.floor with
    | .error f => (s, { c with fault := some f })
    | .ok (s1, _) => (s1, c.past 0)

/-- Whether a command is a sparse conversion. -/
def CopyCmd.isConv (c : CopyCmd) : Bool :=
  match c.kind with
  | .conv .. => true
  | _ => false

/-- R309: elements of one piece of a copy, whose faults are judged first; or a source element read before its turn. -/
def copyPiece (k : Nat) (s : State) : Out :=
  match nth? s.copies k with
  | none => .next s
  | some c =>
    if c.isConv || c.fault.isSome || s.behindEarlier c.unit c.seq (copyDst c.kind c.size) then .next s
    else
      let h := s.engineHome c.team
      if c.count ≤ c.next then .next (s.finishCopy k c)
      else
        let put (r : State × CopyCmd) : State := { r.1 with copies := modNth (fun _ => r.2) r.1.copies k }
        let page := s.elemPage h c c.next
        let left := (List.range (c.count - c.next)).map fun i => c.next + i
        let piece := left.filter fun i => decide (s.elemPage h c i = page)
        let goOn (r : State × CopyCmd) : Out := .next (if r.2.fault.isNone ∧ r.2.count ≤ r.2.next then (put r).finishCopy k r.2 else put r)
        match c.sent, piece.findSome? (s.elemFault h c (s.pieceBegun h c page)), s.readAhead h c with
        | some t, _, _ => goOn (s.copyAnswered h c t)
        | none, some f, _ => .next (put (s, { c with fault := some f }))
        | none, none, some r => .next (put r)
        | none, none, none =>
          if s.elemWaits h c then
            let held := s.heldWords h (c.elem c.next).2 c.elemSize
            .next (if c.held = held then s else put (s, { c with held := held }))
          else goOn (match s.elemRemote h c c.next with
            | some (dev, x, write) => s.fresh.copyRemote h c dev x write
            | none => State.copyRun h page (s.someOf piece.length) s.fresh c)

/-- R307, R309, R316, R353: a sparse conversion is walked, some of its elements read before that; its writes follow, some at a time and the status word last. A write that is refused takes those of its piece with it. -/
def convertCmd (k : Nat) (s : State) : Out :=
  match nth? s.copies k with
  | none => .next s
  | some c =>
    match c.kind with
    | .conv kind rsp a b block st =>
      if c.fault.isSome then .next s
      else
        let h := s.engineHome c.team
        let put (f : CopyCmd → CopyCmd) (x : State) : State := { x with copies := modNth f x.copies k }
        match c.writes with
        | none =>
          let r := s.convert h kind { e := c.size, sp := rsp, a := a, b := b, p := block } st c.got
          match r.ahead s.free with
          | some g => .next (put (fun x => { x with got := g :: x.got }) r.st.fresh)
          | none => .next (put (fun x => { x with writes := some r.pending, fault := r.fault }) r.st)
        | some ws =>
          let m := s.someOf ws.length
          if s.behindEarlier c.unit c.seq (copyDst c.kind c.size) then .next s
          else match s.convWrites h ws, s.fresh.convWrites h (ws.take m) with
            | .ok _, .ok s1 => .next (if ws.length ≤ m then s1.finishCopy k c else put (fun x => { x with writes := some (ws.drop m) }) s1)
            | .error f, _ => .next (put (fun x => { x with writes := some (ws.filter fun w => w.page != f.2), fault := some f.1 }) s)
            | _, .error f => .next (put (fun x => { x with writes := some (ws.filter fun w => w.page != f.2), fault := some f.1 }) s)
    | _ => .next s

/-- R311, R312: the next element of a gather or scatter, or one read before its turn. -/
def towerElement (k : Nat) (scatter : Bool) (s : State) : Out :=
  match nth? s.gathers k with
  | none => .next s
  | some c =>
    if c.scatter != scatter || c.fault.isSome || decide (c.count ≤ c.next) || s.behindEarlier c.unit c.seq (towerDst c) then .next s
    else
      let h := s.engineHome c.team
      let put (f : TowerCmd → TowerCmd) (a : State) : State := { a with gathers := modNth f a.gathers k }
      match s.towerElem h c c.next, s.towerAhead h c with
      | .error f, _ => .next (put (fun x => { x with fault := some f }) s)
      | .ok _, some r => .next (put (fun _ => r.2) r.1)
      | .ok (s1, t), none =>
        let e : CopyEnd := match s.towerRead h c c.next with
          | .ok (_, idx, _) => if scatter && idx != skipIndex then c.globalEnd idx else c.spEnd c.next
          | .error _ => c.spEnd c.next
        let held := s.heldWords h e c.size
        if s.behindGlobal h c.unit c.seq e c.size then .next s
        else if !held.isEmpty then .next (if c.held = held then s else put (fun x => { x with held := held }) s)
        else .next (put (fun x => { x with next := x.next + 1, ctime := max x.ctime t, held := [], got := x.got.filter (fun g => g.1 != c.next) }) s1.fresh)

/-- R302: a batch that has landed: no command of it is left, and global time has passed its completion times. -/
def State.landed (s : State) (cluster : Nat) (b : Batch) : Bool :=
  b.closed && (s.copies.all fun c => c.batch != b.id) && (b.ctime == 0 || s.passed (portClock cluster) b.ctime)

/-- R302, R356: the oldest closed batch of a group lands: its advance goes to the counter it names, its toggle follows. -/
def landBatch (u : Nat) (s : State) : Out :=
  let mine := s.batches.filter fun b => b.closed && decide (b.id / 2 ^ 32 = u)
  match least (mine.map fun b => b.id), s.unit? u with
  | some id, some x =>
    match mine.find? (fun b => b.id == id), s.team? x.team with
    | some b, some t =>
      let busy := s.signals.any fun g => g.isAdvance x.team && (g.src.map Prod.fst) == some u
      let cl := clusterOf t.core
      if busy || !s.landed cl b then .next s
      else
        let s0 := { s with batches := s.batches.filter fun y => y.id != id }
        let g : Signal :=
          { ctx := t.ctx, team := x.team, src := some (u, s.seq), kind := .advance b.inc b.ctime b.pc b.stage, cluster := cl, sram := 0
            target := 0, globalVa := none }
        .next (match b.tl with
          | some (true, a) => { s0.takeSeq with signals := s0.signals ++ [{ g with globalVa := some a.toNat }] }
          | some (false, a) => { s0.takeSeq with signals := s0.signals ++ [{ g with sram := a.toNat, target := a }] }
          | none => s0.takeSeq.toggleAfter g b.stage cl)
    | _, _ => .next s
  | _, _ => .next s

/-- A team header's counter advanced by one, with the greatest completion time waited past as its floor (R196, R238). -/
def State.advanceHeader (s : State) (cluster addr floor : Nat) : State :=
  let w := advanceWord 1 (BitVec.ofNat 64 (s.sramBytes cluster addr 8))
  let k := sramKey cluster addr / 8
  let s1 := s.sramPut cluster addr (bytesOf 8 w.toNat)
  { s1 with spStamp := sset s1.spStamp k (BitVec.ofNat 64 (max (sget s1.spStamp k).toNat floor)) }

/-- R303: the tower timeline counts the team's next finished command. -/
def towerTicket (t : Nat) (s : State) : Out :=
  match s.team? t, least ((s.gathers.filter fun c => c.team == t).map fun c => c.ticket) with
  | some tm, some n =>
    match s.gathers.find? fun c => c.team == t && c.ticket == n with
    | some c =>
      if c.fault.isSome || decide (c.next < c.count) || !(c.ctime == 0 || s.passed (towerClock (4 * dieOf tm.core)) c.ctime) then .next s
      else
        let s1 := { s with gathers := s.gathers.filter fun x => !(x.team == t && x.ticket == n) }
        .next ((s1.advanceHeader (clusterOf tm.core) (tm.base + 8) c.ctime).modTeam t fun x => { x with wct := max x.wct c.ctime })
    | none => .next s
  | _, _ => .next s

/-- R310: a fault in a team's engine work ends the team. -/
def engineFault (t : Nat) (s : State) : Out :=
  let info (f : EngineFault) (pc : W64) : FaultInfo :=
    { kind := 4, cause := 0, access := f.access, reason := f.reason, addr := f.addr, pc := pc, lane := none }
  match (s.copies.filter fun c => c.team == t).findSome? fun c => c.fault.map fun f => (c.unit, info f c.pc) with
  | some (u, f) => .next (s.terminate t (some u) f)
  | none =>
    match (s.gathers.filter fun c => c.team == t).findSome? fun c => c.fault.map fun f => (c.unit, info f c.pc) with
    | some (u, f) => .next (s.terminate t (some u) f)
    | none => .next s

/-- R309. Copy engine performs one page piece of a transfer. -/
def execCopyPiece (k : Nat) (s : State) : Out := copyPiece k s

/-- R311. Tower base reads one indexed element into scratchpad. -/
def execGatherElement (k : Nat) (s : State) : Out := towerElement k false s

/-- R312. Tower base writes one indexed element to global memory. -/
def execScatterElement (k : Nat) (s : State) : Out := towerElement k true s

/-- R316. Copy engine performs a sparse conversion and its status word. -/
def execSparseConversion (k : Nat) (s : State) : Out := convertCmd k s

/-- R302. A closed batch lands and advances its counter and toggles its stage word. -/
def execBatchLanding (u : Nat) (s : State) : Out := landBatch u s

/-- R303. Tower timeline advances for a finished gather or scatter. -/
def execTowerTicketAdvance (t : Nat) (s : State) : Out := towerTicket t s

/-- R310. A faulting piece or element terminates the issuing team. -/
def execEngineFault (t : Nat) (s : State) : Out := engineFault t s

end Sys2Proof.Machine
end

