-- ==== Sys2Proof/Machine/Divergence.lean ====
section
/-!
DEFINITION. Divergence: splits kept and exported (R144 to R146), joins (R147, R148), fragments and their launch, pulls, write-backs and completion (R149 to R153, R246), and the ending of threads (R107).
-/

namespace Sys2Proof.Machine

/-- What a `join` at an address does to a group. -/
inductive JoinRes where
  | nothing
  | waits
  | mismatch (pc : BitVec 57)
  | goes (u : Unit)
deriving DecidableEq, Repr

/-- R147: the innermost level is popped and its mask restored; execution goes on at the word after the `join`. -/
def Unit.popLevel (u : Unit) (lv : Level) (rest : List Level) : Unit :=
  { u with
    levels := rest, active := lv.mask &&& u.launched, pc := lv.joinPc + 8
    joinCtr := match lv.kind with
      | .exported c _ _ _ => modNth (fun _ => 0) u.joinCtr c
      | .kept .. => u.joinCtr }

/-- R147: a `join` at address `a`. -/
def Unit.joinAt (u : Unit) (a : BitVec 57) : JoinRes :=
  match u.levels with
  | [] => .nothing
  | lv :: rest =>
    if lv.joinPc = a then
      match lv.kind with
      | .kept second spc false =>
        if second &&& u.launched = 0 then .goes (u.popLevel lv rest)
        else .goes { u with active := second &&& u.launched, pc := spc, levels := { lv with kind := .kept second spc true } :: rest }
      | .kept _ _ true => .goes (u.popLevel lv rest)
      | .exported _ _ _ complete => if complete then .goes (u.popLevel lv rest) else .waits
    else if rest.any fun x => x.joinPc == a then .mismatch lv.joinPc
    else .nothing

/-- R107: a group whose last thread has exited: nothing of it goes on, but its arrivals already issued are still made. -/
def Unit.ended (u : Unit) : Unit :=
  { u.halt with
    levels := []
    spq := u.spq.filter fun a => match a.kind with
      | .load _ => false
      | _ => true }

/-- R148: while the active mask of a group with threads left is empty, it acts as though it executed `join` at the innermost level's join PC. -/
def Unit.settle : Nat → Unit → Unit
  | 0, u => u
  | fuel + 1, u =>
    if u.active ≠ 0 then u
    else if u.launched = 0 then u.ended
    else match u.levels with
    | [] => u
    | lv :: _ => match u.joinAt lv.joinPc with
      | .goes u' => Unit.settle fuel u'
      | _ => { u with pc := lv.joinPc, wait := .join }

/-- Twice the levels bounds the joins that `settle` can take. -/
def Unit.settled (u : Unit) : Unit := Unit.settle (2 * u.levels.length + 2) u

/-- R151: the registers a fragment thread holds dirty go on their way to the parent, oldest first. -/
def FragInfo.flush (f : FragInfo) (v : Sparse 32) : FragInfo :=
  { f with
    cache := []
    back := f.back ++ ((f.cache.filter fun c => c.2).map fun c => (c.1, sget v (c.1 * 64 + f.lane))).reverse }

/-- R107, R150: retired lanes leave the masks; values still returning to their registers are discarded. -/
def Unit.exitLanes (u : Unit) (t : W64) : Unit :=
  { u with
    launched := u.launched &&& ~~~t
    active := u.active &&& ~~~t
    vars := u.vars.map fun v => { v with writes := v.writes.map fun w =>
      if w.kind == .u || w.kind == .fl then w else { w with vals := w.vals.filter fun x => !(t.getLsbD x.1) } } }

/-- Table 12.3: the region of a group whose last thread has exited aborts with status 6, and its unperformed accesses are discarded. -/
def State.endRegion (s : State) (uid : Nat) : State :=
  match (s.unit? uid).bind fun u => u.region with
  | none => s
  | some r =>
    let s1 := s.abortRegion r 6
    { s1 with regions := s1.regions.filter fun x => x.id != r }.modUnit uid fun u => { u.discardRegion with region := none }

/-- R107: `exit` of the lanes of `t`. A fragment's thread leaves the team at its parent too. -/
def State.exitThreads (s : State) (uid : Nat) (u : Unit) (sh : Shape) (t : W64) : State :=
  let u1 := u.advance sh.len sh.stall s.tick
  match u.frag with
  | none =>
    let u2 := (u1.exitLanes t).settled
    let s1 := s.setUnit uid u2
    if u2.live then s1 else s1.endRegion uid
  | some f =>
    let u2 := (u1.exitLanes t).landAll
    let s1 := s.setUnit uid { u2 with frag := (u2.frag.map fun g => g.flush u2.v).map fun g => { g with exited := true } }
    s1.modUnit f.parent fun p => { p with launched := p.launched &&& ~~~t }

/-- R150, R152, R246: a fragment thread's `join` at its join PC waits for its values and its stores, then sends its dirty registers home. -/
def State.fragJoin (s : State) (uid : Nat) (u : Unit) (sh : Shape) : State :=
  if !u.drained then s.waits uid u .drain
  else if u.count .st ≠ 0 ∨ u.count .at_ ≠ 0 then s.waits uid u .counter
  else
    let u1 := (u.advance sh.len sh.stall s.tick).landAll
    s.setUnit uid { u1 with frag := (u1.frag.map fun g => g.flush u1.v).map fun g => { g with joined := true } }

/-- R147, R180: the `join` word. -/
def joinOp (sh : Shape) (s : State) : Out :=
  s.issue sh fun uid u =>
    match u.frag with
    | some f => if f.joinPc = u.pc then s.fragJoin uid u sh else s.retire uid u sh
    | none =>
      match u.joinAt u.pc with
      | .nothing => s.retire uid u sh
      | .waits => s.waits uid u .join
      | .mismatch pc => s.raise uid u sh.len 0x16 (pc.signExtend 64)
      | .goes u' => s.setUnit uid ({ u' with step := u.step + 1 + sh.stall, wait := .none, lastIssue := s.tick } : Unit).settled

/-- R144, R152: the fragments that hold slots of a cluster's four narrow cores: those with a thread not yet done, of a team that runs. -/
def State.fragmentsOut (s : State) (cluster : Nat) : Nat :=
  (s.units.filterMap fun x =>
    match x.frag, s.team? x.team with
    | some f, some t => if x.live && !f.counted && decide (clusterOf t.core = cluster) && t.life == .running && !t.terminated then some (f.parent, f.ctr) else none
    | _, _ => none).eraseDups.length

/-- A free join counter of a group (R145), if it has fewer than four fragments out. -/
def Unit.freeCtr (u : Unit) : Option Nat :=
  (List.range 4).find? fun c => !(u.levels.any fun lv => match lv.kind with
    | .exported d _ _ _ => d == c
    | .kept .. => false)

/-- Table 7.3: whether a split's minority is exported, and under which join counter. -/
def State.exportCtr (s : State) (u : Unit) (minority : W64) : Option Nat :=
  match s.team? u.team with
  | none => none
  | some t =>
    if u.role = 2 ∧ u.region.isNone ∧ popLow minority 64 ≤ t.xthr ∧ s.fragmentsOut (clusterOf t.core) < 32 then u.freeCtr
    else none

/-- R149: the uniform registers as they stand at the `br.div`, with every window landed. -/
def Unit.uniformCopy (u : Unit) : Sparse 64 :=
  (u.win.filter fun e => e.kind == .u && e.idx != 0).foldl
    (fun (m : Sparse 64) (e : PendWrite) => e.vals.foldl (fun (m : Sparse 64) (x : Nat × W64) => sset m e.idx x.2) m) u.u

/-- R149: the thread of lane `l` of a fragment, before its launch. -/
def Unit.fragThread (u : Unit) (uid ctr l tick seq : Nat) (lanes : W64) (pc joinPc : BitVec 57) : Unit :=
  { u with
    pc := pc, step := 0, v := [], p := [], u := u.uniformCopy, win := [], vars := [], launched := 1#64 <<< l, active := 1#64 <<< l
    levels := [], joinCtr := [0, 0, 0, 0], fflags := 0, mflags := [], tcause := 0, tepc := 0, tval := 0, inHandler := false
    ops := [], reqs := [], spq := [], wct := 0, stamp := 0, region := none, wait := .none, synced := none, push := none, lastIssue := tick
    live := true
    frag := some { parent := uid, ctr := ctr, lane := l, lanes := lanes, joinPc := joinPc, launched := false, cache := [], back := [],
                   late := (u.pendingRegs.filter fun x => x.1 == .u).map fun x => x.2, since := seq, step := u.step, joined := false, exited := false, counted := false } }

/-- The windows of a group with the lanes of a leaving fragment landed: R149 waits for them, and no later write of the parent reaches those lanes (R153). -/
def Unit.landLanes (u : Unit) (lanes : W64) : Unit :=
  let mine (e : PendWrite) : List (Nat × W64) := if e.kind == .v || e.kind == .p then e.vals.filter fun x => lanes.getLsbD x.1 else []
  let u1 := u.win.foldl (fun (a : Unit) (e : PendWrite) => a.put ⟨e.kind, e.idx, mine e⟩) u
  { u1 with win := u.win.map fun e => { e with vals := lessLanes e.vals (mine e) } }

/-- R144 to R146: `br.div` splits on the lanes of `t`. -/
def State.split (s : State) (uid : Nat) (u : Unit) (sh : Shape) (t : W64) (target joinPc : BitVec 57) : State :=
  let n := u.active &&& ~~~t
  let next := u.pc + BitVec.ofNat 57 sh.len
  let u1 := u.advance sh.len sh.stall s.tick
  if t = 0 then s.setUnit uid u1
  else if n = 0 then s.setUnit uid { u1 with pc := target }
  else if 16 ≤ u.levels.length then s.raise uid u sh.len 0x0E (u.pc.signExtend 64)
  else
    let minT := decide (popLow t 64 ≤ popLow n 64)
    let minority := if minT then t else n
    match s.exportCtr u minority with
    | none =>
      s.setUnit uid { u1 with
        active := t, pc := target, levels := { joinPc := joinPc, mask := u.active, kind := .kept n next false } :: u.levels }
    | some c =>
      let u2 := u1.landLanes minority
      let s1 := s.setUnit uid { u2 with
        active := if minT then n else t
        pc := if minT then next else target
        levels := { joinPc := joinPc, mask := u.active, kind := .exported c minority [] false } :: u.levels
        joinCtr := modNth (fun _ => popLow minority 64) u.joinCtr c }
      { s1 with units := s1.units ++ (lanesOf minority).map fun l =>
          u2.fragThread uid c l s.tick s.seq minority (if minT then target else next) joinPc }

/-- R149: whether a register write that the parent issued before the `br.div` is still returning. Those of fixed latency have landed there (log entry 131). -/
def Unit.returning (p : Unit) (f : FragInfo) : Bool :=
  (p.vars.any fun v => decide (v.step < f.step)) ||
  (p.reqs.any fun r => decide (r.seq < f.since) && (r.span != 0 || r.okPred.isSome)) ||
  (p.spq.any fun r => decide (r.seq < f.since) && (r.span != 0 || r.okPred.isSome))

/-- R149: a fragment's first word may issue, once every write that the parent had issued has become readable: its threads take their predicates, all together. -/
def launchFragment (uid : Nat) (s : State) : Out :=
  match s.unit? uid with
  | none => .next s
  | some u => match u.frag with
    | none => .next s
    | some f => match s.unit? f.parent with
      | none => .next s
      | some p =>
        if u.live && !f.launched && !p.returning f then
          let start (x : Unit) (g : FragInfo) : Unit :=
            { x with
              p := (List.range 7).foldl (fun (m : Sparse 64) (i : Nat) => sset m i (p.pmask i &&& (1#64 <<< g.lane))) []
              dirty := p.dirty
              frag := some { g with launched := true } }
          .next { s with units := s.units.map fun x => match x.frag with
            | some g => if x.inFragment f.parent f.ctr && !g.launched then start x g else x
            | none => x }
        else .next s

/-- R151: a pulled register arrives in the cache of every thread of the fragment that does not hold it, from what is on its way back or from the parent's file. -/
def pullRegister (uid reg : Nat) (s : State) : Out :=
  match s.unit? uid with
  | none => .next s
  | some u => match u.frag with
    | none => .next s
    | some f => match s.unit? f.parent with
      | none => .next s
      | some p =>
        if u.live && u.wait == .pull reg then
          let fill (x : Unit) : Unit :=
            match x.frag with
            | none => x
            | some g =>
              if !(x.inFragment f.parent f.ctr) || g.joined || g.exited || (g.cache.any fun c => c.1 == reg) then x
              else
                let val := (x.cached g reg).getD (p.vget reg g.lane)
                ({ x with v := sset x.v (reg * 64 + g.lane) val } : Unit).touch reg false
          let s1 := { s with units := s.units.map fill }
          .next (s1.modUnit uid fun x => { x with wait := .none })
        else .next s

/-- The lanes of level entries: a write-back replaces a value in the parent's file, which the level keeps (R153). -/
def Unit.noteOld (p : Unit) (ctr key : Nat) (val : W32) : Unit :=
  { p with levels := p.levels.map fun lv =>
      match lv.kind with
      | .exported c lanes old done => if c = ctr then { lv with kind := .exported c lanes ((key, val) :: old) done } else lv
      | .kept .. => lv }

/-- R152: a fragment thread's register write-back lands in the parent's file; after the last of a thread that has ended, its predicates land and the join counter drops. -/
def landWriteBack (uid : Nat) (s : State) : Out :=
  match s.unit? uid with
  | none => .next s
  | some u => match u.frag with
    | none => .next s
    | some f =>
      match f.back with
      | (r, val) :: rest =>
        let s1 := s.setUnit uid { u with frag := some { f with back := rest } }
        .next (s1.modUnit f.parent fun p =>
          let p1 := p.noteOld f.ctr (r * 64 + f.lane) (p.vget r f.lane)
          { p1 with v := sset p1.v (r * 64 + f.lane) val, dirty := setDirty p1.dirty [r] })
      | [] =>
        if (f.joined || f.exited) && !f.counted then
          let s1 := s.setUnit uid { u with frag := some { f with counted := true } }
          .next (s1.modUnit f.parent fun p =>
            let bit : W64 := 1#64 <<< f.lane
            { p with
              p := (List.range 7).foldl (fun (m : Sparse 64) (i : Nat) => sset m i ((sget m i &&& ~~~bit) ||| (u.pmask i &&& bit))) p.p
              joinCtr := modNth (fun n => n - 1) p.joinCtr f.ctr })
        else .next s

/-- R152, R246: the join completion of a fragment all of whose threads are done: flags, `wct` and stamps join the parent's, also those of a parent that has ended meanwhile (R107, R348). -/
def completeJoin (uid : Nat) (s : State) : Out :=
  match s.unit? uid with
  | none => .next s
  | some p =>
    let threads (c : Nat) : List Unit := s.units.filter fun x => x.inFragment uid c
    let ended (x : Unit) : Bool := x.vars.isEmpty && x.reqs.isEmpty && x.spq.isEmpty && (x.frag.elim false fun g => g.counted)
    match (List.range 4).find? fun c => !(threads c).isEmpty && (threads c).all ended with
    | none => .next s
    | some c =>
      let mine := threads c
      let p1 := { p with
        fflags := mine.foldl (fun (m : Flags) (x : Unit) => m ||| x.fflags) p.fflags
        wct := mine.foldl (fun (m : Nat) (x : Unit) => max m x.wct) p.wct
        stamp := mine.foldl (fun (m : Nat) (x : Unit) => max m x.stamp) p.stamp
        wait := if p.wait = .join then .none else p.wait
        levels := p.levels.map fun lv => match lv.kind with
          | .exported d lanes old false => if d = c then { lv with kind := .exported d lanes old true } else lv
          | _ => lv }
      let s1 := s.setUnit uid p1
      .next { s1 with units := s1.units.map fun x => if x.inFragment uid c then { x with live := false } else x }

/-- R179. `br.div` on a wide core or per thread in a fragment. -/
def execBrDiv (w : AI) (s : State) : Out :=
  let f := formAI 13 0 w
  let p := w.rd.toNat % 8
  let sh := f.shape [.pred p] []
  s.issue sh fun uid u =>
    let m := u.pmask p
    let t := u.active &&& (if w.rd.getLsbD 3 then ~~~m else m)
    s.split uid u sh t (u.pc + 2 * (w.imm.extractLsb' 16 16).signExtend 57) (u.pc + 2 * (w.imm.extractLsb' 0 16).signExtend 57)

/-- R147. Resolve the innermost level with this join PC. -/
def execJoin (w : A64) (s : State) : Out := joinOp ((formA64 13 1 w).shape [] []) s

/-- R149. Fragment's first word issues on a narrow core after parent writes are readable. -/
def execFragmentLaunch (u : Nat) (s : State) : Out := launchFragment u s

/-- R151. Pulled register arrives over the siding link. -/
def execRegisterPull (u reg : Nat) (s : State) : Out := pullRegister u reg s

/-- R152. A fragment thread's register write-back lands in the parent's file. -/
def execWriteBack (u : Nat) (s : State) : Out := landWriteBack u s

/-- R152. Join completion reaches the parent and merges flags and wct. -/
def execJoinCompletion (u : Nat) (s : State) : Out := completeJoin u s

end Sys2Proof.Machine
end

