-- ==== Sys2Proof/Machine/Fetch.lean ====
section
/-!
DEFINITION. Instruction fetch (R15, R17, R18, R32, R47, R396): where the parcels of a word come from, what a fetch that fails does, and the virtual joins of a group without active threads (R148).
-/

namespace Sys2Proof.Machine

/-- The newest value of a word of a tower frame: in its owner's copy, at its slice, or in its tower. -/
def State.newestWord (s : State) (pa : Nat) : W32 :=
  match s.l2.find? fun b => b.pa == pa / 128 * 128 && b.attr.device.isNone with
  | none => s.memWord (pa / 4 * 4)
  | some b =>
    let i := pa / 4 % 32
    match b.owner.bind fun o => s.l1Line? o b.asid b.line with
    | some a => if a.dirty.getLsbD i && !b.foreign.getLsbD i then sget a.data i else sget b.data i
    | none => sget b.data i

def State.newestByte (s : State) (pa : Nat) : Byte := ((s.newestWord pa).extractLsb' (8 * (pa % 4)) 8)

/-- R18: memory as it would stand were every line written back. -/
def State.codeImage (s : State) : CodeImage :=
  let put (b : L2Line) (a : State) (i : Nat) : State :=
    if b.dirty.getLsbD i || b.owner.isSome then a.putKey b.attr.key (b.pa + 4 * i) (bytesOf 4 (s.newestWord (b.pa + 4 * i)).toNat) else a
  let t := s.l2.foldl (fun (a : State) (b : L2Line) => if b.attr.device.isSome then a else (List.range 32).foldl (put b) a) s
  { mem := t.mem, keys := t.lineKeys, host := t.hostMem }

/-- The part with the memory of an image. -/
def State.atImage (s : State) (c : CodeImage) : State := { s with mem := c.mem, lineKeys := c.keys, hostMem := c.host }

/-- R18: the image that a grid fetches a code address from, with its place there: that of its launch, or of the first fetch that found the page, or none yet. -/
def State.codePlace (s : State) (asid : Nat) (g : Grid) (pc : BitVec 57) : Option (CodeImage × Xlate) :=
  match (s.atImage g.code).mapped asid pc.toNat with
  | .ok x => some (g.code, x)
  | .error _ =>
    (g.late.find? fun p => p.1 == pc.toNat / 65536).bind fun p => ((s.atImage p.2).mapped asid pc.toNat).toOption.map fun x => (p.2, x)

/-- R18: a page of a grid's code that its launch mapped nowhere is taken as it stands when a fetch first finds it. -/
def State.findCode (s : State) (asid grid : Nat) (pc : BitVec 57) : State :=
  match nth? s.grids grid with
  | none => s
  | some g => match s.mapped asid pc.toNat, s.codePlace asid g pc with
    | .ok _, none => { s with grids := modNth (fun (y : Grid) => { y with late := (pc.toNat / 65536, s.codeImage) :: y.late }) s.grids grid }
    | _, _ => s

/-- R18, R207: a byte of code as it stands now, and as it stood in an image, under the key of its page. -/
def State.codeNow (s : State) (x : Xlate) (i : Nat) : Byte :=
  if let some far := x.attr.host then sget s.hostMem (hostAt (x.pa + i) far)
  else if s.l2.any fun b => b.pa == x.pa / 128 * 128 && b.attr.device.isNone then s.newestByte (x.pa + i)
  else s.keyByte x.attr.key (x.pa + i)

def State.codeThen (s : State) (c : CodeImage) (x : Xlate) (i : Nat) : Byte :=
  if let some far := x.attr.host then sget c.host (hostAt (x.pa + i) far) else (s.atImage c).keyByte x.attr.key (x.pa + i)

/-- R18: a parcel of a grid's code, the `k`-th of its word, at the place `x` that its page has now: as it stood at the launch, or, where the grid has written it there or here, that or its new value. What another device returns is open. -/
def State.codeParcel (s : State) (asid : Nat) (g : Grid) (pc : BitVec 57) (x : Xlate) (k : Nat) : BitVec 16 :=
  let free := Config.free s.free (32 + k)
  let wrote (y : Xlate) : Bool := g.written.contains y.pa || g.written.contains (y.pa + 1)
  let now (y : Xlate) : BitVec 16 := s.codeNow y 1 ++ s.codeNow y 0
  match s.codePlace asid g pc with
  | none => now x
  | some (c, y) =>
    if y.attr.device.isSome then free.setWidth 16
    else if (wrote y || wrote x) && free.getLsbD 0 then now (if wrote y && !(wrote x && free.getLsbD 1) then y else x)
    else s.codeThen c y 1 ++ s.codeThen c y 0

/-- What fetching a parcel comes to. -/
inductive Parcel where
  | got (p : BitVec 16)
  | park (addr : W64) (reason : Nat)
  | poison (addr : W64)
deriving DecidableEq, Repr

/-- R17, R396: the parcel at a code address of a team, the `k`-th of its word. -/
def State.parcel (s : State) (asid : Nat) (g : Grid) (pc : BitVec 57) (k : Nat) : Parcel :=
  match s.locate asid pc.toNat false with
  | .error r => .park (pc.signExtend 64) r
  | .ok x =>
    if s.poisoned x 2 then .poison (pc.signExtend 64)
    else .got (s.codeParcel asid g pc x k)

/-- What fetching a word comes to: an instruction, parcels that are none, or a failure. -/
inductive Fetched where
  | instr (i : Instr)
  | illegal (n : Nat) (raw : BitVec 64)
  | park (addr : W64) (reason : Nat)
  | poison (addr : W64)

/-- The parcels after the first, gathered into a word. -/
def State.parcels (s : State) (asid : Nat) (g : Grid) (pc : BitVec 57) : Nat → BitVec 64 → Nat → Except Parcel (BitVec 64)
  | 0, v, _ => .ok v
  | n + 1, v, k =>
    match s.parcel asid g (pc + BitVec.ofNat 57 (2 * k)) k with
    | .got p => State.parcels s asid g pc n (v ||| (p.setWidth 64 <<< (16 * k))) (k + 1)
    | e => .error e

/-- R15, R17, R32: the word at the PC of a unit. -/
noncomputable def State.fetch (s : State) (u : Unit) : Fetched :=
  match (s.team? u.team).bind fun t => nth? s.grids t.grid with
  | none => .park (u.pc.signExtend 64) 0
  | some g =>
    let asid := s.unitAsid u
    match s.parcel asid g u.pc 0 with
    | .park a r => .park a r
    | .poison a => .poison a
    | .got p =>
      let n := parcelLen p
      match s.parcels asid g u.pc (n / 2 - 1) (p.setWidth 64) 1 with
      | .error (.park a r) => .park a r
      | .error (.poison a) => .poison a
      | .error (.got _) => .illegal n 0
      | .ok v =>
        match decodeWord n v with
        | .ok i => .instr i
        | .error _ => .illegal n v

/-- R17, R18: the code that the next word of a unit takes its parcels from has been found. -/
def State.seesCode (s : State) (u : Unit) : State :=
  match s.team? u.team with
  | none => s
  | some t =>
    let asid := s.unitAsid u
    let s1 := s.findCode asid t.grid u.pc
    match (nth? s1.grids t.grid).map fun g => s1.parcel asid g u.pc 0 with
    | some (.got p) => s1.findCode asid t.grid (u.pc + BitVec.ofNat 57 (parcelLen p - 2))
    | _ => s1

/-- R17: a fetch that does not translate parks its unit once every earlier instruction has completed. -/
def State.parkFetch (s : State) (uid : Nat) (u : Unit) (addr : W64) (reason : Nat) : State :=
  if u.drained then
    (s.setUnit uid { u with lastIssue := s.tick }).parkFault uid addr 0 reason (u.frag.map fun f => f.lane)
  else s.waits uid u .drain

/-- R396: a fetch of a poisoned parcel traps. -/
def State.poisonFetch (s : State) (uid : Nat) (u : Unit) (addr : W64) : State := s.raise uid u 8 0x13 addr

/-- R148: a unit with no active thread acts as though it executed the join of its innermost level. -/
def State.settleUnit (s : State) (uid : Nat) (u : Unit) : State :=
  let u1 := { u.settled with lastIssue := s.tick }
  let s1 := s.setUnit uid u1
  if u1.live then s1 else s1.endRegion uid

end Sys2Proof.Machine
end

