-- ==== Sys2Proof/Machine/Launch.lean ====
section
/-!
DEFINITION. Launch commands, class 22 (R337, R338, R366 to R368): `lq.push` in its steps, and `lq.poll`.
-/

namespace Sys2Proof.Machine

/-- Table 17.1: a launch-queue header as it stands. -/
structure QHeader where
  reserve : Nat
  tail : Nat
  head : Nat
  count : Nat
  priority : Nat
  enable : Bool
  valid : Bool
deriving DecidableEq, Repr

/-- Table 17.1, R337: the header in 64 bytes. -/
def qHeader (bs : List Byte) : QHeader :=
  let fld (o n : Nat) : Nat := natOfBytes ((bs.drop o).take n)
  let count := fld 0x18 4
  let flags := fld 0x1D 1
  { reserve := fld 0 8, tail := fld 8 8, head := fld 0x10 8, count := count, priority := fld 0x1C 1, enable := flags % 2 == 1
    valid := decide (1 ≤ count ∧ count ≤ 65536 ∧ 2 ^ count.log2 = count ∧ fld 0x1C 1 ≤ 3 ∧ flags / 2 = 0 ∧ fld 0x1E 34 = 0) }

/-- R368: a header read at its home. -/
def State.readQueue (s : State) (asid : Nat) (h : W64) : Except Nat (State × QHeader) :=
  match s.sysReadBlocks asid h 4 with
  | .error r => .error r
  | .ok (s1, bs) => .ok (s1, qHeader bs)

/-- R367, R368: a header read at its home for a group, with the line stamp (R231). -/
def State.readHeader (s : State) (uid : Nat) (u : Unit) (x : Xlate) : State × QHeader × Nat :=
  let d := s.readHome uid u x 64
  let part (i : Nat) : List Byte := bytesOf 16 (d.1.readAt { x with va := x.va + 16 * i, pa := x.pa + 16 * i } 16).2.1.toNat
  (d.1, qHeader ((List.range 4).flatMap part), d.2.2)

/-- The header address of a queue of a context; 0 for none. -/
def Context.queueVa (c : Context) (q : Nat) : W64 := nth 0 c.entry.queues q

/-- Slot `k` of a queue (R337). -/
def slotVa (h : W64) (count k : Nat) : W64 := h + 64 + BitVec.ofNat 64 (64 * (k % count))

/-- The difference of two counts modulo 2^64. -/
def countDiff (a b : Nat) : Nat := (a + 2 ^ 64 - b) % 2 ^ 64

/-- R367: what a step of `lq.push` that cannot reach its queue does: it parks, or traps. -/
def State.pushFail (s : State) (uid : Nat) (u : Unit) (sh : Shape) (access : Nat) (a : W64) (reason : Nat) : State :=
  if reason ≤ 6 then
    (if u.drained then (s.setUnit uid { u with lastIssue := s.tick }).parkFault uid a access reason none else s.waits uid u .drain)
  else s.raise uid { u with push := none } sh.len (if reason = 7 then 0x13 else if reason = 8 then 0x12 else 0x11) a

/-- A unit in a step of `lq.push` that is not done. -/
def State.pushWaits (s : State) (uid : Nat) (u : Unit) (p : Push) : State :=
  s.setUnit uid { u with push := some p, wait := .lqPush, lastIssue := s.tick }

/-- The class 14 access that one part of a record or slot is, and the check of a 16-byte one. -/
def pushAccess (size : Nat) (write : Bool) : GlobalAccess :=
  { kind := if write then .store else .load false, size := size, rtype := 0, scope := 0, op := 0, ety := 0, access := if write then 2 else 1, path := .ld
    write := write, read := !write, uni := false, dest := 0, span := 0, okPred := none }

/-- R367: an access of 8 bytes performed for `lq.push`, with the rules of the group's own; `none` where it would consume poison. -/
def State.pushPart (s : State) (uid : Nat) (u : Unit) (g : GlobalAccess) (l : LaneReq) : Option (State × LaneReq) :=
  let core := s.unitCore u
  let q := s.request u g []
  let s0 := s.dueRecalls core l.floor
  if s0.consumesPoison core q l then none
  else
    let r := s0.performPlain core q l
    some (r.1.barMerges (u.root uid) l.asid (l.va / 128) (wordMask (l.va % 128) 8), r.2)

/-- R114: whether an earlier access of the group to the bytes of such an access is still to be performed. -/
def State.pushBehind (s : State) (uid : Nat) (u : Unit) (g : GlobalAccess) (l : LaneReq) : Bool := s.olderPending uid u (s.request u g []) l

/-- The lane of an 8-byte part at an address of a group. -/
def pushLane (u : Unit) (a : W64) (x : Xlate) (d : W64) : LaneReq := laneReq u.floor 0 a x (d.setWidth 128) 0

/-- R367: why a group's access at a queue cannot be performed, or where it lies: 7 for poison, 8 for a non-canonical address, 9 for a sealed range. -/
def State.queueAt (s : State) (u : Unit) (a : W64) (size : Nat) (write : Bool) : Except Nat Xlate :=
  if !canonical a then .error 8
  else match s.locate (s.unitAsid u) (va57 a) write with
    | .error r => .error r
    | .ok x =>
      if s.homeRefuses x then .error 5
      else if write && s.sealedAt (s.unitAsid u) a x then .error 9
      else if !write && s.poisoned x size then .error 7 else .ok x

/-- R367 step 1: some more parts of the record, from global memory. -/
def State.pushLoads (uid : Nat) (g : GlobalAccess) (place : W64 → Option Xlate) (a : W64) : Nat → State → Unit → Push → Except W64 (State × Unit × Push)
  | 0, s, u, p => .ok (s, u, p)
  | n + 1, s, u, p =>
    let at' := a + BitVec.ofNat 64 (8 * p.parts)
    match place at' with
    | none => .ok (s, u, p)
    | some x =>
      let l := pushLane u at' x 0
      if s.pushBehind uid u g l then .ok (s, u, p)
      else match s.pushPart uid u g l with
      | none => .error at'
      | some r =>
        State.pushLoads uid g place a n r.1.fresh { r.1.withReqs uid u with stamp := max u.stamp r.2.stamp }
          { p with parts := p.parts + 1, bytes := p.bytes ||| (r.2.result.setWidth 64).setWidth 512 <<< (64 * p.parts) }

/-- R367 step 1: some more parts of the record are read, as an `ld.b128` or `ld.sp.b128` of its four quarters would read them. -/
def State.pushRecord (s : State) (uid : Nat) (u : Unit) (sh : Shape) (sp : Bool) (a : W64) (p : Push) : State :=
  let quarters := (List.range 4).map fun i => (i, a + BitVec.ofNat 64 (16 * i))
  let n := s.someOf (8 - p.parts)
  let trap (c : Nat) (v : W64) : State := s.raise uid { u with push := none } sh.len c v
  if a.toNat % 64 ≠ 0 then trap 0x04 a
  else if sp then
    match s.spFault u 16 false true quarters with
    | some (c, v) => trap c v
    | none =>
      if !u.spq.isEmpty || s.groupSpAhead u then s.waits uid u .drain
      else
        let bits := s.sramBytes (s.clusterOfUnit u) (a.toNat + 8 * p.parts) (8 * n)
        s.fresh.pushWaits uid u { p with parts := p.parts + n, bytes := p.bytes ||| BitVec.ofNat 512 bits <<< (64 * p.parts) }
  else
    match s.checkGlobal u.plain (pushAccess 16 false) quarters with
    | .trap c v => trap c v
    | .park x r _ => s.pushFail uid { u with push := if p.parts = 0 then none else some p } sh 1 x r
    | .ok _ =>
      match State.pushLoads uid (pushAccess 8 false) (fun at' => (s.place u (pushAccess 8 false) at').toOption) a n s.fresh u p with
      | .error v => trap 0x13 v
      | .ok (s1, u1, p1) => s1.pushWaits uid u1 p1

/-- R404, R407: a write of `lq.push` to a queue on another device leaves for it; `pushKey` names it there. -/
def pushKey : Nat := 2 ^ 64

def State.pushAsk (s : State) (uid : Nat) (dev : Nat) (x : Xlate) (d : W64) (floor : Nat) : State :=
  let req : RemoteReq := { dev := s.deviceId, pa := x.pa, kind := 1, size := 8, op := 0, ety := 0, data := d.setWidth 128, data2 := 0, floor := floor, unc := true }
  { s with outbox := s.outbox ++ [{ dest := dev, req := req, lane := some (uid, pushKey, 0) }] }

def State.pushAsked (s : State) (uid : Nat) : Bool := s.outbox.any fun o => o.lane == some (uid, pushKey, 0)

/-- R367 step 4: some more parts of the claimed slot are stored, as the group's `.wt` stores; replay resumes here. -/
def State.pushStores (uid : Nat) (g : GlobalAccess) : Nat → State → Unit → Push → Except (W64 × Nat) (State × Unit × Push)
  | 0, s, u, p => .ok (s, u, p)
  | n + 1, s, u, p =>
    let at' := p.slot + BitVec.ofNat 64 (8 * p.stores)
    match s.queueAt u at' 8 true with
    | .error r => .error (at', r)
    | .ok x =>
      let l := pushLane u at' x (p.bytes.extractLsb' (64 * p.stores) 64)
      if s.inRegionSet x.asid x.va 8 || s.pushBehind uid u g l then .ok (s, u, p)
      else match x.attr.device with
      | some dev => State.pushStores uid g n (s.pushAsk uid dev x (p.bytes.extractLsb' (64 * p.stores) 64) u.floor) u { p with stores := p.stores + 1, asked := true }
      | none => match s.pushPart uid u g l with
      | none => .ok (s, u, p)
      | some r => State.pushStores uid g n r.1.fresh { r.1.withReqs uid u with wct := max u.wct r.2.ctime } { p with stores := p.stores + 1 }

def State.pushSlot (s : State) (uid : Nat) (u : Unit) (sh : Shape) (p : Push) : State :=
  match State.pushStores uid (pushAccess 8 true) (s.someOf (8 - p.stores)) s.fresh u p with
  | .error (a, r) => s.pushFail uid { u with push := some p } sh 2 a r
  | .ok (s1, u1, p1) => s1.pushWaits uid u1 p1

/-- R367 steps 2 and 3: the queue is judged and a slot claimed, in one atomic at the header's home; replay resumes here. -/
def State.pushClaim (s : State) (uid : Nat) (u : Unit) (sh : Shape) (c : Context) (p : Push) : State :=
  let h := c.queueVa p.queue
  let result (t : State) (v : Unit) (d : W64) : State := t.retire uid ({ v with push := none }.writeVar [⟨.u, p.rd, [(0, d)]⟩] 0) sh
  if h = 0 then result s u 0x8000000000000002
  else match s.queueAt u h 64 false with
    | .error r => s.pushFail uid { u with push := some p } sh 9 h r
    | .ok x =>
      if s.homeBusy uid u x 64 then s.pushWaits uid u p
      else
        let d := s.readHeader uid u x
        let v := { d.1.withReqs uid u with stamp := max u.stamp d.2.2 }
        let q := d.2.1
        if !q.valid || !q.enable then result d.1 v 0x8000000000000002
        else if q.count ≤ countDiff q.reserve q.head then result d.1 v 0x8000000000000001
        else match s.queueAt u h 8 true with
          | .error r => s.pushFail uid { u with push := some p } sh 9 h r
          | .ok _ =>
            if d.1.inRegionSet x.asid x.va 8 then s.pushWaits uid u p
            else match x.attr.device with
            | some dev =>
              (d.1.sendAtomic dev x.pa 0 1 u.floor (some (uid, pushKey))).pushWaits uid v
                { p with claimed := true, k := q.reserve, slot := slotVa h q.count q.reserve, asked := true }
            | none =>
              let w := d.1.writeAt (some (s.unitCore u)) x 8 (BitVec.ofNat 128 ((q.reserve + 1) % 2 ^ 64)) u.floor
              w.1.pushWaits uid { v with wct := max v.wct w.2 } { p with claimed := true, k := q.reserve, slot := slotVa h q.count q.reserve }

/-- R367. Claim a launch-queue slot and store a record, step by step. -/
def execLqPush (w : A64) (s : State) : Out :=
  let sh := (formA64 22 0 w).shape [.uni w.ra.toNat 1] [(.u, w.rd.toNat)]
  s.issueGlobal sh fun uid u =>
    match s.unitCtx u with
    | none => s.retire uid u sh
    | some c =>
      let p := u.push.getD { queue := w.pa.toNat % 16, parts := 0, bytes := 0, claimed := false, k := 0, slot := 0, stores := 0, asked := false, rd := w.rd.toNat, stall := w.stall.toNat }
      if 8 ≤ p.stores then s.pushWaits uid u p
      else if p.claimed then s.pushSlot uid u sh p
      else if 8 ≤ p.parts then s.pushClaim uid u sh c p
      else s.pushRecord uid u sh (w.pa.getLsbD 4) (u.uget w.ra.toNat) p

/-- R367 steps 5 to 7: once global time has passed `wct` and the claimers ahead have published, the tail is stored and the word completes; writes that have gone to another device have their completion times first. -/
def pushPublish (uid : Nat) (s : State) : Out :=
  match s.unit? uid with
  | none => .next s
  | some u =>
    match u.push, s.unitCtx u with
    | some p, some c =>
      let sh : Shape :=
        { len := 8, stall := p.stall, raw := 0, guard := 7, srcs := [], dsts := [(.u, p.rd)], pipe := false, named := [], csr := false, role := none }
      let h := c.queueVa p.queue
      let done (t : State) (v : Unit) : Out := .next (t.fresh.retire uid ({ v with push := none }.writeVar [⟨.u, p.rd, [(0, BitVec.ofNat 64 p.k)]⟩] 0) sh)
      if decide (p.stores < 8) || !(s.able u) || u.wait != .lqPush || s.pushAsked uid then .next s
      else if p.asked then
        let v := { u with wct := max u.wct (s.now + (Config.free s.free 3).toNat % 16384), push := some { p with asked := false } }
        .next (s.fresh.setUnit uid v)
      else if 8 < p.stores then done s (u.landAt u.step)
      else if decide (u.count .st ≠ 0 ∨ u.count .at_ ≠ 0) ||
         !(u.wct == 0 || s.passed (s.unitClock u) u.wct) then .next s
      else
        let u1 := (u.landAt u.step).acquireStamp u.wct
        match s.queueAt u (h + 8) 8 false, s.queueAt u (h + 8) 8 true with
        | .error r, _ => .next (s.pushFail uid u1 sh 9 (h + 8) r)
        | _, .error r => .next (s.pushFail uid u1 sh 9 (h + 8) r)
        | .ok x, .ok _ =>
          let d := s.readHome uid u1 x 8
          if (d.2.1.setWidth 64).toNat ≠ p.k ∨ d.1.inRegionSet x.asid x.va 8 then .next s
          else match x.attr.device with
          | some dev =>
            .next ((d.1.pushAsk uid dev x (BitVec.ofNat 64 (p.k + 1)) u1.floor).setUnit uid { d.1.withReqs uid u1 with push := some { p with stores := 9, asked := true } })
          | none => match d.1.pushPart uid (d.1.withReqs uid u1) (pushAccess 8 true) (pushLane u1 (h + 8) x (BitVec.ofNat 64 (p.k + 1))) with
            | none => .next s
            | some r => done r.1 { r.1.withReqs uid u1 with wct := max u1.wct r.2.ctime }
    | _, _ => .next s

/-- R368. Read a launch queue's claimed and pending counts, in the way of a `.si` load. -/
def execLqPoll (w : A64) (s : State) : Out :=
  let sh := (formA64 22 1 w).shape [] [(.u, w.rd.toNat)]
  s.issueGlobal sh fun uid u =>
    let result (t : State) (v : Unit) (d : W64) : State := t.retire uid (v.writeVar [⟨.u, w.rd.toNat, [(0, d)]⟩] 0) sh
    match s.unitCtx u with
    | none => result s u (1#64 <<< 63)
    | some c =>
      let h := c.queueVa (w.pa.toNat % 16)
      if h = 0 then result s u (1#64 <<< 63)
      else match s.queueAt u h 64 false with
        | .error r => s.pushFail uid u sh 9 h r
        | .ok x =>
          if s.homeBusy uid u x 64 then s.waits uid u .counter
          else
            let d := s.readHeader uid u x
            let v := { d.1.withReqs uid u with stamp := max u.stamp d.2.2 }
            let q := d.2.1
            result d.1 v (if !q.valid || !q.enable then 1#64 <<< 63
              else BitVec.ofNat 64 (countDiff q.reserve q.head % 2 ^ 17 * 2 ^ 32 + countDiff q.tail q.head % 2 ^ 17))

/-- R367. After wct and tail = k, lq.push stores k+1 to tail. -/
def execLqPushPublish (u : Nat) (s : State) : Out := pushPublish u s

end Sys2Proof.Machine
end

