-- ==== Sys2Proof/Machine/Dispatcher.lean ====
section
/-!
DEFINITION. The Dispatcher (R130 to R138, R192, R221, R222, R236, R337 to R349, R431): queues, records, order between grids, placement, team start and completion.
-/

namespace Sys2Proof.Machine

/-- R337: a queue's header is judged; the context hears of a header found invalid at registration or after it was valid. `now` says whether this is the registration. -/
def State.judgeQueue (s : State) (slot q : Nat) (now : Bool) : State :=
  match s.ctx? slot with
  | none => s
  | some c =>
    let h := c.queueVa q
    if h = 0 then s
    else
      let ok := match s.readQueue c.entry.asid h with
        | .ok (_, x) => x.valid
        | .error _ => false
      let was := now || nth false c.queueValid q
      let s1 := s.modCtx slot fun x => { x with queueValid := modNth (fun _ => ok) x.queueValid q }
      if was && !ok then s1.postEvent slot 6 h (BitVec.ofNat 64 q) 0 else s1

/-- The bytes at an address of a context, one at a time; the failure at the lowest address counts (log entry 106). -/
def State.sysReadBytes (s : State) (asid : Nat) (a : W64) : Nat → Except Nat (State × List Byte)
  | 0 => .ok (s, [])
  | n + 1 =>
    match s.sysRead asid a 1 with
    | .error r => .error r
    | .ok (s1, d, _) =>
      match s1.sysReadBytes asid (a + 1) n with
      | .error r => .error r
      | .ok (s2, bs) => .ok (s2, d.setWidth 8 :: bs)

/-- A field of some bytes. -/
def fieldOf (bs : List Byte) (o n : Nat) : Nat := natOfBytes ((bs.drop o).take n)

/-- Table 17.2: a record in 64 bytes, and whether its fields are legal (R341 condition 1). -/
def launchRecord (bs : List Byte) : LaunchRecord × Bool :=
  let f := fieldOf bs
  let flags := f 0x2A 2
  let r : LaunchRecord :=
    { desc := BitVec.ofNat 64 (f 0 8), args := BitVec.ofNat 64 (f 8 8), completion := BitVec.ofNat 64 (f 0x10 8), tx := f 0x18 4, ty := f 0x1C 2
      tz := f 0x1E 2, ranges := BitVec.ofNat 64 (f 0x20 8), rangeCount := f 0x28 1, priority := f 0x29 1, ragged := flags % 2 == 1
      coresident := flags / 2 % 2 == 1, det := flags / 4 % 2 == 1, curve := flags / 16 % 4, rows := f 0x2C 4, tileW := f 0x30 1, tileH := f 0x31 1
      user := BitVec.ofNat 64 (f 0x38 8) }
  (r, decide (f 0 8 % 128 = 0 ∧ f 0x10 8 % 8 = 0 ∧ r.rangeCount ≤ 8 ∧ (r.rangeCount = 0 ∨ f 0x20 8 % 16 = 0) ∧ (r.priority ≤ 3 ∨ r.priority = 255) ∧
    flags / 8 % 2 = 0 ∧ flags / 64 = 0 ∧ r.curve ≠ 3 ∧ r.tileW ≤ 15 ∧ r.tileH ≤ 15 ∧ (r.curve = 2 → r.tileW = r.tileH) ∧ f 0x32 6 = 0 ∧
    (if r.ragged then r.tx = 0 else r.rows = 0)))

/-- Table 6.2: a role field, and whether it is legal (R131). -/
def roleDesc (x : Nat) (matrix : Bool) : RoleDesc × Bool :=
  let n := x % 256
  let wc := x / 256 % 256
  let b := x / 65536 % 256
  ({ groups := n, width := if n = 0 then 0 else 8 * 2 ^ wc, budget := 8 * b },
   decide (x / 2 ^ 24 = 0) && (if n = 0 then decide (wc = 0 ∧ b = 0) else decide (wc ≤ 3 ∧ 1 ≤ b ∧ b ≤ 16 ∧ (matrix = true → wc = 2))))

/-- A code address: canonical and even (R131). -/
def codeAddr (x : Nat) : Bool := canonical (BitVec.ofNat 64 x) && x % 2 == 0

/-- R130, R131, Table 6.2: a descriptor in 128 bytes, if it is valid. -/
def kernelDesc (bs : List Byte) : Option KernelDesc :=
  let f := fieldOf bs
  let roles := [roleDesc (f 8 4) false, roleDesc (f 0xC 4) true, roleDesc (f 0x10 4) false]
  let threads := roles.foldl (fun (n : Nat) (r : RoleDesc × Bool) => n + r.1.groups * r.1.width) 0
  let flags := f 0x1D 1
  let d : KernelDesc :=
    { entry := BitVec.ofNat 64 (f 0 8), roles := roles.map Prod.fst, spBanks := f 0x14 2, cacheBanks := f 0x16 2, fifoBanks := f 0x18 2
      argBytes := f 0x1A 1, xthr := f 0x1B 1, accTiles := f 0x1C 1, chk := flags % 2 == 1, det := flags / 2 % 2 == 1
      coresident := flags / 4 % 2 == 1, tvec := BitVec.ofNat 64 (f 0x20 8) }
  if codeAddr (f 0 8) && (f 0x20 8 == 0 || codeAddr (f 0x20 8)) && roles.all Prod.snd &&
     decide (1 ≤ threads ∧ threads ≤ 1024 ∧ 1 ≤ d.spBanks ∧ d.spBanks + d.cacheBanks + d.fifoBanks ≤ 384 ∧ d.argBytes ≤ 128 ∧ d.xthr ≤ 8 ∧
       d.accTiles ≤ 8 ∧ flags / 8 = 0 ∧ f 0x1E 2 = 0 ∧ f 0x28 88 = 0)
  then some d else none

/-- R221: a declared range after rounding, and the whole address space. -/
def gridRange (base len : Nat) (write : Bool) : GridRange :=
  { base := base / 256 * 256, bytes := (base + len + 255) / 256 * 256 - base / 256 * 256, write := write }

def wholeRange : List GridRange := [{ base := 0, bytes := 2 ^ 65, write := true }]

/-- R221: the ranges that a list of `n` entries declares, after rounding. -/
def gridRanges (bs : List Byte) (n : Nat) : List GridRange :=
  (List.range n).filterMap fun i =>
    let len := fieldOf bs (16 * i + 8) 4
    if len = 0 then none else some (gridRange (fieldOf bs (16 * i) 8) len (fieldOf bs (16 * i + 12) 4 % 2 == 1))

/-- R341 condition 4: whether the entries of a range list are legal. -/
def rangesLegal (bs : List Byte) (n : Nat) : Bool := (List.range n).all fun i => decide (fieldOf bs (16 * i + 12) 4 ≤ 1)

/-- R342: the counts of a grid's teams in x, y and z. -/
def LaunchRecord.counts (r : LaunchRecord) : Nat × Nat × Nat := (if r.ragged then (r.rows + 31) / 32 else r.tx, r.ty, r.tz)

def LaunchRecord.total (r : LaunchRecord) : Nat := r.counts.1 * r.counts.2.1 * r.counts.2.2

/-- R138: what a team takes of its core: groups, threads, registers, tiles, banks. -/
structure Need where
  groups : Nat
  threads : Nat
  regs : Nat
  tiles : Nat
  banks : Nat
deriving DecidableEq, Repr

def KernelDesc.need (d : KernelDesc) : Need :=
  d.roles.foldl (fun (n : Need) (r : RoleDesc) =>
      { n with groups := n.groups + r.groups, threads := n.threads + r.groups * r.width, regs := n.regs + r.groups * r.width * r.budget })
    { groups := 0, threads := 0, regs := 0, tiles := d.accTiles, banks := d.spBanks + d.cacheBanks + d.fifoBanks }

/-- R138: the limits of a wide core. -/
def coreLimit : Need := { groups := 128, threads := 4096, regs := 131072, tiles := 8, banks := 384 }

def Need.add (a b : Need) : Need :=
  { groups := a.groups + b.groups, threads := a.threads + b.threads, regs := a.regs + b.regs, tiles := a.tiles + b.tiles, banks := a.banks + b.banks }

def Need.within (a b : Need) : Bool :=
  decide (a.groups ≤ b.groups ∧ a.threads ≤ b.threads ∧ a.regs ≤ b.regs ∧ a.tiles ≤ b.tiles ∧ a.banks ≤ b.banks)

def Need.times (a : Need) (n : Nat) : Need :=
  { groups := a.groups * n, threads := a.threads * n, regs := a.regs * n, tiles := a.tiles * n, banks := a.banks * n }

/-- R341 condition 5: the teams of a descriptor that fit on the whole module at once. -/
def KernelDesc.capacity (d : KernelDesc) : Nat :=
  256 * ((List.range 129).filter fun n => (d.need.times (n + 1)).within coreLimit).length

/-- R339, R344: the range list of a record as it is read once, or the reason it cannot be; a record whose own fields say no list of at most 8 aligned entries has none to read. -/
def State.readRanges (s : State) (asid : Nat) (r : LaunchRecord) : Except Nat (State × List Byte) :=
  if 8 < r.rangeCount ∨ r.ranges.toNat % 16 ≠ 0 then .ok (s, []) else s.sysReadBlocks asid r.ranges r.rangeCount

/-- R221, R341, R344: what the Dispatcher finds in a record at its consumption: the state after, the descriptor, the ranges that order the grid whether it is valid or not, and why it is invalid. -/
def State.judgeRecord (s : State) (asid : Nat) (r : LaunchRecord) (fieldsOk : Bool) : State × Option KernelDesc × List GridRange × Option Nat :=
  let read (e : Nat) : Nat := if e = 7 then 3 else 2
  let d := s.sysReadBlocks asid r.desc 8
  let desc := d.toOption.bind fun x => kernelDesc x.2
  let s1 := d.toOption.elim s Prod.fst
  let list := s1.readRanges asid r
  let s2 := list.toOption.elim s1 Prod.fst
  let rs := list.toOption.elim [] fun x => gridRanges x.2 (x.2.length / 16)
  let ranges := if rs.isEmpty then wholeRange else rs
  let why : Option Nat :=
    if !fieldsOk then some 0
    else match d, desc, list with
    | .error e, _, _ => some (read e)
    | .ok _, none, _ => some 1
    | .ok _, some _, .error e => some (read e)
    | .ok _, some k, .ok x =>
      if !rangesLegal x.2 r.rangeCount then some 0
      else if (r.coresident || k.coresident) && decide (k.capacity < r.total) then some 4 else none
  (s2, desc, ranges, why)

/-- The first number from `n` on that is not used. -/
def freshNumber (used : List Nat) : Nat → Nat → Nat
  | 0, n => n % 2 ^ 32
  | fuel + 1, n => if used.contains (n % 2 ^ 32) then freshNumber used fuel (n + 1) else n % 2 ^ 32

/-- R339: the live grids of a context. -/
def State.liveGrids (s : State) (slot : Nat) : List Grid := s.grids.filter fun g => g.ctx == slot && g.phase != .finished

/-- R341, Table 21.5: the fault record of a launch. -/
def State.launchFault (s : State) (g : Grid) (access reason : Nat) (addr : W64) : State :=
  s.postRecord g.ctx none none { kind := 6, cause := 0, access := access, reason := reason, addr := addr, pc := g.record.desc, lane := none }

/-- R338: the bytes that a slot held before: those read from it last, or those of memory when its context was registered. -/
def State.slotBefore (s : State) (c : Context) (q : Nat) (va : W64) (n : Nat) : List Byte :=
  match c.slots.find? fun x => x.1 == q && x.2.1 == va with
  | some x => x.2.2
  | none => (List.range n).map fun i => match s.mapped c.entry.asid (va57 (va + BitVec.ofNat 64 i)) with
    | .ok x => if let some far := x.attr.host then sget c.opened.host (hostAt x.pa far) else (s.atImage c.opened).keyByte x.attr.key x.pa
    | .error _ => 0

/-- The bytes that writes still to be performed carry to an address of a context: those of units, and those that a region's words hold. -/
def State.comingBytes (s : State) (asid : Nat) (a : W64) : List Byte :=
  match s.mapped asid (va57 a) with
  | .error _ => []
  | .ok x =>
    (s.units.flatMap fun u => u.reqs.flatMap fun q => if !q.kind.writes then [] else q.lanes.filterMap fun l =>
      if l.asid = x.asid ∧ l.va + l.at_ ≤ x.va ∧ x.va < l.va + q.size ∧ l.done = false then some (l.data.extractLsb' (8 * (x.va - l.va)) 8) else none) ++
    s.deferred.filterMap fun w =>
      let k := match w.host with
        | some (pa, _) => x.pa - pa + (if x.pa < pa then 2 ^ 64 else 0)
        | none => if w.asid = asid then (a - w.addr).toNat else 2 ^ 64
      if k < w.size then some (w.data.extractLsb' (8 * k) 8) else none

/-- R338: the bytes of such a slot are unpredictable: each is what it was before, what it is now, or what a write still to be performed makes it. -/
def State.looseBytes (s : State) (c : Context) (q : Nat) (va : W64) (bs : List Byte) : List Byte :=
  let before := s.slotBefore c q va bs.length
  (List.range bs.length).map fun i =>
    let may := nth 0 bs i :: nth 0 before i :: s.comingBytes c.entry.asid (va + BitVec.ofNat 64 i)
    nth 0 may ((Config.free s.free (64 + i)).toNat % may.length)

/-- R338: whether a producer has broken the protocol: more is published than was claimed, or more claimed than the queue holds, or a write of the slot's bytes is still to be performed (log entry 84). -/
def State.protocolBroken (s : State) (asid : Nat) (x : QHeader) (va : W64) : Bool :=
  decide (countDiff x.reserve x.head < countDiff x.tail x.head ∨ x.count < countDiff x.reserve x.head) ||
  (List.range 64).any fun i => !(s.comingBytes asid (va + BitVec.ofNat 64 i)).isEmpty

/-- R339 to R341: a record at the head of a queue is read, judged and consumed. The grid's number is a free value among those not in use (R121). -/
def consumeRecord (slot q : Nat) (s : State) : Out :=
  match s.ctx? slot with
  | none => .next s
  | some c =>
    let h := c.queueVa q
    if h = 0 ∨ c.phase ≠ .running ∨ c.enabled = false ∨ s.phase ≠ .running ∨ 64 ≤ (s.liveGrids slot).length then .next s
    else match s.readQueue c.entry.asid h with
    | .error _ => .next s
    | .ok (s1, x) =>
      if !x.valid ∨ !x.enable ∨ countDiff x.tail x.head = 0 ∨ 2 ^ 63 ≤ countDiff x.tail x.head then .next s
      else
        let va := slotVa h x.count x.head
        let blank : LaunchRecord × Bool := launchRecord []
        let rec' : State × LaunchRecord × Option KernelDesc × List GridRange × Option Nat :=
          match s1.sysReadBlocks c.entry.asid va 4 with
          | .error e => (s1, blank.1, none, wholeRange, some (if e = 7 then 3 else 2))
          | .ok (s2, bs) =>
            let r := launchRecord (if s2.protocolBroken c.entry.asid x va then s2.looseBytes c q va bs else bs)
            let j := s2.judgeRecord c.entry.asid r.1 r.2
            (j.1, r.1, j.2.1, j.2.2.1, j.2.2.2)
        let s2 := rec'.1
        if s2.regionBusy c.entry.asid (h + 16) 8 then .next s
        else match s2.sysWrite c.entry.asid (h + 16) 8 (BitVec.ofNat 128 ((x.head + 1) % 2 ^ 64)) 0 with
        | .error _ => .next s
        | .ok (s3', _) =>
          let now := (s1.sysReadBlocks c.entry.asid va 4).toOption.elim [] Prod.snd
          let s3 := s3'.modCtx slot fun y =>
            { y with queueValid := modNth (fun _ => true) y.queueValid q, slots := (q, va, now) :: y.slots.filter fun z => !(z.1 == q && z.2.1 == va) }
          let used := (s3.liveGrids slot).map fun g => g.number
          let r := rec'.2.1
          let g : Grid :=
            { ctx := slot, queue := q, order := s3.grids.length, number := freshNumber used 65 (Config.free s3.free 29).toNat, record := r
              desc := rec'.2.2.1, ranges := rec'.2.2.2.1, priority := if r.priority = 255 then x.priority else r.priority, slot := va
              invalid := rec'.2.2.2.2.map fun e => { access := 8, reason := e, addr := va }, phase := .waiting, args := [], placed := 0, exited := 0
              terminated := false, wct := 0, waited := 0, code := CodeImage.empty, written := [], late := [] }
          let s4 := { s3 with grids := s3.grids ++ [g] }.fresh
          .next (match g.invalid with
            | some f => s4.launchFault g f.access f.reason f.addr
            | none => s4)

/-- R222: whether two ranges overlap, and whether two grids conflict. -/
def rangesOverlap (a b : GridRange) : Bool := decide (a.base < b.base + b.bytes ∧ b.base < a.base + a.bytes)

def gridsConflict (a b : Grid) : Bool := a.ranges.any fun x => b.ranges.any fun y => (x.write || y.write) && rangesOverlap x y

/-- R222, R382: whether every team of a grid that was placed has exited; those of a killed grid may exit after it is retired. -/
def State.teamsGone (s : State) (g : Grid) : Bool := s.teams.all fun t => t.grid != g.order || t.life == .exited

/-- R222: the conflicting grids ahead of a grid in its queue. -/
def State.conflictsAhead (s : State) (g : Grid) : List Grid :=
  s.grids.filter fun x => x.ctx == g.ctx && x.queue == g.queue && decide (x.order < g.order) && gridsConflict x g

/-- R349, R237, R238: the atomic that advances a completion counter, and sets its poison bit if `bad`; `none` while a region holds the word, or the reason it cannot be performed. -/
def State.advanceCompletion (s : State) (asid : Nat) (a : W64) (floor : Nat) (bad : Bool) : Except Nat (Option State) :=
  if a.toNat % 8 ≠ 0 then .error 0
  else s.advanceGlobal asid a 1 floor bad none

/-- R349: a grid is retired: its completion counter advances by the greatest completion time that was waited past, with poison if `bad`, or its context hears that it cannot. In a kill no record is posted, and the advance is made at once or as soon as no region holds the word (R382). -/
def State.completeGrid (s : State) (i : Nat) (bad kill : Bool) : State :=
  match nth? s.grids i with
  | none => s
  | some g =>
    if g.phase = .finished then s
    else
      let s1 := { s with grids := modNth (fun x => { x with phase := .finished }) s.grids i }
      let a := g.record.completion
      let asid := (s1.ctx? g.ctx).elim 0 fun c => c.entry.asid
      let floor := max g.wct g.waited
      if a = 0 then s1
      else match s1.advanceCompletion asid a floor bad with
      | .ok (some s2) => s2
      | .ok none => { s1 with deferred := s1.deferred ++ [⟨asid, a, 8, 1, floor, true, none⟩] }
      | .error _ => if kill then s1 else s1.launchFault g 3 5 a

/-- R259: whether the advance of a grid's completion counter is held beside a region. -/
def State.completionBusy (s : State) (g : Grid) : Bool :=
  g.record.completion != 0 && s.regionBusy ((s.ctx? g.ctx).elim 0 fun c => c.entry.asid) g.record.completion 8

/-- R344, R134, R342: a grid starts once every conflicting grid ahead is finished; one that launches nothing is retired. Its code is fetched as it stands now (R18). -/
def startGrid (i : Nat) (s : State) : Out :=
  match nth? s.grids i with
  | none => .next s
  | some g =>
    match s.ctx? g.ctx with
    | none => .next s
    | some c =>
      let ahead := s.conflictsAhead g
      if g.phase ≠ .waiting ∨ c.phase ≠ .running ∨ s.phase ≠ .running ∨ (ahead.any fun x => x.phase != .finished || !s.teamsGone x) = true ∨ s.completionBusy g then
        .next s
      else
        let waited := ahead.foldl (fun (m : Nat) (x : Grid) => max m x.wct) 0
        let set (f : Grid → Grid) (a : State) : State := { a with grids := modNth f a.grids i }
        let s0 := set (fun x => { x with waited := waited }) s
        match g.invalid, g.desc with
        | none, some d =>
          if g.record.total = 0 then .next (s0.completeGrid i false false)
          else match s0.sysReadBytes c.entry.asid g.record.args d.argBytes with
          | .error e =>
            let bad := if e = 7 then 3 else 2
            .next (((set (fun x => { x with invalid := some { access := 8, reason := bad, addr := g.slot } }) s0).launchFault g 8 bad g.slot).completeGrid i true false)
          | .ok (s1, bs) => .next (set (fun x => { x with phase := .started, args := bs, code := s1.codeImage }) s1)
        | _, _ => .next (s0.completeGrid i true false)

/-- R138, R385: the teams that hold resources of a core. -/
def State.coreTeams (s : State) (core : Nat) : List Team := s.teams.filter fun t => t.core == core && t.liveAlloc

/-- R190: the home share of a wide core: its first bank. -/
def shareBase (core : Nat) : Nat := core % 2 * 384

/-- R191, R192: the banks of a core's share that no allocation holds. -/
def State.freeBanks (s : State) (core : Nat) : List Nat :=
  let held := (s.teams.filter fun t => t.liveAlloc && decide (clusterOf t.core = clusterOf core)).flatMap fun t => t.banks.map fun b => b.idx
  ((List.range 384).map fun i => shareBase core + i).filter fun b => !held.contains b

/-- R192: the first banks of the free runs long enough for a team's scratchpad. -/
def runStarts (free : List Nat) (n : Nat) : List Nat := free.filter fun b => (List.range n).all fun i => free.contains (b + i)

/-- R138: whether a core has room for a team of a descriptor. -/
def State.fits (s : State) (core : Nat) (d : KernelDesc) : Bool :=
  (((s.coreTeams core).foldl (fun (n : Need) (t : Team) => n.add t.desc.need) d.need).within { coreLimit with banks := 384 * 2 }) &&
  decide (d.need.banks ≤ (s.freeBanks core).length) && !(runStarts (s.freeBanks core) d.spBanks).isEmpty

/-- Some of a list's members, drawn one after another by free values. -/
def State.drawn (s : State) : Nat → List Nat → List Nat
  | 0, _ => []
  | n + 1, xs =>
    match nth? xs ((Config.free s.free (64 + n)).toNat % xs.length) with
    | some x => x :: s.drawn n (xs.filter fun y => y != x)
    | none => []

/-- R192: runs of `n` banks beside one another, packed from the lowest bank on. -/
def packedRuns (n : Nat) : Nat → List Nat → List Nat
  | 0, _ => []
  | fuel + 1, free =>
    match (runStarts free n).head? with
    | some b => (List.range n).map (fun i => b + i) ++ packedRuns n fuel (free.filter fun x => decide (b + n ≤ x))
    | none => []

/-- R192: a bank allocation of a descriptor: a run of scratchpad banks from `base`, and the other banks by preference. -/
def bankList (d : KernelDesc) (base : Nat) (others : List Nat) : List Bank :=
  let all := ((List.range d.spBanks).map fun i => (base + i, BankMode.sp)) ++ ((others.take d.cacheBanks).map fun b => (b, BankMode.cache)) ++
    (((others.drop d.cacheBanks).take d.fifoBanks).map fun b => (b, BankMode.fifo))
  (List.range 768).filterMap fun b => (all.find? fun x => x.1 == b).map fun x => { idx := b, mode := x.2 }

/-- R192: the banks of a new allocation. Where the run of scratchpad banks begins and which others are taken is open (free values); `packed` takes those that leave the most room for teams like it. -/
def State.allocate (s : State) (core : Nat) (d : KernelDesc) (packed : Bool) : List Bank × Nat :=
  let free := s.freeBanks core
  let starts := runStarts free d.spBanks
  let base := if packed then nth 0 starts 0 else nth 0 starts ((Config.free s.free 30).toNat % starts.length)
  let rest := free.filter fun b => !(decide (base ≤ b ∧ b < base + d.spBanks))
  let runs := packedRuns d.spBanks 384 rest
  let others := if packed then (rest.filter fun b => !runs.contains b) ++ runs.reverse else s.drawn (d.cacheBanks + d.fifoBanks) rest
  (bankList d base others, base * 1024)

/-- R347: the Morton key of a place in a tile. -/
def mortonKey (u v : Nat) : Nat :=
  (List.range 16).foldl (fun (k : Nat) (i : Nat) =>
    k + (if u.testBit i then 2 ^ (2 * i) else 0) + (if v.testBit i then 2 ^ (2 * i + 1) else 0)) 0

/-- R347: the Hilbert key of a place in a tile of side `n`; the side `s` halves. -/
def hilbertKey (n : Nat) : Nat → Nat → Nat → Nat
  | 0, _, _ => 0
  | k + 1, x, y =>
    let s := 2 ^ k
    let rx := if x.testBit k then 1 else 0
    let ry := if y.testBit k then 1 else 0
    let x' := if ry = 0 ∧ rx = 1 then n - 1 - x else x
    let y' := if ry = 0 ∧ rx = 1 then n - 1 - y else y
    s * s * (Nat.xor (3 * rx) ry) + (if ry = 0 then hilbertKey n k y' x' else hilbertKey n k x' y')

/-- R347: the order of places in a tile. -/
def tileKey (curve w : Nat) (u v : Nat) : Nat :=
  if curve = 1 then mortonKey u v else if curve = 2 then hilbertKey (2 ^ w) w u v else v * 2 ^ w + u

/-- R347: the team that stands at a place in curve order. -/
def LaunchRecord.teamAt (r : LaunchRecord) (n : Nat) : Nat × Nat × Nat :=
  let X := r.counts.1
  let Y := r.counts.2.1
  let z := n / (X * Y)
  let p := n % (X * Y)
  let tw := 2 ^ r.tileW
  let th := 2 ^ r.tileH
  let ty := p / (X * th)
  let inRow := p % (X * th)
  let hh := min th (Y - ty * th)
  let tx := inRow / (tw * hh)
  let k := inRow % (tw * hh)
  let ww := min tw (X - tx * tw)
  let cells := (List.range hh).flatMap fun v => (List.range ww).map fun u => (u, v)
  let key (c : Nat × Nat) : Nat := tileKey r.curve r.tileW c.1 c.2
  match cells.find? fun c => decide ((cells.filter fun d => decide (key d < key c)).length = k) with
  | some c => (tx * tw + c.1, ty * th + c.2, z)
  | none => (0, 0, z)

/-- R431: the bytes that a team's image may take, rounded up to 4 KiB. -/
def KernelDesc.imageBound (d : KernelDesc) : Nat :=
  let groups := d.roles.foldl (fun (n : Nat) (r : RoleDesc) => n + r.groups * (2048 + r.width * 4 * r.budget + r.width * 4 * 64)) 0
  let vec := (nth { groups := 0, width := 0, budget := 0 } d.roles 2).groups
  let mat := (nth { groups := 0, width := 0, budget := 0 } d.roles 1).groups
  let n := 8192 + groups + vec * 4 * 4096 + (d.spBanks + d.cacheBanks + d.fifoBanks) * 1024 + d.accTiles * 8192 + (if mat = 0 then 0 else 65 * 16064)
  (n + 4095) / 4096 * 4096

/-- R431: the save size of a context now. -/
def State.saveSize (s : State) (slot : Nat) : Nat :=
  let ts := s.teams.filter fun t => t.ctx == slot && t.life != .exited
  ts.foldl (fun (n : Nat) (t : Team) => n + t.desc.imageBound) ((8 * ts.length + 4095) / 4096 * 4096)

/-- R425, R431: the save size in the context status block. -/
def State.putSaveSize (s : State) (slot : Nat) : State := s.putStatus slot 0 8 (s.saveSize slot)

/-- R222 step 3: whether a line lies in a range of 64-bit addresses. -/
def GridRange.holds (r : GridRange) (line : Nat) : Bool :=
  let a := ((BitVec.ofNat 57 (line * 128)).signExtend 64).toNat
  decide (a < r.base + r.bytes ∧ r.base < a + 128)

/-- R222 step 3: the lines of the write ranges of the conflicting grids ahead leave the L1 of the core on which a team is placed; those under another context's name may be such lines too (R212), and leave, and those that the ranges name only through another name of the same context stay (log entry 86). -/
def State.invalidateFor (s : State) (g : Grid) (core : Nat) : State :=
  let asid := (s.ctx? g.ctx).elim 0 fun c => c.entry.asid
  let ranges := (s.conflictsAhead g).flatMap fun x => x.ranges.filter fun r => r.write
  let mine := s.l1.filter fun l => l.core == core && (if l.asid = asid then ranges.any fun r => r.holds l.line else !ranges.isEmpty)
  mine.foldl (fun (a : State) (l : L1Line) => a.evictL1 l) s

/-- R191, R194: the L1 is written back and invalidated before an allocation takes banks from it. -/
def State.flushBanks (s : State) (core : Nat) (banks : List Bank) : State :=
  if banks.any fun b => b.mode != .cache then s.flushL1 core else s

/-- R135, R192, R342, R343: the next team of a grid is placed on a core. -/
def State.placeTeam (s : State) (i core : Nat) (packed : Bool) : Option State :=
  match nth? s.grids i with
  | none => none
  | some g =>
    match g.desc with
    | none => none
    | some d =>
      if !s.fits core d then none
      else
        let a := s.allocate core d packed
        let p := g.record.teamAt g.placed
        let X := g.record.counts.1
        let t : Team :=
          { ctx := g.ctx, grid := i, x := p.1, y := p.2.1, z := p.2.2, linear := p.1 + X * (p.2.1 + g.record.counts.2.1 * p.2.2), core := core
            base := a.2, desc := d, xthr := d.xthr, chk := d.chk, det := d.det || g.record.det, frm := 0, lease := 512, banks := a.1, acc := []
            latch := none, latchPlan := none, queue := [], mTicket := 0, tTicket := 0, life := .placed, terminated := false, wct := 0
            stallSince := none }
        let cl := clusterOf core
        let s1 := (s.flushBanks core a.1).invalidateFor g core
        let s2 := (a.1.filter fun b => b.mode != .cache).foldl (fun (x : State) (b : Bank) => x.sramZero cl b.idx) s1
        some { s2.fresh with
          teams := s2.teams ++ [t]
          grids := modNth (fun x => { x with placed := x.placed + 1 }) s2.grids i }

/-- R343: whether a grid is co-resident. -/
def Grid.coresident (g : Grid) : Bool := g.record.coresident || (g.desc.elim false fun d => d.coresident)

/-- Whether a started grid of a running context still has teams to place. -/
def State.placing (s : State) (g : Grid) : Bool :=
  g.phase == .started && decide (g.placed < g.record.total) && ((s.ctx? g.ctx).elim false fun c => c.phase == .running)

/-- R345: whether a grid comes before another for placement. -/
def Grid.before (a b : Grid) : Bool := decide (b.priority < a.priority ∨ (a.priority = b.priority ∧ a.order < b.order))

/-- Whether some core has room for a team of a grid. -/
def State.roomFor (s : State) (g : Grid) : Bool := g.desc.elim false fun d => (List.range 256).any fun c => s.fits c d

/-- R346, R347: every team of a grid placed, or none: on cores that a free choice names, or, if `packed`, on the first that have room. -/
def State.placeAll (i : Nat) (packed : Bool) : Nat → State → Option State
  | 0, s => some s
  | n + 1, s =>
    let room := (List.range 256).filter fun c => (nth? s.grids i).elim false fun g => g.desc.elim false fun d => s.fits c d
    match (nth? room (if packed then 0 else (Config.free s.free 35).toNat % room.length)).bind fun c => s.placeTeam i c packed with
    | some s1 => State.placeAll i packed n s1
    | none => none

/-- R346: a co-resident grid placed: as free choices have it, or, where those split the room, packed. -/
def State.placeGrid (s : State) (g : Grid) : Option State :=
  match State.placeAll g.order false g.record.total s with
  | some s1 => some s1
  | none => State.placeAll g.order true g.record.total s

/-- R346: whether a grid waits for a co-resident grid of its context. -/
def State.blockedBy (s : State) (g : Grid) : Bool :=
  s.grids.any fun x => x.order != g.order && x.ctx == g.ctx && s.placing x && x.coresident && decide (g.priority ≤ x.priority) &&
    !(g.coresident && g.before x)

/-- R345, R346: whether a grid could be given a place now. -/
def State.admissible (s : State) (x : Grid) : Bool :=
  s.placing x && !s.blockedBy x && (if x.coresident then (State.placeAll x.order true x.record.total s).isSome else s.roomFor x)

/-- R345 to R347: the next team of a grid, or a whole co-resident grid, is placed. -/
def teamPlacement (i core : Nat) (s : State) : Out :=
  match nth? s.grids i with
  | none => .next s
  | some g =>
    if !s.placing g || decide (256 ≤ core) || s.phase != .running || s.blockedBy g ||
       (s.grids.any fun x => x.before g && s.admissible x) then .next s
    else
      match if g.coresident then s.placeGrid g else s.placeTeam i core false with
      | some s1 => .next (s1.putSaveSize g.ctx)
      | none => .next s

/-- R132, R133, Table 6.3: the uniform registers of a group at team start. -/
def startUniforms (g : Grid) (t : Team) (role : Nat) : Sparse 64 :=
  let X := g.record.counts.1
  let s3 := if g.record.ragged ∧ t.x + 1 = X then g.record.rows - 32 * (X - 1) else 32
  let args := (List.range 16).map fun i => (8 + i, BitVec.ofNat 64 (fieldOf g.args (8 * i) 8))
  ([(1, BitVec.ofNat 64 (t.y * 2 ^ 32 + t.x)), (2, BitVec.ofNat 64 (role * 2 ^ 16 + t.z)), (3, BitVec.ofNat 64 s3), (4, BitVec.ofNat 64 t.base),
    (6, g.record.user)] ++ args).foldl (fun (m : Sparse 64) (x : Nat × W64) => sset m x.1 x.2) []

/-- R25, R26, R132, R143, R226, R227, R236: a group at team start; `first` is the number of its first thread. -/
def startGroup (g : Grid) (t : Team) (team role gidx width budget first : Nat) : Unit :=
  { team := team, role := role, gidx := gidx, width := width, budget := budget, pc := t.desc.entry.setWidth 57, step := 0
    v := (List.range width).foldl (fun (m : Sparse 32) (l : Nat) => sset m l (BitVec.ofNat 32 (first + l))) [], p := []
    u := startUniforms g t role, dirty := 1, win := [], vars := [], launched := maskBelow width, active := maskBelow width, levels := []
    joinCtr := [0, 0, 0, 0], fflags := 0, mflags := [], tcause := 0, tepc := 0, tval := 0, inHandler := false, ops := [], reqs := [], spq := [], wct := 0
    floor := g.waited, stamp := 0, lastTime := 0, lastCycle := 0, region := none, batch := 0, wait := .none, synced := none, push := none, lastIssue := 0, live := true
    frag := none }

/-- R132: the groups of a role from a thread number on. -/
def startRole (g : Grid) (t : Team) (team role first : Nat) (r : RoleDesc) : List Unit :=
  (List.range r.groups).map fun i => startGroup g t team role i r.width r.budget (first + i * r.width)

/-- R132: a placed team's groups begin at the entry. -/
def teamStart (ti : Nat) (s : State) : Out :=
  match s.team? ti with
  | none => .next s
  | some t =>
    match nth? s.grids t.grid, t.life, s.phase with
    | some g, .placed, .running =>
      let zero : RoleDesc := { groups := 0, width := 0, budget := 0 }
      let r := fun i => nth zero t.desc.roles i
      let n0 := (r 0).groups * (r 0).width
      let n1 := n0 + (r 1).groups * (r 1).width
      if t.terminated then .next s
      else .next { s with
        units := s.units ++ startRole g t ti 0 0 (r 0) ++ startRole g t ti 1 n0 (r 1) ++ startRole g t ti 2 n1 (r 2)
        teams := modNth (fun x => { x with life := .running }) s.teams ti }
    | _, _, _ => .next s

/-- The units of a team. -/
def State.teamUnits (s : State) (ti : Nat) : List (Nat × Unit) :=
  (List.range s.units.length).filterMap fun i => match s.unit? i with
    | some u => if u.team = ti then some (i, u) else none
    | none => none

/-- R348: the greatest completion time of a team's groups, fragments and landed engine writes. -/
def State.teamWct (s : State) (ti : Nat) (t : Team) : Nat := (s.teamUnits ti).foldl (fun (m : Nat) (x : Nat × Unit) => max m x.2.wct) t.wct

/-- R348: whether a team counts as exited. -/
def State.hasExited (s : State) (ti : Nat) (t : Team) : Bool :=
  let us := s.teamUnits ti
  let uids := us.map Prod.fst
  let w := s.teamWct ti t
  (t.life == .running || (t.life != .exited && t.terminated)) && (us.all fun x => !x.2.live) &&
  (t.terminated ||
    ((us.all fun x => x.2.reqs.isEmpty && x.2.spq.isEmpty) && (s.copies.all fun c => c.team != ti) && (s.gathers.all fun c => c.team != ti) &&
     (s.batches.all fun b => !b.closed || !uids.contains (b.id / 2 ^ 32)) && (s.signals.all fun g => !g.isAdvance ti) && t.queue.isEmpty)) &&
  (w == 0 || s.passed dispatcherClock w)

/-- R193, R195: whether no other team's scratchpad access that is checked and not yet performed reaches the banks that a team gives up (log entry 109). -/
def State.banksQuiet (s : State) (ti : Nat) (t : Team) : Bool :=
  let cl := clusterOf t.core
  s.units.all fun u => u.team == ti || u.spq.all fun a => a.cluster != cl || a.lanes.all fun l => !(t.banks.any fun b => b.idx == l.addr / 1024)

/-- R192, R197, R348: a team's banks are released and their contents discarded. -/
def State.releaseBanks (s : State) (t : Team) : State :=
  let cl := clusterOf t.core
  let s1 := t.banks.foldl (fun (a : State) (b : Bank) => if b.mode = .cache then a else a.sramZero cl b.idx) s
  { s1 with zeroBanks := s1.zeroBanks.filter fun z => !(t.banks.any fun b => cl * 1024 + b.idx == z) }

/-- R386, R425: once no team of a context that saves is left to save, it is saved. -/
def State.saveDone (s : State) (slot : Nat) : State :=
  match s.ctx? slot with
  | none => s
  | some c =>
    if c.phase ≠ .saving ∨ (s.teams.any fun t => t.ctx == slot && (t.liveAlloc || t.life == .gated)) = true then s
    else
      let s1 := s.modCtx slot fun x => { x with phase := .saved }
      (((s1.putStatus slot 8 4 2).putStatus slot 12 4 c.images).putStatus slot 16 8 0).postEvent slot 7 c.saveBase 0 0

/-- R348, R349: a team counts as exited; with the last one its grid is retired. -/
def teamExited (ti : Nat) (s : State) : Out :=
  match s.team? ti with
  | none => .next s
  | some t =>
    match nth? s.grids t.grid with
    | none => .next s
    | some g =>
      if !s.hasExited ti t || !s.banksQuiet ti t || s.completionBusy g then .next s
      else
        let uids := (s.teamUnits ti).map Prod.fst
        let s0 := s.endSubscriptions ti
        let s1 := { s0 with
          units := s0.units.map fun (u : Unit) => if u.team = ti then { u with reqs := [], spq := [] } else u
          batches := s0.batches.filter fun b => !uids.contains (b.id / 2 ^ 32) }
        let s2 := (s1.releaseBanks t).modTeam ti fun x => { x with life := .exited, acc := [], latch := none, queue := [], banks := [] }
        let w := s.teamWct ti t
        let s3 := { s2 with grids := modNth (fun x => { x with exited := x.exited + 1, wct := max x.wct w, terminated := x.terminated || t.terminated }) s2.grids t.grid }
        let s4 := (s3.putSaveSize t.ctx).saveDone t.ctx
        .next (if g.exited + 1 = g.record.total then s4.completeGrid t.grid (g.terminated || t.terminated) false else s4)

/-- R337. Dispatcher judges a written queue header. -/
def execQueueHeaderJudge (c q : Nat) (s : State) : Out :=
  let s1 := s.judgeQueue c q false
  if (s1.ctx? c).map (fun x => x.queueValid) = (s.ctx? c).map (fun x => x.queueValid) then .next s else .next s1

/-- R339. Dispatcher reads the record at head and advances head. -/
def execRecordConsume (c q : Nat) (s : State) : Out := consumeRecord c q s

/-- R344. Grid starts once conflicting grids ahead have finished. -/
def execGridStart (g : Nat) (s : State) : Out := startGrid g s

/-- R347. Dispatcher places the next team in curve order. -/
def execTeamPlacement (g core : Nat) (s : State) : Out := teamPlacement g core s

/-- R132. Team's groups begin at the entry with start state. -/
def execTeamStart (t : Nat) (s : State) : Out := teamStart t s

/-- R348. Team counts as exited and releases its banks and tiles. -/
def execTeamExited (t : Nat) (s : State) : Out := teamExited t s

end Sys2Proof.Machine
end

