-- ==== Sys2Proof/Machine/Matrix.lean ====
section
/-!
DEFINITION. The issue of matrix-engine commands, class 21 (R320 to R328, R330, R332, R334, R335, R350 to R352, R361 to R365).
-/

namespace Sys2Proof.Machine

/-- R323, Table 16.3: a voted format word. -/
structure MFmt where
  a : Nat
  b : Nat
  aScaled : Bool
  bScaled : Bool
  acc : Nat
  sat : Bool
  rest : Nat
deriving DecidableEq, Repr

def mfmt (x : BitVec 16) : MFmt :=
  { a := x.toNat % 16, b := x.toNat / 16 % 16, aScaled := x.getLsbD 8, bScaled := x.getLsbD 9, acc := x.toNat / 1024 % 4, sat := x.getLsbD 12
    rest := x.toNat / 8192 }

/-- Table 16.2: the pairings that a format word may name. -/
def MFmt.legal (f : MFmt) : Bool :=
  f.rest == 0 &&
  (((f.a == 5 || f.a == 6) && (f.b == 5 || f.b == 6) && f.acc == 0) || (f.a ≤ 1 && f.b ≤ 1 && f.acc == 0) ||
   ((f.a == 3 || f.a == 4) && (f.b == 3 || f.b == 4) && f.acc == 1) || (f.a == 2 && f.b == 2 && f.acc == 0))

/-- R70: a q4x operand is scaled whatever its bit says. -/
def MFmt.scaleA (f : MFmt) : Bool := f.aScaled || f.a == 2

def MFmt.scaleB (f : MFmt) : Bool := f.bScaled || f.b == 2

/-- R327: the bytes of a B tile. -/
def MFmt.bSpan (f : MFmt) : Nat := if f.scaleB then 3200 else 3072

/-- R323: the format words of the active lanes: the first vote that differs, or the voted bits. -/
def State.vote (s : State) (u : Unit) (r : Nat) : Except (Nat × W64) (BitVec 16) :=
  let word (l : Nat) : W32 := s.arg32 u (.vec r 1 0) l
  match u.activeLanes with
  | [] => .ok 0
  | l0 :: rest =>
    let b0 := (word l0).toNat % 65536
    match rest.find? fun l => (word l).toNat % 65536 != b0 with
    | some l => .error (0x08, BitVec.ofNat 64 (b0 + (word l).toNat % 65536 * 2 ^ 16 + l * 2 ^ 32))
    | none => if (mfmt (BitVec.ofNat 16 b0)).legal then .ok (BitVec.ofNat 16 b0) else .error (0x09, BitVec.ofNat 64 b0)

/-- The 20 bits of an SRAM address that a register gives. -/
def low20 (x : W64) : Nat := x.toNat % 2 ^ 20

/-- R328: the first address of a range that lies outside the team's own scratchpad banks. -/
def State.outsideOwn (s : State) (team cluster : Nat) (a : Int) (n : Nat) : Option W64 :=
  let own (x : Nat) : Bool := match s.bankAt cluster x with
    | some (t, .sp) => t == team
    | _ => false
  if n = 0 then none
  else if a < 0 then some (BitVec.ofInt 64 a)
  else
    let lo := a.toNat
    let firsts := lo :: ((List.range (n / 1024 + 1)).map fun i => (lo / 1024 + 1 + i) * 1024).filter fun x => decide (x < lo + n)
    (firsts.find? fun x => !own x).map (BitVec.ofNat 64)

/-- R328, R351: the checks of a command's scratchpad ranges: `translation`, then, for those written, `sealed-store` with the first byte that lies in a header (log entry 118). -/
def State.rangeFault (s : State) (u : Unit) (rs : List (Int × Nat)) (write : Bool) : Option (Nat × W64) :=
  let cl := s.clusterOfUnit u
  match rs.findSome? fun r => s.outsideOwn u.team cl r.1 r.2 with
  | some v => some (0x12, v)
  | none =>
    if !write then none
    else rs.findSome? fun r => (if r.2 = 0 then none else s.headerAt cl r.1 r.2).map fun v => (0x11, v)

/-- R320: the commands accepted and unfinished on a core; those of a saved team are with its image. -/
def State.matrixLoad (s : State) (core : Nat) : Nat :=
  s.teams.foldl (fun (n : Nat) (t : Team) => if t.core = core ∧ t.liveAlloc = true then n + t.queue.length else n) 0

/-- R326, R330: the tiles of a unit's team, and whether the latch will be held for the unit. -/
def State.accTiles (s : State) (u : Unit) : Nat := (s.team? u.team).elim 0 fun t => t.desc.accTiles

def State.latchHeld (s : State) (uid : Nat) (u : Unit) : Bool := (s.team? u.team).elim false fun t => t.latchPlan == some (uid, u.active)

/-- The number of the unit in focus. -/
def State.focusId (s : State) : Nat := s.focus.getD 0

/-- The shape of a class 21 word: matrix-role groups alone issue it. -/
def matrixShape (op : BitVec 6) (w : A64) (srcs : List Src) : Shape :=
  { (formA64 21 op w).shape srcs [(.u, w.rd.toNat)] with role := some 1 }

/-- R320, R321, R351, R352: a command that passes its checks is accepted with the next ticket; `plan` says what becomes of the latch. -/
def State.acceptMatrix (s : State) (uid : Nat) (u : Unit) (sh : Shape) (tile : Nat) (kind : MatrixKind) (plan : Option (Option (Nat × W64))) : State :=
  if 64 ≤ s.matrixLoad (s.unitCore u) then s.waits uid u .counter
  else
    let ticket := ((s.team? u.team).elim 0 fun t => t.mTicket) + 1
    let cmd : MatrixCmd :=
      { unit := uid, pc := u.pc.signExtend 64, word := sh.raw, ticket := ticket, tile := tile, mask := u.active, kind := kind, next := 0
        seen := [], got := [], bad := [], outs := [], finished := false }
    let s1 := s.modTeam u.team fun t => { t with mTicket := ticket, queue := t.queue ++ [cmd], latchPlan := plan.getD t.latchPlan }
    s1.retire uid (u.writeVar (sh.dsts.map fun d => ⟨d.1, d.2, [(0, BitVec.ofNat 64 ticket)]⟩) 0) sh

/-- A command's own checks, and its acceptance. -/
def State.matrixCmd (s : State) (uid : Nat) (u : Unit) (sh : Shape) (tile : Nat) (checks : List (Option (Nat × W64))) (kind : MatrixKind)
    (plan : Option (Option (Nat × W64))) : State :=
  match firstFault (failIf (decide (s.accTiles u ≤ tile)) 0x0C (BitVec.ofNat 64 tile) :: checks) with
  | some (c, v) => s.raise uid u sh.len c v
  | none => s.acceptMatrix uid u sh tile kind plan

/-- R324: row `l` of A: twelve registers from `r`. -/
def State.rowOf (s : State) (u : Unit) (r l : Nat) : BitVec 384 :=
  BitVec.ofNat 384 ((List.range 12).foldr (fun (i : Nat) (n : Nat) => (s.arg32 u (.vec (r + i) 1 0) l).toNat + 2 ^ 32 * n) 0)

def State.rowsOf (s : State) (u : Unit) (r : Nat) : Sparse 384 :=
  u.activeLanes.foldl (fun (m : Sparse 384) (l : Nat) => sset m l (s.rowOf u r l)) []

/-- R323: bits `[31:16]` of each lane's format word. -/
def State.scalesOf (s : State) (u : Unit) (r : Nat) : Sparse 16 :=
  u.activeLanes.foldl (fun (m : Sparse 16) (l : Nat) => sset m l ((s.arg32 u (.vec r 1 0) l).extractLsb' 16 16)) []

/-- R362: `mma` and `mma.reuse`. -/
def mmaOp (op : BitVec 6) (reuse : Bool) (w : A64) (s : State) : Out :=
  let tile := w.pa.toNat % 8
  let fmtReg := Src.vec w.rc.toNat 1 0
  let shape (u : Unit) : Shape :=
    matrixShape op w [if s.latchHeld s.focusId u then .named w.ra.toNat else .vec w.ra.toNat 12 0, .uni w.rb.toNat 1, fmtReg]
  s.issueBy shape fun uid u =>
    let sh := shape u
    match s.vote u w.rc.toNat with
    | .error (c, v) => s.raise uid u sh.len c v
    | .ok fw =>
      let f := mfmt fw
      let b := low20 (u.uget w.rb.toNat)
      let a := if s.latchHeld uid u then ASource.latch else .regs [s.rowsOf u w.ra.toNat] (s.scalesOf u w.rc.toNat)
      s.matrixCmd uid u sh tile
        [failIf (b % 64 != 0) 0x04 (BitVec.ofNat 64 b), s.rangeFault u [((b : Int), f.bSpan)] false]
        (.steps a b 0 fw 1 0 reuse !reuse) (some (if reuse then some (uid, u.active) else none))

/-- R362. One step on a tile; the latch is left empty. -/
def execMma (w : A64) (s : State) : Out := mmaOp 0 false w s

/-- R326, R362. One step on a tile; the latch is left holding A. -/
def execMmaReuse (w : A64) (s : State) : Out := mmaOp 1 true w s

/-- R327: the scratchpad ranges of an A operand: those of active rows. -/
def aRanges (base : Int) (lanes : List Nat) (scaled : Bool) : List (Int × Nat) :=
  lanes.map (fun (l : Nat) => (base + ((48 * l : Nat) : Int), 48)) ++
  (if scaled then lanes.map fun (l : Nat) => (base + ((1536 + 2 * l : Nat) : Int), 2) else [])

/-- R332, R363. Many steps on a tile under one format word. When another field is past the budget, `tval` takes in the span of A as well (R351). -/
def execMloop (w : A64) (s : State) : Out :=
  let tile := w.pa.toNat % 8
  let spA := w.pa.getLsbD 6
  let cReg := w.pb.toNat % 32
  let ra := w.ra.toNat
  let count (u : Unit) : Nat := (u.uget cReg).toNat
  let shape (u : Unit) : Shape :=
    let n := count u
    let past := if !spA && decide (u.budget ≤ w.rc.toNat ∧ ra < u.budget ∧ u.budget < ra + 12 * n) then [Src.named u.budget] else []
    matrixShape 2 w
      ((if spA then [Src.uni ra 1] else if n = 0 then [.named ra] else if n ≤ 10 then
          .named ra :: ((List.range (12 * n)).filter fun i => decide (ra + i < u.budget)).map fun i => .vec (ra + i) 1 0 else [.named ra]) ++
        [.uni w.rb.toNat 1] ++ (if spA then [.uni cReg 3] else [.uni cReg 1, .uni (cReg + 2) 1]) ++ [.vec w.rc.toNat 1 0] ++ past)
  s.issueBy shape fun uid u =>
    let sh := shape u
    match s.vote u w.rc.toNat with
    | .error (c, v) => s.raise uid u sh.len c v
    | .ok fw =>
      let f := mfmt fw
      let n := count u
      let incA : Int := if spA then (u.uget (cReg + 1)).toInt else 0
      let incB : Int := (u.uget (cReg + 2)).toInt
      let b := low20 (u.uget w.rb.toNat)
      let a := if spA then low20 (u.uget ra) else 0
      let ranges := (List.range (min n 65535)).flatMap fun (i : Nat) =>
        ((b : Int) + incB * (i : Int), f.bSpan) :: (if spA then aRanges ((a : Int) + incA * (i : Int)) u.activeLanes f.scaleA else [])
      let src := if spA then ASource.sp a incA else .regs ((List.range (min n 10)).map fun (i : Nat) => s.rowsOf u (ra + 12 * i)) (s.scalesOf u w.rc.toNat)
      s.matrixCmd uid u sh tile
        [failIf (decide ((if spA then 65535 else 10) < n)) 0x0C (BitVec.ofNat 64 n),
         failIf (b % 64 != 0) 0x04 (BitVec.ofNat 64 b),
         failIf (a % 64 != 0) 0x04 (BitVec.ofNat 64 a),
         failIf (incB % 64 != 0) 0x04 (BitVec.ofInt 64 incB),
         failIf (incA % 64 != 0) 0x04 (BitVec.ofInt 64 incA),
         failIf (!spA && n != 0 && decide (u.budget < ra + 12 * n)) 0x05 (BitVec.ofNat 64 (max ra u.budget)),
         s.rangeFault u ranges false]
        (.steps src b incB fw n (w.pa.toNat / 8 % 8) false false) none

/-- R334, R364. Every element of a tile becomes zero. -/
def execMaccZero (w : A64) (s : State) : Out :=
  let sh := matrixShape 3 w []
  s.issue sh fun uid u => s.matrixCmd uid u sh (w.pa.toNat % 8) [] .zero none

/-- R334: the ranges of the rows of a tile in scratchpad. -/
def rowRanges (base : Nat) (stride : W64) (bytes rows : Nat) : List (Int × Nat) :=
  (List.range rows).map fun (i : Nat) => ((base : Int) + (stride.toNat : Int) * (i : Int), bytes)

/-- Table 18.5: the bytes of an element in a store format. -/
def storeSize (fmt : Nat) : Nat := if fmt = 0 then 4 else if fmt = 3 then 1 else 2

/-- R334, R364: the frame of `macc.ld` and `macc.st`. -/
def tileOp (op : BitVec 6) (size : Nat) (write : Bool) (kind : Nat → W64 → Nat → MatrixKind) (w : A64) (s : State) : Out :=
  let sh := matrixShape op w [.uni w.ra.toNat 1, .uni w.rb.toNat 1, .uni w.rc.toNat 1]
  s.issue sh fun uid u =>
    let rows := u.uget w.rc.toNat
    let base := low20 (u.uget w.ra.toNat)
    let stride := u.uget w.rb.toNat
    s.matrixCmd uid u sh (w.pa.toNat % 8)
      [failIf (decide (32 < rows.toNat)) 0x0C rows,
       failIf (base % 16 != 0) 0x04 (BitVec.ofNat 64 base),
       failIf (stride.toNat % 16 != 0 || decide (stride.toNat < 64 * size)) 0x04 stride,
       s.rangeFault u (rowRanges base stride (64 * size) (min rows.toNat 32)) write]
      (kind base stride rows.toNat) none

/-- R334, R364. Load rows of a tile. -/
def execMaccLd (w : A64) (s : State) : Out := tileOp 4 4 false (fun b st r => .load b st r) w s

/-- R334, R364. Store rows of a tile in a format. -/
def execMaccSt (w : A64) (s : State) : Out :=
  let fmt := w.pa.toNat / 8 % 4
  tileOp 5 (storeSize fmt) true (fun b st r => .store b st r fmt (w.pa.getLsbD 5)) w s

/-- R335, R365. The Hadamard transform of a scratchpad tile, in place. -/
def execMhad (w : A64) (s : State) : Out :=
  let n := 16 * 2 ^ (w.pa.toNat % 4)
  let fmt := w.pa.toNat / 4 % 2
  let size := if fmt = 0 then 4 else 2
  let cReg := w.pb.toNat % 32
  let sh := matrixShape 6 w [.uni w.ra.toNat 1, .uni w.rb.toNat 1, .uni cReg 1, .uni w.rc.toNat 1]
  s.issue sh fun uid u =>
    let rows := u.uget w.rc.toNat
    let cols := u.uget cReg
    let base := low20 (u.uget w.ra.toNat)
    let stride := u.uget w.rb.toNat
    match firstFault
      [failIf (decide (rows.toNat = 0 ∨ 32 < rows.toNat)) 0x0C rows,
       failIf (decide (cols.toNat = 0 ∨ cols.toNat % n ≠ 0 ∨ 1024 < cols.toNat)) 0x0C cols,
       failIf (decide (stride.toNat < cols.toNat * size)) 0x0C stride,
       failIf (base % 16 != 0) 0x04 (BitVec.ofNat 64 base),
       failIf (stride.toNat % 16 != 0 || decide (stride.toNat < 64 * size)) 0x04 stride,
       s.rangeFault u (rowRanges base stride (cols.toNat * size) (min rows.toNat 32)) true] with
    | some (c, v) => s.raise uid u sh.len c v
    | none => s.acceptMatrix uid u sh 0 (.hadamard base stride rows.toNat cols.toNat n fmt) none

end Sys2Proof.Machine
end

