-- ==== Sys2Proof/Machine/MatrixEngine.lean ====
section
/-!
DEFINITION. The matrix engine at work: the arithmetic of a step (R70 to R75, R322 to R331), tile moves and the Hadamard transform (R334, R335), and the matrix timeline (R321).
-/

namespace Sys2Proof.Machine

/-- An element of an operand, and whether it comes from a reserved byte 0x88 (R68, R74). -/
abbrev MElem := FVal × Bool

/-- R70: a value times a power of two. -/
def FVal.scaled (k : Int) : FVal → FVal
  | .fin n m e => .fin n m (e + k)
  | v => v

/-- R70, R322: element `k` of an operand row or column of 48 bytes in a format, with its scale word applied when it is scaled. -/
def melem (fmt : Nat) (scaled : Bool) (bytes sw k : Nat) : MElem :=
  let byte (i : Nat) : Nat := bytes / 256 ^ i % 256
  if fmt = 2 then
    let r := q4xElem (byte (k / 2)) sw (k % 2 == 1)
    if r.2 then (.nan false, true) else r
  else
    let v : FVal := match fmt with
      | 0 => Fmt.e4m3.value (byte k)
      | 1 => Fmt.e5m2.value (byte k)
      | 3 =>
        let x := toSigned 8 (byte k)
        .fin (decide (x < 0)) x.natAbs 0
      | 4 => .fin false (byte k) 0
      | 5 => Fmt.bf16.value (bytes / 65536 ^ k % 65536)
      | _ => Fmt.f16.value (bytes / 65536 ^ k % 65536)
    if !scaled then (v, false)
    else if q4xSe sw = 255 then (.nan false, false)
    else (v.scaled ((q4xSe sw : Int) - 127), false)

/-- Table 16.2: the elements of a K-slice. -/
def melems (fmt : Nat) (scaled : Bool) (bytes sw : Nat) : List MElem :=
  let n := if fmt = 2 then 96 else if fmt ≤ 4 then 48 else 24
  (List.range n).map (melem fmt scaled bytes sw)

/-- R71, R74: the sum of the products so far: an input NaN, an invalid product, infinities of each sign, and the exact finite part. -/
structure DotSum where
  nan : Bool
  bad : Bool
  pos : Bool
  neg : Bool
  mant : Int
  exp : Int
deriving DecidableEq, Repr

/-- An exact sum of two dyadic numbers. -/
def addDyadic (m1 : Int) (e1 : Int) (m2 : Int) (e2 : Int) : Int × Int :=
  if m2 = 0 then (m1, e1)
  else if m1 = 0 then (m2, e2)
  else
    let q := min e1 e2
    (m1 * (2 ^ (e1 - q).toNat : Nat) + m2 * (2 ^ (e2 - q).toNat : Nat), q)

/-- R71, R74: one product enters the sum. -/
def DotSum.add (s : DotSum) (x y : MElem) : DotSum :=
  let s1 := { s with bad := s.bad || x.2 || y.2 }
  if x.1.isNan || y.1.isNan then { s1 with nan := true }
  else match x.1.mul y.1 with
    | none => { s1 with nan := true, bad := true }
    | some (.inf true) => { s1 with neg := true }
    | some (.inf false) => { s1 with pos := true }
    | some (.fin n m e) =>
      let r := addDyadic s.mant s.exp (if n then -(m : Int) else (m : Int)) e
      { s1 with mant := r.1, exp := r.2 }
    | some (.nan _) => { s1 with nan := true }

/-- R71 to R74: the step sum of a row and a column, and whether it raises invalid. Invalid beside an input NaN: log entry 81. -/
def stepSum (row col : List MElem) : FVal × Bool :=
  let s := (row.zip col).foldl (fun (a : DotSum) (p : MElem × MElem) => a.add p.1 p.2) ⟨false, false, false, false, 0, 0⟩
  if s.nan then (.nan false, s.bad)
  else if s.pos && s.neg then (.nan false, true)
  else if s.pos || s.neg then (.inf s.neg, false)
  else (.fin (decide (s.mant < 0)) s.mant.natAbs s.exp, false)

/-- R71, R73, R74: the update of a binary32 accumulator; NaN inputs raise nothing. -/
def updF32 (acc : W32) (s : FVal) : W32 × Flags :=
  let a := match Fmt.f32.value acc.toNat with
    | .nan _ => FVal.nan false
    | v => v
  let r := Fmt.f32.addVal .rn a s
  (BitVec.ofNat 32 r.bits, r.flags)

/-- R71, R72: the update of an integer accumulator. -/
def updS32 (acc : W32) (s : FVal) (sat : Bool) : W32 × Flags :=
  match s with
  | .fin n m e =>
    let r := roundInt .rn n m e
    let x := acc.toInt + r.1
    (BitVec.ofInt 32 (if sat then clampInt true 32 x else x), if r.2 then Flags.inexact else Flags.none)
  | _ => (0x80000000, Flags.invalid)

/-- R325: the update of an element of an inactive row. -/
def updIdle (acc : W32) (s32 : Bool) : W32 := if s32 then acc else (updF32 acc (.fin false 0 0)).1

/-- Bytes of a cluster's SRAM as a number. -/
def State.spRows (s : State) (cluster base stride count bytes : Nat) : List Nat :=
  (List.range count).map fun i => s.sramBytes cluster (base + stride * i) bytes

/-- R71 to R75: the whole update of a tile by one step, and the flags of its active rows. -/
def stepTile (f : MFmt) (mask : W64) (tile : Nat) (rows : List (List MElem)) (cols : List (List MElem)) (acc : Sparse 32) : Sparse 32 × Flags :=
  (List.range 32).foldl (fun (a : Sparse 32 × Flags) (i : Nat) =>
    (List.range 64).foldl (fun (b : Sparse 32 × Flags) (j : Nat) =>
      let k := tile * 2048 + i * 64 + j
      let old := sget b.1 k
      if !mask.getLsbD i then (sset b.1 k (updIdle old (f.acc == 1)), b.2)
      else
        let s := stepSum (nth [] rows i) (nth [] cols j)
        let r := if f.acc = 1 then updS32 old s.1 f.sat else updF32 old s.1
        (sset b.1 k r.1, b.2 ||| r.2 ||| (if s.2 then Flags.invalid else Flags.none))) a) (acc, 0)

/-- The first command of a team that is not done. -/
def Team.matrixHead (t : Team) : Option MatrixCmd := t.queue.find? fun c => !c.done

/-- The command with a ticket, changed. -/
def Team.modCmd (t : Team) (ticket : Nat) (f : MatrixCmd → MatrixCmd) : Team :=
  { t with queue := t.queue.map fun c => if c.ticket = ticket then f c else c }

/-- R75: the flags of a command go to the group that issued it, which may see each of them from now on and sees them all once it has waited for the command. -/
def State.raiseFlags (s : State) (c : MatrixCmd) (fl : Flags) : State :=
  if fl = 0 then s else s.modUnit c.unit fun u => { u with mflags := u.mflags ++ [(c.ticket, fl)] }

/-- R329, R396: an uncorrectable error in an operand ends the team. -/
def State.matrixPoison (s : State) (t : Nat) (c : MatrixCmd) (a : Nat) : State :=
  s.terminate t (some c.unit) { kind := 4, cause := 0, access := 5, reason := 7, addr := BitVec.ofNat 64 a, pc := c.pc, lane := none }

/-- The first word of some ranges that is poisoned. -/
def State.firstPoison (s : State) (cluster : Nat) (rs : List (Nat × Nat)) : Option Nat :=
  rs.findSome? fun r => ((List.range ((r.2 + 3) / 4)).find? fun i => s.sramPoisoned cluster (r.1 + 4 * i) 4).map fun i => r.1 + 4 * i

/-- R384: whether a team's matrix engine goes on: it runs, or it has exited with commands still queued; a context that saves stops it at its next split point (R333), and no command that has not begun begins. -/
def State.engineRuns (s : State) (t : Team) (c : MatrixCmd) : Bool :=
  !t.terminated && t.life != .saved && t.life != .gated &&
  (match s.ctx? t.ctx with
   | some x => x.phase != .saving || (match c.kind with
     | .steps _ _ _ _ _ gran _ _ => c.next % 2 ^ gran != 0
     | _ => c.next != 0)
   | none => false)

/-- The banks that some ranges of addresses lie in. -/
def banksOf (rs : List (Nat × Nat)) : List Nat :=
  (rs.flatMap fun r => (List.range ((r.1 + r.2 - 1) / 1024 + 1 - r.1 / 1024)).map fun i => r.1 / 1024 + i).eraseDups

/-- Where the A operand of step `k` lies in scratchpad. -/
def ASource.addr (a : ASource) (k : Nat) : Nat :=
  match a with
  | .sp base inc => (base + inc * (k : Int)).toNat
  | _ => 0

/-- R327, R328: the scratchpad ranges of a command's next step: those of A, by active row, and the B tile. -/
def stepRanges (f : MFmt) (c : MatrixCmd) (src : ASource) (b : Nat) (incB : Int) : List (Nat × Nat) × (Nat × Nat) :=
  let at' := src.addr c.next
  let lanes := lanesOf (c.mask &&& maskBelow 32)
  ((match src with
    | .sp .. => (lanes.map fun l => (at' + 48 * l, 48)) ++ (if f.scaleA then lanes.map fun l => (at' + 1536 + 2 * l, 2) else [])
    | _ => []), (((b : Int) + incB * (c.next : Int)).toNat, f.bSpan))

/-- R329: a bank read whole, with its zero flag. -/
def State.readBank (s : State) (cluster : Nat) (c : MatrixCmd) (i : Nat) : MatrixCmd :=
  { c with
    seen := c.seen ++ [(i, s.zeroBanks.contains (cluster * 1024 + i))]
    got := ssetMany c.got (i * 1024) (sgetMany s.sram (sramKey cluster (i * 1024)) 1024)
    bad := c.bad ++ ((s.poisonSram.filter fun w => w / 256 == cluster * 1024 + i).map fun w => w * 4 - sramKey cluster 0) }

/-- R331: whether the banks of the B tile that a step has read all had their zero flag set. -/
def MatrixCmd.zeroSkip (c : MatrixCmd) (b : Nat × Nat) : Bool := (banksOf [b]).all fun i => c.seen.contains (i, true)

/-- The bytes that a step has read, as a number. -/
def MatrixCmd.bytesAt (c : MatrixCmd) (a n : Nat) : Nat := natOfBytes (sgetMany c.got a n)

/-- R322 to R331: what a step computes once its banks are read: the tile, the operand A and the flags. A zero-skip step takes B as zero. -/
def MatrixCmd.stepResult (c : MatrixCmd) (f : MFmt) (src : ASource) (latch : Option Latch) (b : Nat × Nat) (acc : Sparse 32) :
    Sparse 32 × Flags × Sparse 384 × Sparse 16 :=
  let lanes := lanesOf (c.mask &&& maskBelow 32)
  let ops : Sparse 384 × Sparse 16 := match src with
    | .regs steps scales => (nth [] steps c.next, scales)
    | .latch => match latch with
      | some l => (l.rows, l.scales)
      | none => ([], [])
    | .sp .. =>
      let at' := src.addr c.next
      (lanes.foldl (fun (m : Sparse 384) (l : Nat) => sset m l (BitVec.ofNat 384 (c.bytesAt (at' + 48 * l) 48))) [],
       if f.scaleA then lanes.foldl (fun (m : Sparse 16) (l : Nat) => sset m l (BitVec.ofNat 16 (c.bytesAt (at' + 1536 + 2 * l) 2))) [] else [])
  let bytesB (a n : Nat) : Nat := if c.zeroSkip b then 0 else c.bytesAt a n
  let rows := (List.range 32).map fun i => melems f.a f.scaleA (sget ops.1 i).toNat (sget ops.2 i).toNat
  let cols := (List.range 64).map fun j => melems f.b f.scaleB (bytesB (b.1 + 48 * j) 48) (if f.scaleB then bytesB (b.1 + 3072 + 2 * j) 2 else 0)
  let r := stepTile f c.mask c.tile rows cols acc
  (r.1, r.2, ops.1, ops.2)

/-- R329, R331: the first poisoned word that a step reads. -/
def MatrixCmd.stepPoison (c : MatrixCmd) (rs : List (Nat × Nat)) (b : Nat × Nat) : Option Nat :=
  (rs ++ (if c.zeroSkip b then [] else [b])).findSome? fun r => c.bad.find? fun w => decide (w < r.1 + r.2 ∧ r.1 < w + 4)

/-- R322 to R333: the command at the head of a team's engine context reads more banks of its next step, in any order, or, with the last of them, performs the step. -/
def matrixStep (t : Nat) (s : State) : Out :=
  match s.team? t with
  | none => .next s
  | some tm =>
    match tm.matrixHead with
    | none => .next s
    | some c =>
      match c.kind with
      | .steps src b incB fmt _ _ keep drop =>
        if !s.engineRuns tm c then .next s
        else
          let f := mfmt fmt
          let rs := stepRanges f c src b incB
          let left := (banksOf (rs.1 ++ [rs.2])).filter fun i => !(c.seen.any fun x => x.1 == i)
          let now := (if left.length ≤ 1 then left else rotated left (Config.free s.free 34).toNat).take (s.someOf left.length)
          let c1 := now.foldl (s.readBank (clusterOf tm.core)) c
          let s1 := if left.length ≤ 1 then s else s.fresh
          if now.length < left.length then .next (s1.modTeam t fun x => x.modCmd c.ticket fun _ => c1)
          else match c1.stepPoison rs.1 rs.2 with
          | some a => .next (s1.matrixPoison t c a)
          | none =>
            let r := c1.stepResult f src tm.latch rs.2 tm.acc
            let latch := if keep then some { unit := c.unit, mask := c.mask, rows := r.2.2.1, scales := r.2.2.2 : Latch } else if drop then none else tm.latch
            let onward (y : MatrixCmd) : MatrixCmd := { y with next := y.next + 1, seen := [], got := [], bad := [] }
            .next ((s1.modTeam t fun x => { x.modCmd c.ticket onward with acc := r.1, latch := latch }).raiseFlags c r.2.1)
      | _ => .next s

/-- R334: an element of a tile in a store format, with its flags. -/
def storeElem (fmt : Nat) (sat : Bool) (x : W32) : Nat × Flags :=
  let cvt (d : Fmt) : Nat × Flags :=
    let r := cvtFloat d .f32 .rn sat x.toNat
    (r.bits, r.flags)
  match fmt with
  | 0 => (x.toNat, 0)
  | 1 => cvt .bf16
  | 2 => cvt .f16
  | _ => cvt .e4m3

/-- R334, R75: the elements of the rows of a tile to be stored, and the flags of the active ones. -/
def storeElems (c : MatrixCmd) (acc : Sparse 32) (base stride rows fmt : Nat) (sat : Bool) : List (Nat × Nat × Nat) × Flags :=
  (List.range rows).foldl (fun (a : List (Nat × Nat × Nat) × Flags) (i : Nat) =>
    let xs := (sgetMany acc (c.tile * 2048 + 64 * i) 64).map (storeElem fmt sat)
    (a.1 ++ (List.range 64).map fun j => (base + i * stride + storeSize fmt * j, storeSize fmt, (nth (0, 0) xs j).1),
     if c.mask.getLsbD i then xs.foldl (fun (fl : Flags) x => fl ||| x.2) a.2 else a.2)) ([], 0)

/-- R353: a command writes some of its elements; `more` says that others follow those of `outs`. -/
def State.writeOuts (s : State) (t : Nat) (tm : Team) (c : MatrixCmd) (outs : List (Nat × Nat × Nat)) (next : Nat) (more : Bool) : State :=
  let n := s.someOf outs.length
  let s1 := (outs.take n).foldl (fun (x : State) w => x.sramWrite t (clusterOf tm.core) w.1 (bytesOf w.2.1 w.2.2)) (if outs.length ≤ 1 then s else s.fresh)
  s1.modTeam t fun x => x.modCmd c.ticket fun y => { y with next := next, outs := outs.drop n, finished := decide (outs.length ≤ n) && !more }

/-- R334: `macc.zero`, `macc.ld` and `macc.st` carried out: a load some rows at a time, a store some elements at a time. -/
def matrixMove (t : Nat) (s : State) : Out :=
  match s.team? t with
  | none => .next s
  | some tm =>
    match tm.matrixHead with
    | none => .next s
    | some c =>
      if !s.engineRuns tm c then .next s
      else
        let cl := clusterOf tm.core
        let lo := c.tile * 2048
        match c.kind with
        | .zero => .next (s.modTeam t fun x => { x with acc := sclear x.acc lo (lo + 2048) }.modCmd c.ticket fun y => { y with finished := true })
        | .load base stride rows =>
          let n := s.someOf (rows - c.next)
          let is := (List.range (min n (rows - c.next))).map fun i => c.next + i
          match s.firstPoison cl (is.map fun i => (base + i * stride.toNat, 256)) with
          | some a => .next (s.matrixPoison t c a)
          | none =>
            let acc0 := if c.next = 0 then sclear tm.acc lo (lo + 2048) else tm.acc
            let vals := is.flatMap fun i => (s.spRows cl (base + i * stride.toNat) 4 64 4).map (BitVec.ofNat 32)
            let s1 := if rows - c.next ≤ 1 then s else s.fresh
            .next (s1.modTeam t fun x => { x with acc := ssetMany acc0 (lo + 64 * c.next) vals }.modCmd c.ticket fun y =>
              { y with next := c.next + is.length, finished := decide (rows ≤ c.next + is.length) })
        | .store base stride rows fmt sat =>
          if c.next = 0 then
            let r := storeElems c tm.acc base stride.toNat rows fmt sat
            .next ((s.raiseFlags c r.2).writeOuts t tm c r.1 1 false)
          else .next (s.writeOuts t tm c c.outs 1 false)
        | _ => .next s

/-- R335: the constant of a Hadamard size, as an exact dyadic number. -/
def hadamardScale (n : Nat) : Nat × Int :=
  if n = 16 then (1, -2) else if n = 64 then (1, -3) else
    match Fmt.f32.value 0x3E3504F3 with
    | .fin _ m e => (m, e)
    | _ => (0, 0)

/-- R335: output `i` of a block. -/
def hadamardOut (fmt : Fmt) (xs : List FVal) (i : Nat) : Rounded :=
  let n := xs.length
  let neg (k : Nat) : Bool := popLow (BitVec.ofNat 32 (i &&& k)) 32 % 2 == 1
  let ys := (List.range n).map fun k =>
    let v := nth (.fin false 0 0) xs k
    if neg k then v.negate else v
  if xs.any FVal.isNan then ⟨fmt.nan, 0⟩
  else
    let pos := ys.any fun y => y == .inf false
    let inf := ys.any fun y => y == .inf true
    if pos && inf then fmt.invalidNan
    else if pos || inf then ⟨fmt.infBits inf, 0⟩
    else
      let sum := ys.foldl (fun (a : Int × Int) (y : FVal) => match y with
        | .fin b m e => addDyadic a.1 a.2 (if b then -(m : Int) else (m : Int)) e
        | _ => a) (0, 0)
      let c := hadamardScale n
      if sum.1 = 0 then ⟨0, 0⟩ else fmt.round .rn false (decide (sum.1 < 0)) ⟨sum.1.natAbs * c.1, sum.2 + c.2, false⟩

/-- R335: a block read whole and transformed: its elements to be written, and their flags. -/
def State.hadamardBlock (s : State) (cluster base n size : Nat) (fmt : Fmt) : List (Nat × Nat × Nat) × Flags :=
  let xs := (s.spRows cluster base size n size).map fmt.value
  let rs := (List.range n).map (hadamardOut fmt xs)
  ((List.range n).map fun i => (base + i * size, size, (nth ⟨0, 0⟩ rs i).bits), rs.foldl (fun (fl : Flags) (r : Rounded) => fl ||| r.flags) 0)

/-- R335: `mhad` carried out, one block after another. -/
def matrixHadamard (t : Nat) (s : State) : Out :=
  match s.team? t with
  | none => .next s
  | some tm =>
    match tm.matrixHead with
    | none => .next s
    | some c =>
      match c.kind with
      | .hadamard base stride rows cols n fmt =>
        if !s.engineRuns tm c then .next s
        else
          let cl := clusterOf tm.core
          let size := if fmt = 0 then 4 else 2
          let f : Fmt := if fmt = 0 then .f32 else .bf16
          let blocks := rows * (cols / n)
          if !c.outs.isEmpty then .next (s.writeOuts t tm c c.outs c.next (decide (c.next < blocks)))
          else
            let row := c.next / (cols / n)
            let at' := base + row * stride.toNat + c.next % (cols / n) * n * size
            match s.firstPoison cl [(at', n * size)] with
            | some a => .next (s.matrixPoison t c a)
            | none =>
              let r := s.hadamardBlock cl at' n size f
              .next ((if c.mask.getLsbD row then s.raiseFlags c r.2 else s).writeOuts t tm c r.1 (c.next + 1) (decide (c.next + 1 < blocks)))
      | _ => .next s

/-- R321, R238: the matrix timeline counts the team's next finished command. -/
def matrixTimeline (t : Nat) (s : State) : Out :=
  match s.team? t with
  | none => .next s
  | some tm =>
    match tm.queue with
    | [] => .next s
    | c :: rest =>
      if !c.done || tm.terminated || tm.life == .saved || tm.life == .gated then .next s
      else .next ((s.modTeam t fun x => { x with queue := rest }).advanceHeader (clusterOf tm.core) tm.base 0)

/-- R322. Matrix engine performs one step on an accumulator tile. -/
def execMatrixStep (t : Nat) (s : State) : Out := matrixStep t s

/-- R334. Engine performs macc.zero, macc.ld or macc.st. -/
def execMatrixTileMove (t : Nat) (s : State) : Out := matrixMove t s

/-- R335. Engine performs an mhad transform. -/
def execHadamardTransform (t : Nat) (s : State) : Out := matrixHadamard t s

/-- R321. Team's matrix timeline advances once per finished command. -/
def execMatrixTimelineAdvance (t : Nat) (s : State) : Out := matrixTimeline t s

end Sys2Proof.Machine
end

