-- ==== Sys2Proof/Machine/Contexts.lean ====
section
/-!
DEFINITION. Contexts: the context kill (R382), pre-emption and restore (R383 to R389), the watchdog (R391), power gating and core reset (R392 to R394), the doorbell (R422 to R425) and fault responses (R378).
-/

namespace Sys2Proof.Machine

/-- The teams of a context, by number. -/
def State.ctxTeams (s : State) (slot : Nat) : List Nat :=
  (List.range s.teams.length).filter fun i => (s.team? i).elim false fun t => t.ctx == slot

/-- Bytes of an image that the spec gives, and `n` bytes that it leaves open. -/
def known (bs : List Byte) : List (Option Byte) := bs.map some

def openBytes (n : Nat) : List (Option Byte) := List.replicate n none

/-- R385: an image written in pieces of 8 bytes; open bytes are free values, and a piece that does not translate is passed over. -/
def State.writeImage (s : State) (asid : Nat) : Nat → W64 → List (Option Byte) → State
  | 0, _, _ => s.fresh
  | n + 1, a, bs =>
    let loose := Config.free s.free (2 ^ 20 + a.toNat / 8)
    let piece := (List.range 8).map fun j => (nth none bs j).getD (loose.extractLsb' (8 * j) 8)
    let s1 := match s.agentWrite asid a 8 (BitVec.ofNat 128 (natOfBytes piece)) with
      | .ok s2 => s2
      | .error _ => s
    s1.writeImage asid n (a + 8) (bs.drop 8)

/-- Table 24.6: a kill stops a save, and what the save area then holds is open (log entry 111). -/
def State.stopSave (s : State) (slot : Nat) : State :=
  match s.ctx? slot with
  | some c => if c.phase = .saving then s.writeImage c.entry.asid (s.saveSize slot / 8) c.saveBase (openBytes (s.saveSize slot)) else s
  | none => s

/-- R382: every team of a context ends, every live grid's completion counter advances with poison, and the context is killed. -/
def State.killContext (s : State) (slot : Nat) : State :=
  let s1 := (s.ctxTeams slot).foldl State.endTeam (s.stopSave slot)
  let live := (List.range s1.grids.length).filter fun i => (nth? s1.grids i).elim false fun g => g.ctx == slot && g.phase != .finished
  let s2 := live.foldl (fun (a : State) (i : Nat) => a.completeGrid i true true) s1
  (s2.modCtx slot fun c => { c with phase := .killed }).putStatus slot 8 4 3

/-- R308: whether a context's spill ring holds entries of some core's copy queue. -/
def State.spills (s : State) (slot : Nat) : Bool := decide (0 < s.spilled slot)

/-- R308: the first page of a context's spill ring that does not translate for a reason. -/
def State.spillPage (s : State) (c : Context) (reason : Nat) : Option W64 :=
  ((List.range (32 * 2 ^ c.entry.spillLog / 65536 + 1)).map fun i => c.entry.spillBase + BitVec.ofNat 64 (65536 * i)).find? fun a =>
    match s.translate c.entry.asid (va57 a) true with
    | .error r => r == reason
    | .ok _ => false

/-- R308, R382: a fault on the spill ring stops the context; reason 7 is an uncorrectable error. -/
def spillFault (slot reason : Nat) (s : State) : Out :=
  match s.ctx? slot with
  | none => .next s
  | some c =>
    let at' := if reason = 7 then some c.entry.spillBase else s.spillPage c reason
    match s.spills slot, at' with
    | true, some a =>
      let f : FaultInfo := { kind := 7, cause := 0, access := if reason = 7 then 5 else 6, reason := reason, addr := a, pc := 0, lane := none }
      .next ((s.postRecord slot none none f).killContext slot)
    | _, _ => .next s

/-- Table 21.8: whether a matrix command stands at a split point (R333). -/
def MatrixCmd.atSplit (c : MatrixCmd) : Bool :=
  match c.kind with
  | .steps _ _ _ _ _ gran _ _ => c.next % 2 ^ gran == 0
  | _ => c.next == 0

/-- Table 21.8: whether a unit is not inside an `lq.push`, or stands in it on a fault that is cancelled. -/
def Unit.outOfPush (u : Unit) : Bool :=
  u.push.isNone || (match u.wait with
    | .none => true
    | .parked .. => true
    | _ => false)

/-- Table 21.8: whether every activity of a team is in the state in which it is saved. -/
def State.atSavePoint (s : State) (ti : Nat) (t : Team) : Bool :=
  let us := s.teamUnits ti
  let uids := us.map Prod.fst
  (us.all fun x => x.2.ops.isEmpty && x.2.reqs.isEmpty && x.2.spq.isEmpty && x.2.vars.isEmpty && x.2.outOfPush && (x.2.region.isNone || x.2.push.isSome)) &&
  (s.copies.all fun c => c.team != ti) && (s.gathers.all fun c => c.team != ti) &&
  (s.batches.all fun b => !b.closed || !uids.contains (b.id / 2 ^ 32)) &&
  (s.signals.all fun g => g.team != ti || (match g.kind with
    | .update .. => true
    | _ => false)) &&
  (t.queue.all fun c => !c.done) && (t.matrixHead.elim true MatrixCmd.atSplit) && s.banksQuiet ti t

/-- The part of a cluster's SRAM that lies in a team's scratchpad and FIFO banks, by cluster address. -/
def Team.holds (t : Team) (addr : Nat) : Bool := t.banks.any fun b => b.idx == addr / 1024 && b.mode != .cache

def ownKeys {w : Nat} (base per : Nat) (t : Team) (m : Sparse w) : Sparse w :=
  (m.filter fun x => decide (base ≤ x.1) && t.holds ((x.1 - base) * per)).map fun x => (x.1 - base, x.2)

/-- R385 step 2: what a team's banks hold at the switch to saved. -/
def State.snapshot (s : State) (ti : Nat) (t : Team) (gated : Bool) (image : Option W64) : SavedTeam :=
  let cl := clusterOf t.core
  { team := ti, ctx := t.ctx, cluster := cl, gated := gated, record := t, sram := ownKeys (sramKey cl 0) 1 t (s.sram.filter fun x => decide (x.1 < sramKey (cl + 1) 0))
    zeroFlags := (t.banks.filter fun b => b.mode != .cache && s.zeroBanks.contains (cl * 1024 + b.idx)).map fun b => b.idx
    stamps := ownKeys (sramKey cl 0 / 8) 8 t (s.spStamp.filter fun x => decide (x.1 < sramKey (cl + 1) 0 / 8))
    poison := (s.poisonSram.filter fun w => decide (sramKey cl 0 / 4 ≤ w ∧ w < sramKey (cl + 1) 0 / 4) && t.holds ((w - sramKey cl 0 / 4) * 4)).map
      fun w => w - sramKey cl 0 / 4
    image := image }

/-- R385 step 3: the lines of a context that any L1 owns are recalled, and its other copies on a core dropped. Lines under another ASID: log entry 110. -/
def State.recallContext (s : State) (asid core : Nat) : State :=
  let owned := s.l1.filter fun l => l.asid == asid && l.owned
  let s1 := owned.foldl (fun (a : State) (l : L1Line) => a.lineRecall l.asid l.line) s
  let rest := s1.l1.filter fun l => l.asid == asid && l.core == core
  rest.foldl (fun (a : State) (l : L1Line) => a.dropL1 l.core l.asid l.line) s1

/-- Table 21.8: the faults of a team's units that await a response are cancelled. -/
def State.cancelFaults (s : State) (ti : Nat) : State :=
  let uids := (s.teamUnits ti).map Prod.fst
  let wake (u : Unit) : Unit :=
    match u.wait with
    | .parked _ _ _ => { u with wait := .none }
    | _ => u
  { s with
    contexts := s.contexts.map fun (c : Context) => { c with awaiting := c.awaiting.filter fun a => !(uids.contains a.2) }
    units := s.units.map fun (u : Unit) => if u.team = ti then wake u else u }

/-- R329: a matrix command whose next step had begun to read its banks reads them anew. -/
def MatrixCmd.unread (c : MatrixCmd) : MatrixCmd := { c with seen := [], got := [], bad := [] }

/-- R262, R385: a team at its save point flushes its publisher buffers, is saved and gives up its banks. -/
def State.saveTeam (s0 : State) (ti : Nat) (t : Team) (asid : Nat) (gated : Bool) (image : Option W64) : State :=
  let s := s0.flushPubs ti
  let s1 := { s with saved := s.saved ++ [s.snapshot ti t gated image] }
  let s2 := ((s1.cancelFaults ti).recallContext asid t.core).releaseBanks t
  s2.modTeam ti fun x => { x with life := if gated then .gated else .saved, banks := [], queue := x.queue.map MatrixCmd.unread, stallSince := none }

/-- Table 21.9: the register image of a group, one register after another, lane by lane. -/
def Unit.registerImage (u : Unit) : List (Option Byte) :=
  let v := (u.landAt u.step).v
  ((List.range 128).filter fun r => u.dirty.getLsbD r).flatMap fun r => known ((sgetMany v (r * 64) u.width).flatMap fun w => bytesOf 4 w.toNat)

/-- Table 21.9: the new value of a register that stands in its window: 4 bytes a lane for a vector register, of which lanes that it does not write are open; 8 bytes for a uniform register, or for a predicate, whose other lanes keep their bit. -/
def Unit.pendingValue (u : Unit) (e : PendWrite) : List (Option Byte) :=
  let val (l : Nat) : Option W64 := (e.vals.find? fun x => x.1 == l).map Prod.snd
  match e.kind with
  | .v => (List.range u.width).flatMap fun l => (val l).elim (openBytes 4) fun x => known (bytesOf 4 x.toNat)
  | .u => (val 0).elim (openBytes 8) fun x => known (bytesOf 8 x.toNat)
  | .p => known (bytesOf 8 ((List.range 64).foldl (fun (n : Nat) (l : Nat) =>
      n + (if (val l).elim ((u.pmask e.idx).getLsbD l) fun x => x.getLsbD 0 then 2 ^ l else 0)) 0))
  | .fl => []

/-- Table 21.9: the pending-write data of a group, one head for each write of a register. -/
def Unit.pendingImage (u : Unit) : List (Option Byte) :=
  let v := u.landAt u.step
  v.win.flatMap v.pendingValue

/-- Table 21.10: the 64 bytes that describe a matrix command; what the table does not say of a command is open. -/
def MatrixCmd.record (c : MatrixCmd) : List (Option Byte) :=
  let int (x : Int) : List (Option Byte) := known (bytesOf 8 (BitVec.ofInt 64 x).toNat)
  let tail := known (bytesOf 4 c.mask.toNat ++ [0, 0])
  known (bytesOf 8 c.word.toNat ++ bytesOf 8 c.ticket) ++
    (match c.kind with
     | .steps src b incB fmt n _ keep drop =>
       let a := match src with
         | .sp base inc => int (base + inc * (c.next : Int)) ++ int ((b : Int) + incB * (c.next : Int)) ++ int inc
         | .regs .. => int 0 ++ int ((b : Int) + incB * (c.next : Int)) ++ openBytes 8
         | .latch => openBytes 8 ++ int ((b : Int) + incB * (c.next : Int)) ++ openBytes 8
       known (bytesOf 4 (n - c.next) ++ bytesOf 4 c.next) ++ a ++ (if keep || drop then openBytes 8 else int incB) ++ known (bytesOf 2 fmt.toNat)
     | _ => openBytes 4 ++ known (bytesOf 4 0) ++ openBytes 34) ++ tail

/-- Table 21.10: the A rows of the steps still to run, in blocks of 32 rows and 32 scale words. -/
def MatrixCmd.rowImage (c : MatrixCmd) : List (Option Byte) :=
  match c.kind with
  | .steps (.regs steps scales) _ _ _ _ _ _ _ =>
    (steps.drop c.next).flatMap fun b =>
      known (((List.range 32).flatMap fun l => bytesOf 48 (sget b l).toNat) ++ (List.range 32).flatMap fun l => bytesOf 2 (sget scales l).toNat)
  | _ => []

/-- R333, R387: the command that stands at a split point inside it. -/
def Team.stopped (t : Team) : Option MatrixCmd := t.matrixHead.bind fun c => if 0 < c.next then some c else none

/-- Table 21.9: the matrix queue image: the A rows of the stopped command, then the queued commands. -/
def Team.queueImage (t : Team) : List (Option Byte) :=
  (t.stopped.elim [] MatrixCmd.rowImage) ++ (t.queue.filter fun c => !c.done && t.stopped != some c).flatMap fun c => c.record ++ c.rowImage

/-- Table 21.9: the team record, of which the place of the progress record is open. -/
def State.teamRecord (s : State) (t : Team) : List (Option Byte) :=
  match t.stopped with
  | none => openBytes 8192
  | some c =>
    let k := (Config.free s.free 33).toNat % 8129
    openBytes k ++ c.record ++ openBytes (8128 - k)

/-- Table 21.9: the sections of a saved team's image before the images of its banks. -/
def State.imageHead (s : State) (x : SavedTeam) : List (Option Byte) :=
  let us := (s.teamUnits x.team).map Prod.snd
  let gs := us.filter fun u => u.frag.isNone
  let out := ((us.filter fun u => u.live).filterMap fun u => u.frag.map fun f => (f.parent, f.ctr)).eraseDups
  s.teamRecord x.record ++ (gs.flatMap fun _ => openBytes 2048) ++ gs.flatMap Unit.registerImage ++ gs.flatMap Unit.pendingImage ++
    out.flatMap fun _ => openBytes 4096

/-- Table 21.9: the image of a saved team in order from its base: its records, the images of its scratchpad and FIFO banks, its accumulator tiles, row by row, and its matrix queue. -/
def State.imageBytes (s : State) (x : SavedTeam) : List (Option Byte) :=
  s.imageHead x ++ ((x.record.banks.filter fun b => b.mode != .cache).flatMap fun b => known (sgetMany x.sram (b.idx * 1024) 1024)) ++
    ((List.range x.record.desc.accTiles).flatMap fun a => known ((sgetMany x.record.acc (a * 2048) 2048).flatMap fun w => bytesOf 4 w.toNat)) ++
    x.record.queueImage

/-- R385, R386, R431: a saved team's image goes to the next place in the save area, and its offset into the table. -/
def State.putImage (s : State) (c : Context) (x : SavedTeam) : State :=
  let image := s.imageBytes x
  let s1 := s.writeImage c.entry.asid ((image.length + 7) / 8) (c.saveBase + BitVec.ofNat 64 c.saveNext) image
  let s2 := match s1.agentWrite c.entry.asid (c.saveBase + BitVec.ofNat 64 (8 * c.images)) 8 (BitVec.ofNat 128 c.saveNext) with
    | .ok y => y
    | .error _ => s1
  s2.modCtx c.slot fun y => { y with saveNext := c.saveNext + x.record.desc.imageBound, images := c.images + 1 }

/-- R392: where the images of a team's banks begin in the save area. -/
def State.imageBanks (s : State) (c : Context) (x : SavedTeam) : W64 := c.saveBase + BitVec.ofNat 64 (c.saveNext + (s.imageHead x).length)

/-- R384 to R386: a team of a context that saves reaches its save point and is saved; one that is power-gated is saved already. -/
def teamSave (ti : Nat) (s : State) : Out :=
  match s.team? ti with
  | none => .next s
  | some t =>
    match s.ctx? t.ctx with
    | none => .next s
    | some c =>
      if c.phase ≠ .saving ∨ t.terminated then .next s
      else match t.life with
      | .running =>
        if s.atSavePoint ti t then
          let x := s.snapshot ti t false none
          .next (((s.putImage c x).saveTeam ti t c.entry.asid false (some (s.imageBanks c x))).saveDone c.slot)
        else .next s
      | .gated =>
        match s.saved.find? fun x => x.team == ti with
        | none => .next s
        | some x =>
          let s1 := (s.putImage c x).modTeam ti fun y => { y with life := .saved }
          let named (y : SavedTeam) : SavedTeam := if y.team = ti then { y with gated := false, image := some (s.imageBanks c x) } else y
          .next ({ s1 with saved := s1.saved.map named }.saveDone c.slot)
      | _ => .next s

/-- R388: whether a core has the banks, tiles and registers that a saved team left. -/
def State.roomToRestore (s : State) (x : SavedTeam) : Bool :=
  let core := x.record.core
  ((s.coreTeams core).foldl (fun (n : Need) (t : Team) => n.add t.desc.need) x.record.desc.need).within { coreLimit with banks := 384 * 2 } &&
  x.record.banks.all fun b => (s.freeBanks core).contains b.idx

/-- R388, R392: a saved team's banks hold its image again; a zero flag is set exactly when the bank's bytes are all zero. -/
def State.restoreBanks (s : State) (x : SavedTeam) : State :=
  let cl := x.cluster
  let mine := x.record.banks.filter fun b => b.mode != .cache
  let s1 := mine.foldl (fun (a : State) (b : Bank) => a.sramZero cl b.idx) (s.flushBanks x.record.core x.record.banks)
  { s1 with
    sram := x.sram.foldl (fun (m : Sparse 8) (y : Nat × Byte) => sset m (sramKey cl y.1) y.2) s1.sram
    zeroBanks := s1.zeroBanks.filter fun z => !(x.sram.any fun y => bankKey cl y.1 == z)
    spStamp := x.stamps.foldl (fun (m : Sparse 64) (y : Nat × W64) => sset m (sramKey cl 0 / 8 + y.1) y.2) s1.spStamp
    poisonSram := s1.poisonSram ++ x.poison.map fun w => sramKey cl 0 / 4 + w }

/-- R388: a byte of a save area as it stands now; none where it does not translate or is poisoned. What another device returns is open. -/
def State.imageByte (s : State) (asid : Nat) (a : W64) : Option Byte :=
  if !canonical a then none
  else match s.locate asid (va57 a) false with
    | .error _ => none
    | .ok x =>
      if x.attr.device.isSome then some ((Config.free s.free (2 ^ 20 + a.toNat / 8)).extractLsb' (8 * (a.toNat % 8)) 8)
      else if s.poisoned x 1 then none
      else some (s.codeNow x 0)

/-- R388: `n` bytes of a team's image at an offset from the images of its banks, above what the part kept where the area gives none. -/
def State.imageNat (s : State) (asid : Nat) (home : W64) (off : Int) (n old : Nat) : Nat :=
  natOfBytes ((List.range n).map fun (j : Nat) => (s.imageByte asid (home + BitVec.ofInt 64 (off + (j : Int)))).getD (BitVec.ofNat 8 (old / 256 ^ j)))

/-- Table 21.9: a group's registers and pending writes as an image gives them; `regs` and `pend` are where its parts begin. -/
def Unit.readBack (u : Unit) (get : Int → Nat → Nat → Nat) (regs pend : Int) : Unit :=
  let v := u.landAt u.step
  let w := v.width
  let word (m : Sparse 32) (r k l : Nat) : Sparse 32 := sset m (r * 64 + l) (BitVec.ofNat 32 (get (regs + ((k * w + l) * 4 : Nat)) 4 (sget v.v (r * 64 + l)).toNat))
  let rs := (List.range 128).filter fun r => u.dirty.getLsbD r
  let write (at' : Int) (e : PendWrite) : PendWrite :=
    { e with vals := e.vals.map fun x => match e.kind with
        | .v => (x.1, BitVec.ofNat 64 (get (at' + (x.1 * 4 : Nat)) 4 x.2.toNat))
        | .u => (x.1, BitVec.ofNat 64 (get at' 8 x.2.toNat))
        | .p => (x.1, BitVec.ofNat 64 (get at' 8 (x.2.toNat % 2 * 2 ^ x.1) / 2 ^ x.1 % 2))
        | .fl => x }
  { v with
    v := rs.zipIdx.foldl (fun (m : Sparse 32) (x : Nat × Nat) => (List.range w).foldl (fun (a : Sparse 32) (l : Nat) => word a x.1 x.2 l) m) v.v
    win := (v.win.foldl (fun (a : Int × List PendWrite) (e : PendWrite) => (a.1 + ((v.pendingValue e).length : Nat), a.2 ++ [write a.1 e])) (pend, [])).2 }

/-- R388: the groups of a saved team take their registers and pending writes from its image. -/
def State.readBackUnits (s : State) (x : SavedTeam) (get : Int → Nat → Nat → Nat) : State :=
  let gs := (s.teamUnits x.team).filter fun y => y.2.frag.isNone
  let size (n : Int) (f : Unit → List (Option Byte)) (us : List (Nat × Unit)) : Int := us.foldl (fun (a : Int) (y : Nat × Unit) => a + ((f y.2).length : Nat)) n
  let regs : Int := (8192 + 2048 * gs.length : Nat) - (((s.imageHead x).length : Nat) : Int)
  let pend := size regs Unit.registerImage gs
  (gs.zipIdx).foldl (fun (a : State) (y : (Nat × Unit) × Nat) =>
    a.setUnit y.1.1 (y.1.2.readBack get (size regs Unit.registerImage (gs.take y.2)) (size pend Unit.pendingImage (gs.take y.2)))) s

/-- Table 21.10: the A rows of a command as an image gives them. -/
def MatrixCmd.readBack (c : MatrixCmd) (get : Int → Nat → Nat → Nat) (at' : Int) : MatrixCmd :=
  match c.kind with
  | .steps (.regs steps scales) b incB fmt n gran keep drop =>
    let row (j l : Nat) (m : Sparse 384) : Sparse 384 := sset m l (BitVec.ofNat 384 (get (at' + (1600 * j + 48 * l : Nat)) 48 (sget m l).toNat))
    let rows := ((steps.drop c.next).zipIdx).map fun x => (List.range 32).foldl (fun (m : Sparse 384) (l : Nat) => row x.2 l m) x.1
    let scale (m : Sparse 16) (l : Nat) : Sparse 16 := sset m l (BitVec.ofNat 16 (get (at' + (1536 + 2 * l : Nat)) 2 (sget m l).toNat))
    { c with kind := .steps (.regs (steps.take c.next ++ rows) (if rows.isEmpty then scales else (List.range 32).foldl scale scales)) b incB fmt n gran keep drop }
  | _ => c

/-- Table 21.9: a team's tiles and the A rows of its commands likewise; its tiles begin at `acc`. -/
def Team.readBack (t : Team) (get : Int → Nat → Nat → Nat) (acc : Int) : Team :=
  let word (m : Sparse 32) (k : Nat) : Sparse 32 := sset m k (BitVec.ofNat 32 (get (acc + (4 * k : Nat)) 4 (sget m k).toNat))
  let queue : Int := acc + (8192 * t.desc.accTiles : Nat)
  let next (a : Int × List MatrixCmd) (c : MatrixCmd) : Int × List MatrixCmd :=
    if c.done then (a.1, a.2 ++ [c])
    else if t.stopped = some c then (a.1, a.2 ++ [c.readBack get queue])
    else (a.1 + ((64 + c.rowImage.length : Nat) : Int), a.2 ++ [c.readBack get (a.1 + 64)])
  { t with
    acc := (List.range (t.desc.accTiles * 2048)).foldl word t.acc
    queue := (t.queue.foldl next (queue + (((t.stopped.elim [] MatrixCmd.rowImage).length : Nat) : Int), [])).2 }

/-- R388: the bytes of a saved team's banks as its image gives them. -/
def SavedTeam.readBack (x : SavedTeam) (get : Int → Nat → Nat → Nat) : SavedTeam :=
  let put (m : Sparse 8) (b k j : Nat) : Sparse 8 := sset m (b * 1024 + j) (BitVec.ofNat 8 (get ((k * 1024 + j : Nat) : Int) 1 (sget m (b * 1024 + j)).toNat))
  let mine := x.record.banks.filter fun b => b.mode != .cache
  { x with sram := mine.zipIdx.foldl (fun (m : Sparse 8) (b : Bank × Nat) => (List.range 1024).foldl (fun (a : Sparse 8) (j : Nat) => put a b.1.idx b.2 j) m) x.sram }

/-- R388, Table 21.9: what a restore takes from the save area: registers, pending writes, banks, tiles and A rows. A power-gated team has no image there; what the table lays out nowhere, the part keeps (log entry 22). -/
def State.readBack (s : State) (x : SavedTeam) : State × SavedTeam :=
  match x.image, s.ctx? x.ctx with
  | some home, some c =>
    let get := s.imageNat c.entry.asid home
    let tiles : Int := (1024 * (x.record.banks.filter fun b => b.mode != .cache).length : Nat)
    (((s.readBackUnits x get).modTeam x.team fun t => t.readBack get tiles).fresh, x.readBack get)
  | _, _ => (s, x)

/-- R388: a saved team of a running context is restored onto its core; each parked group tests its wait again when it issues. -/
def restoreTeam (ti : Nat) (gated : Bool) (s : State) : Out :=
  match s.team? ti, s.saved.find? fun x => x.team == ti with
  | some t, some x =>
    let running := (s.ctx? t.ctx).elim false fun c => c.phase == .running
    if !running || t.life != .gated || x.gated != gated || t.terminated || s.phase != .running || !s.roomToRestore x then .next s
    else
      let r := s.readBack x
      let s1 := { r.1.restoreBanks r.2 with saved := s.saved.filter fun y => y.team != ti }
      .next (s1.modTeam ti fun y => { y with life := .running, banks := x.record.banks, stallSince := none })
  | _, _ => .next s

/-- R391: the waits in which a group counts as stalled. -/
def Wait.stalls (w : Wait) : Bool :=
  match w with
  | .barrier _ => true
  | .stage _ => true
  | .timeline _ => true
  | .join => true
  | .msgWait _ => true
  | .lqPush => true
  | _ => false

/-- R391: the address a parked group waits at; a join waits at its join PC and an `lq.push` at its queue's tail. -/
def State.waitAddress (s : State) (u : Unit) : W64 :=
  match u.wait with
  | .barrier a => BitVec.ofNat 64 a
  | .stage a => BitVec.ofNat 64 a
  | .timeline a => a
  | .msgWait a => a
  | .join => match u.levels.head? with
    | some l => l.joinPc.signExtend 64
    | none => 0
  | .lqPush => match u.push, s.unitCtx u with
    | some p, some c => c.queueVa p.queue + 8
    | _, _ => 0
  | _ => 0

/-- R391: the watchdog kills the context of a team; the record names its lowest-numbered parked group. -/
def State.watchdogKill (s : State) (ti : Nat) (t : Team) (reason : Nat) : State :=
  let first := (s.teamUnits ti).find? fun x => x.2.live && x.2.frag.isNone && x.2.wait.stalls
  let addr := first.elim 0 fun x => s.waitAddress x.2
  let pc := first.elim 0 fun x => x.2.pc.signExtend 64
  let f : FaultInfo := { kind := 8, cause := 0, access := 0, reason := reason, addr := addr, pc := pc, lane := none }
  (s.postRecord t.ctx (some ti) (first.map Prod.fst) f).killContext t.ctx

/-- R391 reason 0: a team has missed its save point. -/
def watchdogPreempt (ti : Nat) (s : State) : Out :=
  match s.team? ti with
  | none => .next s
  | some t =>
    match s.ctx? t.ctx with
    | none => .next s
    | some c =>
      if c.phase = .saving ∧ t.liveAlloc ∧ !t.terminated ∧ c.deadline ≤ s.now ∧ !s.atSavePoint ti t then .next (s.watchdogKill ti t 0) else .next s

/-- R391: whether a team is stalled: each group and thread ended or parked, one at least parked, and no engine command in progress. -/
def State.stalled (s : State) (ti : Nat) (t : Team) : Bool :=
  let us := s.teamUnits ti
  (us.all fun x => !x.2.live || x.2.wait.stalls || (x.2.frag.elim false fun f => f.joined || f.exited)) && (us.any fun x => x.2.live && x.2.wait.stalls) &&
  t.queue.isEmpty && (s.copies.all fun c => c.team != ti) && (s.gathers.all fun c => c.team != ti)

/-- R391, R393: whether a team can be stalled: its groups are on a core, or power-gated, which affects only time. -/
def State.inPlace (s : State) (ti : Nat) (t : Team) : Bool :=
  t.life == .running || (t.life == .gated && s.saved.any fun x => x.team == ti && x.gated)

/-- R391 reason 1: a stall is first seen, and, once it has lasted `prelim` µs without a break, the context is killed. A unit's issue step shows that it went on; a unit whose condition holds is not parked, which `State.agentStep` sees before this step. -/
def watchdogStall (ti : Nat) (s : State) : Out :=
  match s.team? ti with
  | none => .next s
  | some t =>
    match s.ctx? t.ctx with
    | none => .next s
    | some c =>
      let steps := (s.teamUnits ti).foldl (fun (n : Nat) (x : Nat × Unit) => n + x.2.step) 0
      if c.phase ≠ .running ∨ !s.inPlace ti t ∨ t.terminated ∨ !s.stalled ti t then .next s
      else match t.stallSince with
      | some (since, n) =>
        if n ≠ steps then .next (s.modTeam ti fun x => { x with stallSince := some (s.now, steps) })
        else if since + c.entry.prelim * 1000 ≤ s.now then .next (s.watchdogKill ti t 1)
        else .next s
      | none => .next (s.modTeam ti fun x => { x with stallSince := some (s.now, steps) })

/-- R393: firmware power-gates a wide core whose teams all wait. -/
def powerGate (core : Nat) (s : State) : Out :=
  let here := (List.range s.teams.length).filterMap fun i => (s.team? i).bind fun t => if t.core = core ∧ t.liveAlloc then some (i, t) else none
  let waits (x : Nat × Team) : Bool := x.2.life == .running && !x.2.terminated && s.atSavePoint x.1 x.2 &&
    ((s.teamUnits x.1).all fun y => !y.2.live || y.2.wait.stalls || (y.2.frag.elim false fun f => f.joined || f.exited)) &&
    ((s.ctx? x.2.ctx).elim false fun c => c.phase == .running)
  if here.isEmpty || !(here.all waits) then .next s
  else .next (here.foldl (fun (a : State) (x : Nat × Team) => a.saveTeam x.1 x.2 ((s.ctx? x.2.ctx).elim 0 fun c => c.entry.asid) true none) s)

/-- R394: whether a pending scratchpad access has a lane in banks that are to go, and such an access without those lanes. -/
def SpAcc.reaches (a : SpAcc) (cl : Nat) (banks : List Bank) : Bool := a.cluster == cl && a.lanes.any fun l => banks.any fun b => b.idx == l.addr / 1024

def SpAcc.without (a : SpAcc) (cl : Nat) (banks : List Bank) : SpAcc :=
  if a.cluster = cl then { a with lanes := a.lanes.filter fun l => !(banks.any fun b => b.idx == l.addr / 1024) } else a

/-- R193, R394: the accesses of other teams that have passed their checks there are performed before the banks go. -/
def State.quiesce (cl : Nat) (banks : List Bank) : Nat → State → State
  | 0, s => s
  | n + 1, s =>
    let due := (List.range s.units.length).filter fun i => (s.unit? i).elim false fun u => u.spq.any fun a => a.reaches cl banks
    if due.isEmpty then s
    else State.quiesce cl banks n ((List.range s.units.length).foldl (fun (a : State) (i : Nat) => match performSp i a with
      | .next t => t
      | _ => a) s)

/-- R394: the banks and tiles of a team that has ended with its core are gone at once, and what its units still had to do there with them. -/
def State.loseBanks (s : State) (ti : Nat) (t : Team) : State :=
  let cl := clusterOf t.core
  let drop (u : Unit) : Unit := if u.team = ti then { u with spq := (u.spq.map fun a => a.without cl t.banks).filter fun a => !a.lanes.isEmpty } else u
  let s1 := { s with units := s.units.map drop }
  let parts (u : Unit) : Nat := u.spq.foldl (fun (n : Nat) (a : SpAcc) => n + a.size * a.lanes.length) 0
  let s2 := if s1.banksQuiet ti t then s1 else s1.quiesce cl t.banks (s1.units.foldl (fun (n : Nat) (u : Unit) => n + parts u) 0)
  (s2.releaseBanks t).modTeam ti fun x => { x with banks := [], acc := [], latch := none }

/-- R394: firmware resets a wide core: every team on it ends, and its banks are no one's. -/
def coreReset (core : Nat) (s : State) : Out :=
  if 256 ≤ core then .next s
  else
    let here := (List.range s.teams.length).filter fun i => (s.team? i).elim false fun t => t.core == core && (t.liveAlloc || t.life == .gated)
    .next (here.foldl (fun (a : State) (i : Nat) => match a.team? i with
      | some t => if t.liveAlloc then a.loseBanks i t else a
      | none => a) (here.foldl State.endTeam s))

/-- Table 24.4: the doorbell block of a slot. -/
def State.doorbell (s : State) (slot : Nat) : Doorbell :=
  (s.doorbells.find? fun d => d.slot == slot).getD { slot := slot, saveArea := 0, saveSize := 0, status := 0 }

def State.setDoorbell (s : State) (slot : Nat) (f : Doorbell → Doorbell) : State :=
  { s with doorbells := (s.doorbells.filter fun d => d.slot != slot) ++ [f (s.doorbell slot)] }

/-- R424: the outcome of a command in the status field: 0 done, 1 busy, 2 refused, 3 illegal. -/
def State.answer (s : State) (slot status : Nat) : State := s.setDoorbell slot fun d => { d with status := status }

/-- R423: a command is written on a slot of a module that runs: it begins, or waits behind the one that runs. -/
def State.command (s : State) (slot : Nat) (v : W64) (k : Option Context → Out) : Out :=
  if 256 ≤ slot ∨ s.phase = .stopped then .next s
  else if (s.doorbell slot).status = 1 then .next (s.setDoorbell slot fun d => { d with waiting := d.waiting ++ [v] })
  else k (s.ctx? slot)

/-- R422, Table 24.3: the entry in 256 bytes, and whether its fields are legal; bytes that the table calls zero are not judged (log entry 55). -/
def ctxEntry (bs : List Byte) : CtxEntry × Bool :=
  let f := fieldOf bs
  let w (o : Nat) : W64 := BitVec.ofNat 64 (f o 8)
  let low5 (o : Nat) : W64 := BitVec.ofNat 64 (f o 8 / 32 * 32)
  let e : CtxEntry :=
    { root := f 0 8, asid := f 8 2, queues := (List.range 16).map fun i => w (16 + 8 * i), faultRing := w 0x90, eventRing := w 0x98
      replayBase := low5 0xA0, replayLog := f 0xA0 8 % 32, spillBase := low5 0xA8, spillLog := f 0xA8 8 % 32, status := w 0xB0
      prelim := f 0xB8 4, farto := f 0xBC 4 }
  (e, decide (e.root % 2 ^ 18 = 0 ∧ e.asid ≤ 4095 ∧ e.status.toNat % 64 = 0 ∧ e.faultRing.toNat % 64 = 0 ∧ e.eventRing.toNat % 64 = 0 ∧
    (e.queues.all fun q => q.toNat % 64 == 0) = true ∧ e.prelim ≠ 0 ∧ e.farto ≠ 0))

/-- A field written in a context's memory, where it can be. -/
def State.putField (s : State) (asid : Nat) (a : W64) (size : Nat) : State :=
  match s.agentWrite asid a size 0 with
  | .ok s1 => s1
  | .error _ => s

/-- Tables 17.1, 21.4 and 24.5: the fields that registration resets. -/
def State.resetHeaders (s : State) (e : CtxEntry) : State :=
  let ring (a : State) (h : W64) : State := ((a.putField e.asid h 8).putField e.asid (h + 8) 8).putField e.asid (h + 20) 4
  let queue (a : State) (h : W64) : State :=
    if h = 0 then a else ((a.putField e.asid h 8).putField e.asid (h + 8) 8).putField e.asid (h + 16) 8
  let block := (List.range 4).foldl (fun (a : State) (i : Nat) => a.putField e.asid (e.status + BitVec.ofNat 64 (16 * i)) 16) s
  e.queues.foldl queue (ring (ring block e.faultRing) e.eventRing)

/-- R422, R424: command 1 registers a context, running with its flag clear; each queue's header is judged (R337). -/
def registerContext (slot pa : Nat) (s : State) : Out :=
  s.command slot (BitVec.ofNat 64 (pa / 256 * 256 + 1)) fun c =>
    let r := ctxEntry ((List.range 256).map fun i => s.newestByte (pa + i))
    if c.isSome || s.phase != .running || !r.2 || (s.ctxOfAsid r.1.asid).isSome || decide (towerEnd < pa + 256) then .next (s.answer slot 2)
    else
      let ctx : Context :=
        { slot := slot, entry := r.1, phase := .running, enabled := false, faultId := 0, awaiting := [], queueValid := List.replicate 16 false
          sealed := [], marks := [], saveBase := 0, saveNext := 0, images := 0, deadline := 0, opened := s.codeImage, slots := [] }
      let s1 := { s with contexts := s.contexts ++ [ctx] }.resetHeaders r.1
      .next (((List.range 16).foldl (fun (a : State) (q : Nat) => a.judgeQueue slot q true) s1).answer slot 0)

/-- R424: command 2 sets the enable flag; a killed context runs again, with no teams. -/
def enableContext (slot : Nat) (s : State) : Out :=
  s.command slot 2 fun c =>
    match c with
    | none => .next (s.answer slot 2)
    | some x =>
      let s1 := s.modCtx slot fun y => { y with enabled := true, phase := if y.phase = .killed then .running else y.phase }
      .next ((if x.phase = .killed then s1.putStatus slot 8 4 0 else s1).answer slot 0)

/-- R424: command 3 clears the enable flag. -/
def disableContext (slot : Nat) (s : State) : Out :=
  s.command slot 3 fun c =>
    match c with
    | none => .next (s.answer slot 2)
    | some _ => .next ((s.modCtx slot fun y => { y with enabled := false }).answer slot 0)

/-- Table 21.8: a team's open regions abort with status 5 and are taken, but for a group whose `lq.push` has claimed a slot, which takes its abort afterwards. -/
def State.abortTeamRegions (s : State) (ti : Nat) : State :=
  let us := (s.teamUnits ti).filter fun x => x.2.region.isSome
  let s1 := us.foldl (fun (a : State) (x : Nat × Unit) => x.2.region.elim a fun r => a.abortRegion r 5) s
  us.foldl (fun (a : State) (x : Nat × Unit) => if x.2.claimed then a else a.takeAbort x.1) s1

/-- R383, R384, R424: command 4 requests pre-emption. -/
def preEmpt (slot : Nat) (s : State) : Out :=
  s.command slot 4 fun c =>
    match c with
    | none => .next (s.answer slot 2)
    | some x =>
      let d := s.doorbell slot
      if x.phase ≠ .running then .next (s.answer slot 2)
      else if d.saveArea.toNat % 4096 ≠ 0 ∨ d.saveSize.toNat < s.saveSize slot then .next ((s.postEvent slot 7 d.saveArea 1 0).answer slot 0)
      else
        let table := (8 * ((s.teams.filter fun t => t.ctx == slot && t.life != .exited).length) + 4095) / 4096 * 4096
        let s1 := s.modCtx slot fun y =>
          { y with phase := .saving, saveBase := d.saveArea, saveNext := table, images := 0, deadline := s.now + y.entry.prelim * 1000 }
        let s2 := (s.ctxTeams slot).foldl State.cancelFaults ((s.ctxTeams slot).foldl State.abortTeamRegions (s1.putStatus slot 8 4 1))
        .next ((s2.answer slot 0).saveDone slot)

/-- R388, R424: command 5 restores a context saved at the save-area register's base: each of its teams waits for its core. -/
def restoreContext (slot : Nat) (s : State) : Out :=
  s.command slot 5 fun c =>
    match c with
    | none => .next (s.answer slot 2)
    | some x =>
      if x.phase ≠ .saved ∨ (s.doorbell slot).saveArea ≠ x.saveBase then .next (s.answer slot 2)
      else
        let s1 := s.modCtx slot fun y => { y with phase := .running }
        let back (t : Team) : Team := if t.ctx = slot ∧ t.life = .saved ∧ !t.terminated then { t with life := .gated } else t
        .next (({ s1 with teams := s1.teams.map back }.putStatus slot 8 4 0).answer slot 0)

/-- R382, R424: command 6 kills a context. -/
def killCommand (slot : Nat) (s : State) : Out :=
  s.command slot 6 fun c =>
    match c with
    | none => .next (s.answer slot 2)
    | some x => .next ((if x.phase = .killed then s else s.killContext slot).answer slot 0)

/-- R381, R423: what is left of a destroyed context's teams goes at once. -/
def State.dropTeam (s : State) (ti : Nat) : State :=
  match s.team? ti with
  | none => s
  | some t =>
    let uids := (s.teamUnits ti).map Prod.fst
    let s1 := { s with
      units := s.units.map fun (u : Unit) => if u.team = ti then { u with reqs := [], spq := [] } else u
      batches := s.batches.filter fun b => !uids.contains (b.id / 2 ^ 32) }
    ((if t.liveAlloc then s1.releaseBanks t else s1)).modTeam ti fun x => { x with life := .exited, acc := [], latch := none, queue := [], banks := [] }

/-- R213, R423: whether an access that was translated under a destroyed context is still to be performed: one of another context, by a shared leaf. -/
def State.destroyWaits (s : State) (slot : Nat) : Bool := (s.ctx? slot).elim false fun c => s.translatedIn c.entry.asid 0 (2 ^ 57)

/-- R214, R423: the end of command 7: the whole space of the context is shot down and its ASID is free. -/
def State.unregister (s : State) (slot : Nat) : State :=
  match s.ctx? slot with
  | none => s
  | some x =>
    match shootdown x.entry.asid 0 (2 ^ 57) { s with l2 := s.l2.map fun b => if b.pin ≠ 0 ∧ b.pinCtx = slot then { b with pin := 0, pinCtx := 0 } else b } with
    | .next t => { t with contexts := t.contexts.filter fun y => y.slot != slot }.answer slot 0
    | _ => s

/-- R214, R423: command 7 kills a context, shoots down its whole space and frees its ASID; it runs on, busy, until the accesses of others that were translated there have been performed (R213). -/
def destroyContext (slot : Nat) (s : State) : Out :=
  s.command slot 7 fun c =>
    match c with
    | none => .next (s.answer slot 2)
    | some x =>
      let s1 := if x.phase = .killed then s else s.killContext slot
      let s2 := (s.ctxTeams slot).foldl State.dropTeam s1
      let s3 := { s2 with
        signals := s2.signals.filter fun g => g.ctx != slot
        msgs := s2.msgs.filter fun m => m.ctx != slot
        grids := s2.grids.map fun (g : Grid) => if g.ctx = slot then { g with ranges := [] } else g }
      .next (if s3.destroyWaits slot then s3.answer slot 1 else s3.unregister slot)

/-- R423: a command code outside Table 24.4, or one whose other bits are not zero. -/
def commandLegal (v : W64) : Bool :=
  let code := v.toNat % 16
  decide (1 ≤ code ∧ code ≤ 7) && (if code = 1 then v &&& 0xFFF00000000000F0#64 == 0 else v.toNat == code)

def illegalCommand (slot : Nat) (v : W64) (s : State) : Out :=
  if commandLegal v then .next s else s.command slot v fun _ => .next (s.answer slot 3)

/-- Table 24.4: a command that waited is carried out. -/
def carryOut (slot : Nat) (v : W64) (s : State) : Out :=
  if !commandLegal v then illegalCommand slot v s
  else match v.toNat % 16 with
  | 1 => registerContext slot (v.toNat / 256 % 2 ^ 44 * 256) s
  | 2 => enableContext slot s
  | 3 => disableContext slot s
  | 4 => preEmpt slot s
  | 5 => restoreContext slot s
  | 6 => killCommand slot s
  | _ => destroyContext slot s

/-- R423: the commands that waited are carried out in order, up to one that runs on. -/
def State.runWaiting (slot : Nat) : Nat → State → State
  | 0, s => s
  | n + 1, s =>
    match (s.doorbell slot).status, (s.doorbell slot).waiting with
    | 1, _ => s
    | _, [] => s
    | _, v :: rest =>
      match carryOut slot v (s.setDoorbell slot fun d => { d with waiting := rest }) with
      | .next t => State.runWaiting slot n t
      | _ => s

/-- R423: a command that is busy goes on, once nothing holds it, and those behind it follow. -/
def State.goOnCommand (s : State) (slot : Nat) : State :=
  let d := s.doorbell slot
  if d.status ≠ 1 ∨ s.destroyWaits slot then s else (s.unregister slot).runWaiting slot d.waiting.length

/-- R378, R384: a response to a fault; one that no fault awaits, or that comes while the context saves, is ignored. -/
def faultResponse (slot id : Nat) (k : State → Nat → Unit → State) (s : State) : Out :=
  if 256 ≤ slot ∨ s.phase = .stopped then .next s
  else match (s.ctx? slot).bind fun x => if x.phase = .saving then none else x.awaiting.find? fun a => a.1 == id with
    | none => .next s
    | some a =>
      match s.unit? a.2 with
      | none => .next s
      | some u => .next (k (s.modCtx slot fun x => { x with awaiting := x.awaiting.filter fun y => y.1 != id }) a.2 u)

/-- The address at which a parked unit faulted. -/
def Unit.parkedAt (u : Unit) : W64 :=
  match u.wait with
  | .parked _ a _ => a
  | _ => 0

/-- R308. A fault on the spill ring stops the whole context. -/
def execSpillRingFault (c reason : Nat) (s : State) : Out := spillFault c reason s

/-- R385. Team at its save point written to the save area. -/
def execTeamSave (t : Nat) (s : State) : Out := teamSave t s

/-- R388. Saved team restored onto its core once resources are free. -/
def execTeamRestore (t : Nat) (s : State) : Out := restoreTeam t false s

/-- R393. Firmware saves a core whose teams all wait and gates it. -/
def execPowerGate (core : Nat) (s : State) : Out := powerGate core s

/-- R393. Firmware restores a power-gated team; when it does so affects only time. -/
def execPowerGateRestore (t : Nat) (s : State) : Out := restoreTeam t true s

/-- R394. Firmware resets a wide core and terminates its teams. -/
def execCoreReset (core : Nat) (s : State) : Out := coreReset core s

/-- R391. Team misses its save point within prelim and the context is killed. -/
def execWatchdogPreempt (t : Nat) (s : State) : Out := watchdogPreempt t s

/-- R391. Team stalled for prelim and the context is killed. -/
def execWatchdogStall (t : Nat) (s : State) : Out := watchdogStall t s

/-- R422. Doorbell command 1 registers a context. -/
def execRegister (slot entry : Nat) (s : State) : Out := registerContext slot entry s

/-- R424. Doorbell command 2 sets the context's enable flag. -/
def execEnable (slot : Nat) (s : State) : Out := enableContext slot s

/-- R424. Doorbell command 3 clears the enable flag. -/
def execDisable (slot : Nat) (s : State) : Out := disableContext slot s

/-- R383. Doorbell command 4 requests pre-emption. -/
def execPreEmpt (slot : Nat) (s : State) : Out := preEmpt slot s

/-- R388. Doorbell command 5 restores a saved context. -/
def execRestore (slot : Nat) (s : State) : Out := restoreContext slot s

/-- R382. Doorbell command 6 kills the context. -/
def execKill (slot : Nat) (s : State) : Out := killCommand slot s

/-- R423. Doorbell command 7 kills, shoots down and frees the ASID. -/
def execDestroy (slot : Nat) (s : State) : Out := destroyContext slot s

/-- R423. Unknown command code sets status 3 and does nothing. -/
def execDoorbellIllegalCommand (slot : Nat) (value : BitVec 64) (s : State) : Out := illegalCommand slot value s

/-- R115, R378. Response action 0 replays the parked instruction. -/
def execFaultResponseReplay (slot id : Nat) (s : State) : Out :=
  faultResponse slot id (fun s1 uid u => s1.setUnit uid { u with wait := if u.push.isSome then .lqPush else .none }) s

/-- R378. Response action 1 delivers a translation trap. -/
def execFaultResponseDeliver (slot id : Nat) (s : State) : Out :=
  faultResponse slot id (fun s1 uid u => (s1.setUnit uid { u with push := none }).takeTrap uid 0x12 u.parkedAt 0) s

/-- R378. Response action 2 terminates the team. -/
def execFaultResponseTerminate (slot id : Nat) (s : State) : Out := faultResponse slot id (fun s1 _ u => s1.endTeam u.team) s

end Sys2Proof.Machine
end

