-- ==== Sys2Proof/Machine/Control.lean ====
section
/-!
DEFINITION. Control transfers, the ending of threads, and the instructions with no data effect, class 9 (R103 to R108), and the words that are no instruction (R47).
-/

namespace Sys2Proof.Machine

/-- R103, Table 5.1: a conditional transfer to a target, with the link register it writes. A fragment thread is alone in its mask, so its guard is never split (R105). -/
def transferOp (sh : Shape) (link : Option Nat) (target : Unit → W64) (s : State) : Out :=
  s.issue sh fun uid u =>
    let t := u.guarded sh.guard
    if t = 0 then s.retire uid u sh
    else if t = u.active then
      let a := target u
      if a.getLsbD 0 then s.raise uid u sh.len 0x04 a
      else if !canonical a then s.raise uid u sh.len 0x12 a
      else
        let u1 := match link with
          | some r => u.writeVar [⟨.u, r, [(0, u.pc.signExtend 64 + 8)]⟩] 0
          | none => u
        s.setUnit uid { u1.advance sh.len sh.stall s.tick with pc := a.setWidth 57 }
    else s.raise uid u sh.len 0x0D t



/-- R103. Conditional uniform branch, per-thread inside a fragment. -/
def execBr (w : AI) (s : State) : Out :=
  transferOp ((formAI 9 0 w).shape [] []) none (fun u => u.offsetOf w.imm) s

/-- R103. Branch to a uniform register. -/
def execBrInd (w : A64) (s : State) : Out :=
  transferOp ((formA64 9 1 w).shape [.uni w.ra.toNat 1] []) none (fun u => u.uget w.ra.toNat) s

/-- R103. Call that writes the return address to a uniform register. -/
def execCall (w : AI) (s : State) : Out :=
  transferOp ((formAI 9 2 w).shape [] [(.u, w.rd.toNat)]) (some w.rd.toNat) (fun u => u.offsetOf w.imm) s

/-- R103. Return through a uniform register. -/
def execRet (w : A64) (s : State) : Out :=
  transferOp ((formA64 9 3 w).shape [.uni w.ra.toNat 1] []) none (fun u => u.uget w.ra.toNat) s

/-- R107. Retire guarded-in active threads. -/
def execExit (w : A64) (s : State) : Out :=
  let sh := (formA64 9 4 w).shape [] []
  s.issue sh fun uid u =>
    let t := u.guarded sh.guard
    if t = 0 then s.retire uid u sh else s.exitThreads uid u sh t

/-- R108. No effect beyond issue steps. -/
def execNop (w : A64) (s : State) : Out :=
  let sh := (formA64 9 5 w).shape [] []
  s.issue sh fun uid u => s.retire uid u sh

/-- R108. The group moves behind the others in issue age: it is the last to have issued. -/
def execYield (w : A64) (s : State) : Out :=
  let sh := (formA64 9 6 w).shape [] []
  s.issue sh fun uid u => s.retire uid u sh

/-- R108. Software trap with an immediate. -/
def execTrap (w : AI) (s : State) : Out :=
  let sh := (formAI 9 7 w).shape [] []
  s.issue sh fun uid u => s.raise uid u sh.len 0x10 (w.imm.setWidth 64)

/-- R108. Breakpoint trap. -/
def execBrk (w : A64) (s : State) : Out :=
  let sh := (formA64 9 8 w).shape [] []
  s.issue sh fun uid u => s.raise uid u sh.len 0x0F 0

/-- R29, R108. Return from handler; outside one it traps. -/
def execTret (w : A64) (s : State) : Out :=
  let sh := (formA64 9 9 w).shape [] []
  s.issue sh fun uid u =>
    if u.inHandler then s.setUnit uid { u.returnFromTrap sh.stall with lastIssue := s.tick }
    else s.raise uid u sh.len 0x01 sh.raw

/-- R47. Bytes that are no instruction: the trap comes before any effect, and tval holds the parcels. -/
def execIllegalEncoding (nbytes : Nat) (raw : BitVec 64) (s : State) : Out :=
  s.withUnit fun uid u => .next (s.raise uid u nbytes 0x01 raw)

end Sys2Proof.Machine
end

