-- ==== Sys2Proof/Machine/Transc.lean ====
section
/-!
DEFINITION. The transcendental functions of binary32 (R98): the exact result as a magnitude that is cut below its last place, and the two neighbours of which one is delivered.
-/

namespace Sys2Proof.Machine

/-- The floor of pi times 2^512. -/
def piFix : Nat := 0x3243f6a8885a308d313198a2e03707344a4093822299f31d0082efa98ec4e6c89452821e638d01377be5466cf34e90c6cc0ac29b7c97c50dd3f84d5b5b5470917

/-- The floor of ln 2 times 2^256. -/
def ln2Fix : Nat := 0xb17217f7d1cf79abc9e3b39803f2f6af40f343267298b62d8a0d175b8baafa2b

/-- The series of the exponential at scale 2^256: `t + t y / k + t y^2 / (k (k+1)) + …`. -/
def expSum (y : Nat) : Nat → Nat → Nat → Nat
  | 0, _, _ => 0
  | fuel + 1, k, t => t + expSum y fuel (k + 1) ((t * y) >>> 256 / k)

/-- e^y at scale 2^256, for y below 1, cut below. -/
def expFix (y : Nat) : Nat := expSum y 64 1 (2 ^ 256)

/-- The alternating series of the sine at scale 2^384, `x2` the square of the argument. -/
def sinSum (x2 : Nat) : Nat → Nat → Nat → Nat
  | 0, _, _ => 0
  | fuel + 1, k, t => t - sinSum x2 fuel (k + 2) ((t * x2) >>> 384 / (k * (k + 1)))

def sinFix (x : Nat) : Nat := sinSum ((x * x) >>> 384) 64 2 x

/-- The series of the inverse hyperbolic tangent at scale 2^256, `z2` the square of the argument. -/
def atanhSum (z2 : Nat) : Nat → Nat → Nat → Nat
  | 0, _, _ => 0
  | fuel + 1, k, t => t / k + atanhSum z2 fuel (k + 2) ((t * z2) >>> 256)

/-- A magnitude just below `m * 2^e`. -/
def justBelow (m : Nat) (e : Int) : Mag := ⟨m * 2 ^ 64 - 1, e - 64, true⟩

/-- The magnitude of 1/a. -/
def rcpMag (m : Nat) (e : Int) : Mag := ⟨2 ^ 80 / m, -80 - e, 2 ^ 80 % m != 0⟩

/-- The magnitude of 1/√a: the root of a quotient whose significand is even in its exponent. -/
def rsqMag (m : Nat) (e : Int) : Mag :=
  let odd := e % 2 != 0
  let m' := if odd then 2 * m else m
  let e' := if odd then e - 1 else e
  let n := 2 ^ 160 / m'
  let r := isqrt n 82 0
  ⟨r, -80 - e' / 2, r * r * m' != 2 ^ 160⟩

/-- The magnitude of 2^a. -/
def exp2Mag (neg : Bool) (m : Nat) (e : Int) : Mag :=
  if 10 < e + bitLen m then ⟨1, if neg then -2000 else 2000, true⟩
  else
    let a := signedAt neg m (e + 256) 0
    let n := a / (2 ^ 256 : Nat)
    let f := (a % (2 ^ 256 : Nat)).toNat
    if f = 0 then ⟨1, n, false⟩
    else ⟨expFix ((f * ln2Fix) >>> 256), n - 256, true⟩

/-- log2 of a positive `m * 2^e`, as a sign and a magnitude. -/
def log2Mag (m : Nat) (e : Int) : Bool × Mag :=
  let l := bitLen m - 1
  let k : Int := e + l
  if m = 2 ^ l then (decide (k < 0), ⟨k.natAbs, 0, false⟩)
  else
    let z := (m - 2 ^ l) <<< 256 / (m + 2 ^ l)
    let lg := (2 * atanhSum ((z * z) >>> 256) 88 1 z) <<< 256 / ln2Fix
    let t : Int := k * (2 ^ 256 : Nat) + lg
    (decide (t < 0), ⟨t.natAbs, -256, true⟩)

/-- The quadrant and the sine and cosine of the reduced argument, at scale 2^384 (R98: reduced exactly for every finite input). -/
def reduce (m : Nat) (e : Int) : Nat × Nat × Nat :=
  let x := m <<< (e + 384).toNat
  let half := piFix >>> 129
  let r := x % half
  (x / half % 4, sinFix r, sinFix (half - r))

/-- sin of a positive argument, as a sign and a magnitude. -/
def sinMag (m : Nat) (e : Int) : Bool × Mag :=
  if e + bitLen m < -24 then (false, justBelow m e)
  else
    let r := reduce m e
    (decide (2 ≤ r.1), ⟨if r.1 % 2 = 0 then r.2.1 else r.2.2, -384, true⟩)

/-- cos of a positive argument. -/
def cosMag (m : Nat) (e : Int) : Bool × Mag :=
  if e + bitLen m < -60 then (false, justBelow 1 0)
  else
    let r := reduce m e
    (decide (r.1 = 1 ∨ r.1 = 2), ⟨if r.1 % 2 = 0 then r.2.2 else r.2.1, -384, true⟩)

/-- tanh of a positive argument. -/
def tanhMag (m : Nat) (e : Int) : Mag :=
  if e + bitLen m < -24 then justBelow m e
  else if 6 < e + bitLen m then justBelow 1 0
  else
    let y := m <<< (e + 257).toNat
    let x := expFix (y % ln2Fix) <<< (y / ln2Fix)
    ⟨(x - 2 ^ 256) <<< 256 / (x + 2 ^ 256), -256, true⟩

/-- R98: delivery of a finite exact result: itself when representable, else one of its two neighbours, chosen by `away`. -/
def deliver (away neg : Bool) (a : Mag) : Rounded :=
  let lo := Fmt.f32.round .rz false neg a
  if lo.flags &&& Flags.inexact = 0 then lo
  else if lo.flags &&& Flags.overflow ≠ 0 then
    ⟨Fmt.f32.infBits neg, Flags.overflow ||| Flags.inexact⟩
  else
    let b := if away then lo.bits + 1 else lo.bits
    ⟨b, Flags.inexact ||| (if b % 2 ^ 31 < 2 ^ 23 then Flags.underflow else Flags.none)⟩

/-- R98, Table 4.7: the seven functions; `op` is 0 `frcp`, 1 `frsq`, 2 `fexp2`, 3 `flog2`, 4 `fsin`, 5 `fcos`, 6 `ftanh`. -/
def transc (op : Nat) (a : BitVec 32) : Rounded :=
  let f := Fmt.f32
  let away := Config.transAway op a
  let x := a.toNat
  let ok (b : Nat) : Rounded := ⟨b, Flags.none⟩
  let one (n : Bool) : Nat := f.signBits n + 127 * 2 ^ 23
  match f.value x with
  | .nan s => ⟨f.nan, (FVal.nan s).sig⟩
  | .inf n =>
    match op with
    | 0 => ok (f.signBits n)
    | 1 => if n then f.invalidNan else ok 0
    | 2 => if n then ok 0 else ok (f.infBits false)
    | 3 => if n then f.invalidNan else ok (f.infBits false)
    | 6 => ok (one n)
    | _ => f.invalidNan
  | .fin n m e =>
    if m = 0 then
      match op with
      | 0 => ⟨f.infBits n, Flags.divzero⟩
      | 1 => ⟨f.infBits n, Flags.divzero⟩
      | 2 => ok (one false)
      | 3 => ⟨f.infBits true, Flags.divzero⟩
      | 5 => ok (one false)
      | _ => ok (f.signBits n)
    else
      match op with
      | 0 => deliver away n (rcpMag m e)
      | 1 => if n then f.invalidNan else deliver away false (rsqMag m e)
      | 2 => deliver away false (exp2Mag n m e)
      | 3 => if n then f.invalidNan else
        let r := log2Mag m e
        deliver away r.1 r.2
      | 4 =>
        let r := sinMag m e
        deliver away (r.1 != n) r.2
      | 5 =>
        let r := cosMag m e
        deliver away r.1 r.2
      | _ => deliver away n (tanhMag m e)

end Sys2Proof.Machine
end

