-- ==== Sys2Proof/Machine/Conversion.lean ====
section
/-!
DEFINITION. Conversions, q4x and transcendental functions, classes 7 and 8 and their B32 forms (R98 to R102).
-/

namespace Sys2Proof.Machine

/-- R41, R99: the span of a conversion operand. -/
def cvtSpan (ty : Nat) : Nat := if tyBits ty = 64 then 2 else 1

/-- R99, R100, Table 3.1: a conversion; the low bits of a narrower source are its value. -/
def cvtOp (dst src : Nat) (f : Form) (s : State) : Out :=
  let a := Src.vec f.w.ra.toNat (cvtSpan src) 0
  let sat := f.w.rc.getLsbD 3
  fixedOp (f.shape [a] (spanRegs .v f.w.rd.toNat (cvtSpan dst))) 5
    (fun s u l =>
      let x := (s.arg64 u a l).toNat % 2 ^ tyBits src
      let r := convert dst src (s.rmAt u (f.w.rc.toNat % 8)) sat x
      let v := place dst r.bits
      (if tyBits dst = 64 then pairVal v else [(v.setWidth 32).setWidth 64], r.flags)) s

/-- R101: eight registers encoded into one. -/
def q4xEncOp (f : Form) (s : State) : Out :=
  let a := srcOf f.w.pa f.w.ra 8
  let b := srcOf f.w.pb f.w.rb 1
  fixedOp (f.shape [a, b] [(.v, f.w.rd.toNat)]) 5
    (fun s u l =>
      let xs := (List.range 8).map fun k => (s.srcWord u a l k).toNat
      let r := q4xEncode xs ((s.arg32 u b l).toNat % 65536) (s.rmAt u (f.w.rc.toNat % 8))
      ([BitVec.ofNat 64 r.1], r.2)) s

/-- R102: one register decoded into eight. -/
def q4xDecOp (f : Form) (s : State) : Out :=
  let a := srcOf f.w.pa f.w.ra 1
  let b := srcOf f.w.pb f.w.rb 1
  fixedOp (f.shape [a, b] (spanRegs .v f.w.rd.toNat 8)) 5
    (fun s u l =>
      let r := q4xDecode (s.arg32 u a l).toNat ((s.arg32 u b l).toNat % 65536) (s.rmAt u (f.w.rc.toNat % 8))
      (r.1.map (BitVec.ofNat 64), r.2)) s

/-- R98: a transcendental function. -/
def transcOp (op : Nat) (f : Form) (s : State) : Out :=
  let a := srcOf f.w.pa f.w.ra 1
  varOp (f.shape [a] [(.v, f.w.rd.toNat)]) (fun s u l => oneReg (transc op (s.arg32 u a l))) s

/-- R100. Conversion between integer and floating-point types. -/
def execCvt (w : A64) (s : State) : Out := cvtOp w.rb.toNat w.pb.toNat (formA64 7 0 w) s

/-- R101. Encode eight binary32 values into q4x nibbles. -/
def execQ4xEnc (w : A64) (s : State) : Out := q4xEncOp (formA64 7 1 w) s

/-- R102. Decode eight q4x nibbles into binary32 registers. -/
def execQ4xDec (w : A64) (s : State) : Out := q4xDecOp (formA64 7 2 w) s

/-- R100. B32 conversion of .s32 to binary32 rounded by frm. -/
def execCvtF32S32B32 (w : B32) (s : State) : Out := cvtOp 10 2 (formB32 55 7 false w) s

/-- R100. B32 conversion of binary32 to .s32 toward zero. -/
def execCvtRzS32F32B32 (w : B32) (s : State) : Out := cvtOp 2 10 (formB32 56 1 false w) s

/-- R98. Reciprocal. -/
def execFrcp (w : A64) (s : State) : Out := transcOp 0 (formA64 8 0 w) s

/-- R98. B32 reciprocal. -/
def execFrcpF32B32 (w : B32) (s : State) : Out := transcOp 0 (formB32 57 0 false w) s

/-- R98. Reciprocal square root. -/
def execFrsq (w : A64) (s : State) : Out := transcOp 1 (formA64 8 1 w) s

/-- R98. B32 reciprocal square root. -/
def execFrsqF32B32 (w : B32) (s : State) : Out := transcOp 1 (formB32 58 0 false w) s

/-- R98. Base-2 exponential. -/
def execFexp2 (w : A64) (s : State) : Out := transcOp 2 (formA64 8 2 w) s

/-- R98. B32 base-2 exponential. -/
def execFexp2F32B32 (w : B32) (s : State) : Out := transcOp 2 (formB32 59 0 false w) s

/-- R98. Base-2 logarithm. -/
def execFlog2 (w : A64) (s : State) : Out := transcOp 3 (formA64 8 3 w) s

/-- R98. B32 base-2 logarithm. -/
def execFlog2F32B32 (w : B32) (s : State) : Out := transcOp 3 (formB32 60 0 false w) s

/-- R98. Sine in radians. -/
def execFsin (w : A64) (s : State) : Out := transcOp 4 (formA64 8 4 w) s

/-- R98. Cosine in radians. -/
def execFcos (w : A64) (s : State) : Out := transcOp 5 (formA64 8 5 w) s

/-- R98. Hyperbolic tangent. -/
def execFtanh (w : A64) (s : State) : Out := transcOp 6 (formA64 8 6 w) s

end Sys2Proof.Machine
end

