-- ==== Sys2Proof/Machine/CrossLane.lean ====
section
/-!
DEFINITION. Cross-lane operations, class 12 (R168 to R178), and the rendezvous of a fragment's threads (R169, R163).
-/

namespace Sys2Proof.Machine

/-- R168: the participants of a class 12 word: the lanes that are active and guarded in, over all waiting threads of a fragment. -/
def State.participants (s : State) (u : Unit) (g : BitVec 4) : List Nat :=
  match u.frag with
  | none => u.guardedLanes g
  | some f => (List.range u.width).filter fun l => (s.fragThreads f).any fun x => (x.2.guarded g).getLsbD l

/-- A predicate in any lane; lanes outside a fragment read zero (R169). -/
def State.predIn (s : State) (u : Unit) (i l : Nat) : Bool :=
  match u.frag with
  | none => u.arg1 i l
  | some f => (s.fragThreads f).any fun x => x.2.active.getLsbD l && x.2.arg1 i l

/-- Whether a unit waits at a class 12 word. -/
def Unit.atRendezvous (u : Unit) : Bool :=
  match u.wait with
  | .rendezvous => true
  | _ => false

/-- R163: whether every thread that a mask of `lsync` names, of those left, waits at one with that mask. -/
def lsyncHolds (all : List (Nat × Unit)) (m : W64) : Bool :=
  all.all fun y => match y.2.frag, y.2.wait with
    | some g, .lsync m' _ => !m.getLsbD g.lane || m' == m
    | some g, _ => !m.getLsbD g.lane
    | none, _ => true

/-- R169: every thread left waits at a class 12 word or at an `lsync` that cannot pass. -/
def allMeet (all : List (Nat × Unit)) : Bool :=
  all.all fun y => match y.2.wait with
    | .rendezvous => true
    | .lsync m _ => !lsyncHolds all m
    | _ => false

/-- R168, R169: a class 12 word. On a wide core it executes at once. In a fragment it executes once, for every thread, when all wait at it. -/
def crossOp (sh : Shape) (f : State → Unit → List Nat → Nat → LaneRes) (s : State) : Out :=
  s.issue sh fun uid u =>
    match u.frag with
    | none =>
      let ps := s.participants u sh.guard
      let rows := ps.map fun l => (l, f s u ps l)
      s.retire uid (u.writeVar (laneWrites sh.dsts rows) (laneFlags rows)) sh
    | some fr =>
      let s1 := s.waits uid u .rendezvous
      let all := s1.fragThreads fr
      if all.all fun x => x.2.atRendezvous && x.2.pc == u.pc then
        let ps := s1.participants u sh.guard
        all.foldl (fun (a : State) (x : Nat × Unit) =>
          let rows := (x.2.guardedLanes sh.guard).map fun l => (l, f s1 x.2 ps l)
          a.retire x.1 (x.2.writeVar (laneWrites sh.dsts rows) (laneFlags rows)) sh) s1
      else if allMeet all then s.raise uid u sh.len 0x0A 0
      else s1

/-- R170: the lane that participant `l` reads, or itself when that falls outside the group. -/
def shflLane (W mode j l : Nat) : Nat :=
  let t : Int := match mode with
    | 0 => j
    | 1 => (l : Int) - j
    | 2 => (l : Int) + j
    | _ => ((l ^^^ j : Nat) : Int)
  if t < 0 ∨ (W : Int) ≤ t then l else t.toNat

/-- The unit in focus with its windows landed, for operands that depend on data. -/
def State.focusUnit (s : State) : Option Unit :=
  match s.focus with
  | some uid => (s.unit? uid).map fun u => u.landAt u.step
  | none => none

/-- R170. Read va from a source lane chosen by a mode. -/
def execShfl (w : A64) (s : State) : Out :=
  let b := srcOf w.pb w.rb 1
  let a := Src.vec w.ra.toNat 1 0
  crossOp ((formA64 12 0 w).shape [a, b] [(.v, w.rd.toNat)])
    (fun s u _ l => ([(s.readV u w.ra.toNat (shflLane u.width (w.rc.toNat % 4) ((s.arg32 u b l).toNat % 64) l)).setWidth 64], 0)) s

/-- R171: a vote into a predicate. -/
def voteOp (op : BitVec 6) (w : A64) (f : List Bool → Bool) (s : State) : Out :=
  let p := w.ra.toNat % 8
  crossOp ((formA64 12 op w).shape [.pred p] [(.p, w.rd.toNat % 8)])
    (fun s u ps _ => ([boolVal (f (ps.map fun l => s.predIn u p l))], 0)) s

/-- R171. OR of a predicate over participants. -/
def execVoteAny (w : A64) (s : State) : Out := voteOp 1 w (fun bs => bs.any fun b => b) s

/-- R171. AND of a predicate over participants. -/
def execVoteAll (w : A64) (s : State) : Out := voteOp 2 w (fun bs => bs.all fun b => b) s

/-- R171. 64-bit mask of participants whose predicate is true. -/
def execVoteBallot (w : A64) (s : State) : Out :=
  let p := w.ra.toNat % 8
  crossOp ((formA64 12 3 w).shape [.pred p] (spanRegs .v w.rd.toNat 2))
    (fun s u ps _ => (pairVal (maskOf (ps.filter fun l => s.predIn u p l)), 0)) s

/-- R172. Mask of participants with an equal value. -/
def execMatchEq (w : A64) (s : State) : Out :=
  let wide := w.rc.getLsbD 0
  let a := Src.vec w.ra.toNat (if wide then 2 else 1) 0
  crossOp ((formA64 12 4 w).shape [a] (spanRegs .v w.rd.toNat 2))
    (fun s u ps l =>
      let val (k : Nat) : W64 := if wide then s.arg64 u a k else (s.arg32 u a k).setWidth 64
      (pairVal (maskOf (ps.filter fun k => val k == val l)), 0)) s

/-- R174: the rounded sum of a set of binary32 values. -/
def sumSet (rm : Rm) (xs : List Nat) : Rounded :=
  let vs := xs.map Fmt.f32.value
  let sig := vs.foldl (fun (m : Flags) (v : FVal) => m ||| v.sig) 0
  let pos := vs.any fun v => v == .inf false
  let neg := vs.any fun v => v == .inf true
  if vs.any FVal.isNan || (pos && neg) then ⟨Fmt.f32.nan, sig ||| (if pos && neg then Flags.invalid else 0)⟩
  else if pos || neg then ⟨Fmt.f32.infBits neg, 0⟩
  else
    let part (v : FVal) : Int := match v with
      | .fin n m e => signedAt n m e Fmt.f32.qmin
      | _ => 0
    let t := vs.foldl (fun (a : Int) (v : FVal) => a + part v) 0
    if t = 0 then
      let minus := xs.all (fun x => x == 2 ^ 31) || (rm == .rd && vs.any fun v => part v != 0)
      ⟨Fmt.f32.signBits minus, 0⟩
    else Fmt.f32.round rm false (decide (t < 0)) ⟨t.natAbs, Fmt.f32.qmin, false⟩

/-- R174: the minimum or maximum of a set of binary32 values. -/
def minmaxSet (max : Bool) (xs : List Nat) : Rounded :=
  let sig := xs.foldl (fun (m : Flags) (x : Nat) => m ||| (Fmt.f32.value x).sig) 0
  match xs.filter fun x => !(Fmt.f32.value x).isNan with
  | [] => ⟨Fmt.f32.nan, sig⟩
  | y :: ys => ⟨ys.foldl (fun (a x : Nat) => (Fmt.f32.minmax max false a x).bits) y, sig⟩

/-- Table 8.3: the identity of an operation of type `.n32` or not. -/
def redIdentity (op : Nat) (n32 : Bool) : W32 :=
  match op with
  | 1 => if n32 then 0xFFFFFFFF else 0x7FFFFFFF
  | 2 => if n32 then 0 else 0x80000000
  | 3 => 0xFFFFFFFF
  | 10 => 0x7F800000
  | 11 => 0xFF800000
  | _ => 0

/-- R173 to R175: the reduction of the values of some lanes. -/
def reduceSet (rm : Rm) (op : Nat) (n32 : Bool) (xs : List W32) : W32 × Flags :=
  if xs.isEmpty then (redIdentity op n32, 0)
  else
    let fold (f : W32 → W32 → W32) : W32 × Flags := (xs.foldl f (redIdentity op n32), 0)
    let float (r : Rounded) : W32 × Flags := (BitVec.ofNat 32 r.bits, r.flags)
    match op with
    | 0 => fold (fun a b => a + b)
    | 1 => fold (minmaxInt (!n32) false)
    | 2 => fold (minmaxInt (!n32) true)
    | 3 => fold (fun a b => a &&& b)
    | 4 => fold (fun a b => a ||| b)
    | 5 => fold (fun a b => a ^^^ b)
    | 9 => float (sumSet rm (xs.map BitVec.toNat))
    | 10 => float (minmaxSet false (xs.map BitVec.toNat))
    | _ => float (minmaxSet true (xs.map BitVec.toNat))

/-- R175, R176: a reduction whose lanes are chosen for each participant. -/
def reduceOp (op : BitVec 6) (w : A64) (more : List Src) (pick : State → Unit → List Nat → Nat → List Nat) (s : State) : Out :=
  let a := Src.vec w.ra.toNat 1 0
  crossOp ((formA64 12 op w).shape (a :: more) [(.v, w.rd.toNat)])
    (fun s u ps l =>
      let r := reduceSet (s.rmAt u 7) (w.rc.toNat % 16) (w.rc.toNat / 16 % 4 == 1) ((pick s u ps l).map fun k => s.readV u w.ra.toNat k)
      ([r.1.setWidth 64], r.2)) s

/-- R175. Reduction over all participants. -/
def execRedLane (w : A64) (s : State) : Out := reduceOp 5 w [] (fun _ _ ps _ => ps) s

/-- R175. Inclusive or exclusive running reduction. -/
def execScanLane (w : A64) (s : State) : Out :=
  reduceOp 6 w [] (fun _ _ ps l => ps.filter fun k => if w.rc.getLsbD 6 then decide (k < l) else decide (k ≤ l)) s

/-- R176: the participants of the segment of `l`, from the lanes in ascending order. -/
def segmentOf (heads : Nat → Bool) (ps : List Nat) (l : Nat) : List Nat :=
  let start := ((ps.filter fun k => decide (k ≤ l) && heads k).getLast?).getD 0
  let stop := (ps.filter fun k => decide (l < k) && heads k).head?
  ps.filter fun k => decide (start ≤ k) && (match stop with
    | some e => decide (k < e)
    | none => true)

/-- R176. Segmented reduction by head predicate. -/
def execSegred (w : A64) (s : State) : Out :=
  let p := w.rb.toNat % 8
  reduceOp 7 w [.pred p] (fun s u ps l => segmentOf (fun k => s.predIn u p k) ps l) s

/-- R163, R177: the mask that a participant supplies to `lsync`. -/
def syncMask (s : State) (u : Unit) (x : Src) (l : Nat) : W64 := s.arg64 u x l

/-- R163, R177. Synchronise the threads of a membership mask. In a fragment the threads whose masks meet take part in one synchronisation, a breach names the mask of the thread that issues, and a thread that its guard excludes passes without waiting and is not counted (log entry 99). -/
def execLsync (w : A64) (s : State) : Out :=
  let x := srcOf w.pa w.ra 2
  let sh := (formA64 12 8 w).shape [x] []
  s.issue sh fun uid u =>
    match u.frag with
    | none =>
      let ms := (u.guardedLanes sh.guard).map fun l => syncMask s u x l
      match ms with
      | [] => s.retire uid u sh
      | m :: rest =>
        match rest.find? fun y => y != m with
        | some y => s.raise uid u sh.len 0x0A y
        | none => if m &&& ~~~u.active ≠ 0 then s.raise uid u sh.len 0x0A m else s.retire uid u sh
    | some f =>
      if (u.guardedLanes sh.guard).isEmpty then s.retire uid u sh
      else
        let m := match u.wait with
          | .lsync m _ => m
          | _ => syncMask s u x f.lane
        let s1 := s.waits uid u (.lsync m sh.stall)
        let all := s1.fragThreads f
        let other (y : Nat × Unit) : Bool := match y.2.frag, y.2.wait with
          | some g, .lsync m' _ => m' != m && (m &&& m' != 0 || m.getLsbD g.lane || m'.getLsbD f.lane)
          | _, _ => false
        if m &&& ~~~f.lanes ≠ 0 || all.any other then s.raise uid u sh.len 0x0A m
        else
          let pass := all.filterMap fun y => match y.2.wait with
            | .lsync m' st => if m' = m then some (y, st) else none
            | _ => none
          if lsyncHolds all m then
            if pass.all fun y => y.1.2.spq.isEmpty && !s1.groupSpAhead y.1.2 then
              pass.foldl (fun (a : State) (y : (Nat × Unit) × Nat) => a.retire y.1.1 y.1.2 { sh with stall := y.2 }) s1
            else s1
          else if allMeet all then s.raise uid u sh.len 0x0A m
          else s1

/-- R178: the list of a lane, scores and indices, after an insertion. -/
def topkInsert (n : Nat) (score idx : W32) (xs : List W32) : List W32 :=
  let v := Fmt.f32.value score.toNat
  if v.isNan then xs
  else
    let above (j : Nat) : Bool := (Fmt.f32.compare 4 score.toNat (nth 0 xs (2 * j)).toNat).1
    match (List.range n).find? above with
    | none => xs
    | some p => (xs.take (2 * p) ++ [score, idx] ++ xs.drop (2 * p)).take (2 * n)

/-- R178. Insert into a per-lane sorted top-N list; no lane takes part for another. -/
def execTopkIns (w : A64) (s : State) : Out :=
  let n := 2 ^ (w.rc.toNat % 4)
  let a := Src.vec w.ra.toNat 1 0
  let b := Src.vec w.rb.toNat 1 0
  let d := Src.vec w.rd.toNat (2 * n) 0
  varOp ((formA64 12 9 w).shape [a, b, d] (spanRegs .v w.rd.toNat (2 * n)))
    (fun s u l =>
      let xs := (List.range (2 * n)).map fun i => s.srcWord u d l i
      ((topkInsert n (s.arg32 u a l) (s.arg32 u b l) xs).map fun x => x.setWidth 64, 0)) s

end Sys2Proof.Machine
end

