-- ==== Sys2Proof/Machine/FloatOps.lean ====
section
/-!
DEFINITION. Floating-point arithmetic, classes 4, 5 and 6 and their C16 and B32 forms (R93 to R97).
-/

namespace Sys2Proof.Machine

/-- Table 1.2: the latency of classes 4 and 5, and of class 6. -/
def fpLat (wide : Bool) : Nat := if wide then 8 else 5

/-- R93: the format and register span of classes 4 and 6. -/
def fpFmt (wide : Bool) : Fmt := if wide then .f64 else .f32

def fpSpan (wide : Bool) : Nat := if wide then 2 else 1

/-- R93: a source of class 4 as a 32-bit encoding, of class 6 as a 64-bit one. -/
def State.argF (s : State) (u : Unit) (wide : Bool) (x : Src) (l : Nat) : Nat :=
  if wide then (s.arg64 u x l).toNat else (s.arg32 u x l).toNat

/-- A rounded result of class 4 or 6 as a lane writes it. -/
def fpRes (wide : Bool) (r : Rounded) : LaneRes := if wide then twoRegs r else oneReg r

/-- Table 4.5: a 2R operation of class 4 or 6 whose m is a rounding code. -/
def fpOp2 (wide var : Bool) (f : Form) (op : Fmt → Rm → Nat → Nat → Rounded) (s : State) : Out :=
  let a := srcOf f.w.pa f.w.ra (fpSpan wide)
  let b := srcOf f.w.pb f.w.rb (fpSpan wide)
  let sh := f.shape [a, b] (spanRegs .v f.w.rd.toNat (fpSpan wide))
  let g := fun (s : State) (u : Unit) (l : Nat) =>
    fpRes wide (op (fpFmt wide) (s.rmAt u (f.w.rc.toNat % 8)) (s.argF u wide a l) (s.argF u wide b l))
  if var then varOp sh g s else fixedOp sh (fpLat wide) g s

/-- Table 4.5: a 1R operation of class 4 or 6. -/
def fpOp1 (wide var : Bool) (f : Form) (op : Fmt → Rm → Nat → Rounded) (s : State) : Out :=
  let a := srcOf f.w.pa f.w.ra (fpSpan wide)
  let sh := f.shape [a] (spanRegs .v f.w.rd.toNat (fpSpan wide))
  let g := fun (s : State) (u : Unit) (l : Nat) =>
    fpRes wide (op (fpFmt wide) (s.rmAt u (f.w.rc.toNat % 8)) (s.argF u wide a l))
  if var then varOp sh g s else fixedOp sh (fpLat wide) g s

/-- R93: `ffma`, whose rounding code stands in the op. -/
def ffmaOp (wide : Bool) (rm : Nat) (f : Form) (s : State) : Out :=
  let a := srcOf f.w.pa f.w.ra (fpSpan wide)
  let b := srcOf f.w.pb f.w.rb (fpSpan wide)
  let c := Src.vec f.w.rc.toNat (fpSpan wide) 0
  fixedOp (f.shape [a, b, c] (spanRegs .v f.w.rd.toNat (fpSpan wide))) (fpLat wide)
    (fun s u l => fpRes wide ((fpFmt wide).fma (s.rmAt u rm) (s.argF u wide a l) (s.argF u wide b l) (s.argF u wide c l))) s

/-- R97: `ldexp`, whose b is a 32-bit signed amount. -/
def ldexpOp (wide : Bool) (f : Form) (s : State) : Out :=
  let a := srcOf f.w.pa f.w.ra (fpSpan wide)
  let b := srcOf f.w.pb f.w.rb 1
  fixedOp (f.shape [a, b] (spanRegs .v f.w.rd.toNat (fpSpan wide))) (fpLat wide)
    (fun s u l => fpRes wide ((fpFmt wide).ldexp (s.rmAt u (f.w.rc.toNat % 8)) (s.argF u wide a l) (s.arg32 u b l).toInt)) s

/-- R96: `fclass` writes one register. -/
def fclassOp (wide : Bool) (f : Form) (s : State) : Out :=
  let a := srcOf f.w.pa f.w.ra (fpSpan wide)
  fixedOp (f.shape [a] [(.v, f.w.rd.toNat)]) (fpLat wide)
    (fun s u l => ([BitVec.ofNat 64 ((fpFmt wide).classMask (s.argF u wide a l))], 0)) s

/-- R93: the element format of class 5. -/
def halfFmt (bf : BitVec 1) : Fmt := if bf = 0 then .f16 else .bf16

/-- R52, R93: a 2R operation of class 5. -/
def halfOp2 (bf : BitVec 1) (f : Form) (op : Fmt → Rm → Nat → Nat → Rounded) (s : State) : Out :=
  let a := srcOf f.w.pa f.w.ra 1
  let b := srcOf f.w.pb f.w.rb 1
  fixedOp (f.shape [a, b] [(.v, f.w.rd.toNat)]) 5
    (fun s u l =>
      let rm := s.rmAt u (f.w.rc.toNat % 8)
      onPairs (fun x y _ => op (halfFmt bf) rm x y) (s.arg32 u a l) (s.arg32 u b l) 0) s

/-- R52, R93: a 1R operation of class 5. -/
def halfOp1 (bf : BitVec 1) (f : Form) (op : Fmt → Nat → Rounded) (s : State) : Out :=
  let a := srcOf f.w.pa f.w.ra 1
  fixedOp (f.shape [a] [(.v, f.w.rd.toNat)]) 5
    (fun s u l => onPairs (fun x _ _ => op (halfFmt bf) x) (s.arg32 u a l) 0 0) s

/-- R52, R93: `ffma` of class 5. -/
def halfFma (bf : BitVec 1) (rm : Nat) (f : Form) (s : State) : Out :=
  let a := srcOf f.w.pa f.w.ra 1
  let b := srcOf f.w.pb f.w.rb 1
  let c := Src.vec f.w.rc.toNat 1 0
  fixedOp (f.shape [a, b, c] [(.v, f.w.rd.toNat)]) 5
    (fun s u l => onPairs (fun x y z => (halfFmt bf).fma (s.rmAt u rm) x y z) (s.arg32 u a l) (s.arg32 u b l) (s.arg32 u c l)) s

/-- R94. Binary32 add. -/
def execFaddF32 (w : A64) (s : State) : Out := fpOp2 false false (formA64 4 0 w) Fmt.add s

/-- R94. Binary32 subtract. -/
def execFsubF32 (w : A64) (s : State) : Out := fpOp2 false false (formA64 4 1 w) Fmt.sub s

/-- R94. Binary32 multiply. -/
def execFmulF32 (w : A64) (s : State) : Out := fpOp2 false false (formA64 4 2 w) Fmt.mul s

/-- R94. Binary32 divide, variable latency. -/
def execFdivF32 (w : A64) (s : State) : Out := fpOp2 false true (formA64 4 3 w) Fmt.div s

/-- R95. Binary32 minimumNumber. -/
def execFminF32 (w : A64) (s : State) : Out := fpOp2 false false (formA64 4 7 w) (fun f _ x y => f.minmax false false x y) s

/-- R95. Binary32 maximumNumber. -/
def execFmaxF32 (w : A64) (s : State) : Out := fpOp2 false false (formA64 4 8 w) (fun f _ x y => f.minmax true false x y) s

/-- R95. Binary32 NaN-propagating minimum. -/
def execFminNanF32 (w : A64) (s : State) : Out := fpOp2 false false (formA64 4 9 w) (fun f _ x y => f.minmax false true x y) s

/-- R95. Binary32 NaN-propagating maximum. -/
def execFmaxNanF32 (w : A64) (s : State) : Out := fpOp2 false false (formA64 4 10 w) (fun f _ x y => f.minmax true true x y) s

/-- R94. Binary32 square root, variable latency. -/
def execFsqrtF32 (w : A64) (s : State) : Out := fpOp1 false true (formA64 4 4 w) Fmt.sqrt s

/-- R97. Round binary32 to an integral value. -/
def execFrndF32 (w : A64) (s : State) : Out := fpOp1 false false (formA64 4 5 w) Fmt.rnd s

/-- R96. Clear the binary32 sign bit. -/
def execFabsF32 (w : A64) (s : State) : Out := fpOp1 false false (formA64 4 11 w) (fun f _ x => f.abs x) s

/-- R96. Invert the binary32 sign bit. -/
def execFnegF32 (w : A64) (s : State) : Out := fpOp1 false false (formA64 4 12 w) (fun f _ x => f.neg x) s

/-- R97. Binary32 scale by 2^b. -/
def execLdexpF32 (w : A64) (s : State) : Out := ldexpOp false (formA64 4 6 w) s

/-- R96. Binary32 class mask. -/
def execFclassF32 (w : A64) (s : State) : Out := fclassOp false (formA64 4 13 w) s

/-- R94. Binary32 fused multiply-add with rounding code in op. -/
def execFfmaF32 (rm : BitVec 3) (w : A64) (s : State) : Out := ffmaOp false rm.toNat (formA64 4 (0b010#3 ++ rm) w) s

/-- R94. Binary64 add. -/
def execFaddF64 (w : A64) (s : State) : Out := fpOp2 true false (formA64 6 0 w) Fmt.add s

/-- R94. Binary64 subtract. -/
def execFsubF64 (w : A64) (s : State) : Out := fpOp2 true false (formA64 6 1 w) Fmt.sub s

/-- R94. Binary64 multiply. -/
def execFmulF64 (w : A64) (s : State) : Out := fpOp2 true false (formA64 6 2 w) Fmt.mul s

/-- R94. Binary64 divide, variable latency. -/
def execFdivF64 (w : A64) (s : State) : Out := fpOp2 true true (formA64 6 3 w) Fmt.div s

/-- R95. Binary64 minimumNumber. -/
def execFminF64 (w : A64) (s : State) : Out := fpOp2 true false (formA64 6 7 w) (fun f _ x y => f.minmax false false x y) s

/-- R95. Binary64 maximumNumber. -/
def execFmaxF64 (w : A64) (s : State) : Out := fpOp2 true false (formA64 6 8 w) (fun f _ x y => f.minmax true false x y) s

/-- R95. Binary64 NaN-propagating minimum. -/
def execFminNanF64 (w : A64) (s : State) : Out := fpOp2 true false (formA64 6 9 w) (fun f _ x y => f.minmax false true x y) s

/-- R95. Binary64 NaN-propagating maximum. -/
def execFmaxNanF64 (w : A64) (s : State) : Out := fpOp2 true false (formA64 6 10 w) (fun f _ x y => f.minmax true true x y) s

/-- R94. Binary64 square root, variable latency. -/
def execFsqrtF64 (w : A64) (s : State) : Out := fpOp1 true true (formA64 6 4 w) Fmt.sqrt s

/-- R97. Round binary64 to an integral value. -/
def execFrndF64 (w : A64) (s : State) : Out := fpOp1 true false (formA64 6 5 w) Fmt.rnd s

/-- R96. Clear the binary64 sign bit. -/
def execFabsF64 (w : A64) (s : State) : Out := fpOp1 true false (formA64 6 11 w) (fun f _ x => f.abs x) s

/-- R96. Invert the binary64 sign bit. -/
def execFnegF64 (w : A64) (s : State) : Out := fpOp1 true false (formA64 6 12 w) (fun f _ x => f.neg x) s

/-- R97. Binary64 scale by 2^b. -/
def execLdexpF64 (w : A64) (s : State) : Out := ldexpOp true (formA64 6 6 w) s

/-- R96. Binary64 class mask. -/
def execFclassF64 (w : A64) (s : State) : Out := fclassOp true (formA64 6 13 w) s

/-- R94. Binary64 fused multiply-add. -/
def execFfmaF64 (rm : BitVec 3) (w : A64) (s : State) : Out := ffmaOp true rm.toNat (formA64 6 (0b010#3 ++ rm) w) s

/-- R93. Packed f16x2 or bf16x2 add. -/
def execFaddX2 (bf : BitVec 1) (w : A64) (s : State) : Out := halfOp2 bf (formA64 5 (bf ++ 0#5) w) Fmt.add s

/-- R93. Packed f16x2 or bf16x2 subtract. -/
def execFsubX2 (bf : BitVec 1) (w : A64) (s : State) : Out := halfOp2 bf (formA64 5 (bf ++ 1#5) w) Fmt.sub s

/-- R93. Packed f16x2 or bf16x2 multiply. -/
def execFmulX2 (bf : BitVec 1) (w : A64) (s : State) : Out := halfOp2 bf (formA64 5 (bf ++ 2#5) w) Fmt.mul s

/-- R95. Packed minimumNumber. -/
def execFminX2 (bf : BitVec 1) (w : A64) (s : State) : Out := halfOp2 bf (formA64 5 (bf ++ 7#5) w) (fun f _ x y => f.minmax false false x y) s

/-- R95. Packed maximumNumber. -/
def execFmaxX2 (bf : BitVec 1) (w : A64) (s : State) : Out := halfOp2 bf (formA64 5 (bf ++ 8#5) w) (fun f _ x y => f.minmax true false x y) s

/-- R95. Packed NaN-propagating minimum. -/
def execFminNanX2 (bf : BitVec 1) (w : A64) (s : State) : Out := halfOp2 bf (formA64 5 (bf ++ 9#5) w) (fun f _ x y => f.minmax false true x y) s

/-- R95. Packed NaN-propagating maximum. -/
def execFmaxNanX2 (bf : BitVec 1) (w : A64) (s : State) : Out := halfOp2 bf (formA64 5 (bf ++ 10#5) w) (fun f _ x y => f.minmax true true x y) s

/-- R96. Packed sign clear. -/
def execFabsX2 (bf : BitVec 1) (w : A64) (s : State) : Out := halfOp1 bf (formA64 5 (bf ++ 11#5) w) Fmt.abs s

/-- R96. Packed sign inversion. -/
def execFnegX2 (bf : BitVec 1) (w : A64) (s : State) : Out := halfOp1 bf (formA64 5 (bf ++ 12#5) w) Fmt.neg s

/-- R94. Packed fused multiply-add. -/
def execFfmaX2 (bf : BitVec 1) (rm : BitVec 3) (w : A64) (s : State) : Out := halfFma bf rm.toNat (formA64 5 (bf ++ 0b10#2 ++ rm) w) s

/-- R94. Short two-address binary32 add rounded by frm. -/
def execFaddF32C16 (w : C16) (s : State) : Out := fpOp2 false false (formC16 11 7 false w) Fmt.add s

/-- R94. Short two-address binary32 subtract rounded by frm. -/
def execFsubF32C16 (w : C16) (s : State) : Out := fpOp2 false false (formC16 12 7 false w) Fmt.sub s

/-- R94. Short two-address binary32 multiply rounded by frm. -/
def execFmulF32C16 (w : C16) (s : State) : Out := fpOp2 false false (formC16 13 7 false w) Fmt.mul s

/-- R95. Short two-address binary32 minimumNumber. -/
def execFminF32C16 (w : C16) (s : State) : Out := fpOp2 false false (formC16 14 0 false w) (fun f _ x y => f.minmax false false x y) s

/-- R95. Short two-address binary32 maximumNumber. -/
def execFmaxF32C16 (w : C16) (s : State) : Out := fpOp2 false false (formC16 15 0 false w) (fun f _ x y => f.minmax true false x y) s

/-- R94. B32 binary32 add rounded by frm. -/
def execFaddF32B32 (w : B32) (s : State) : Out := fpOp2 false false (formB32 38 7 false w) Fmt.add s

/-- R94. B32 binary32 subtract rounded by frm. -/
def execFsubF32B32 (w : B32) (s : State) : Out := fpOp2 false false (formB32 39 7 false w) Fmt.sub s

/-- R94. B32 binary32 multiply rounded by frm. -/
def execFmulF32B32 (w : B32) (s : State) : Out := fpOp2 false false (formB32 40 7 false w) Fmt.mul s

/-- R95. B32 binary32 minimumNumber. -/
def execFminF32B32 (w : B32) (s : State) : Out := fpOp2 false false (formB32 42 0 false w) (fun f _ x y => f.minmax false false x y) s

/-- R95. B32 binary32 maximumNumber. -/
def execFmaxF32B32 (w : B32) (s : State) : Out := fpOp2 false false (formB32 43 0 false w) (fun f _ x y => f.minmax true false x y) s

/-- R94. B32 binary32 fused multiply-add with rd as addend. -/
def execFfmaF32B32 (w : B32) (s : State) : Out := ffmaOp false 7 (formB32Acc 41 w) s

/-- R96. B32 clear the sign bit. -/
def execFabsF32B32 (w : B32) (s : State) : Out := fpOp1 false false (formB32 44 0 false w) (fun f _ x => f.abs x) s

/-- R96. B32 invert the sign bit. -/
def execFnegF32B32 (w : B32) (s : State) : Out := fpOp1 false false (formB32 45 0 false w) (fun f _ x => f.neg x) s

/-- R93. B32 packed binary16 add. -/
def execFaddF16x2B32 (w : B32) (s : State) : Out := halfOp2 0 (formB32 46 7 false w) Fmt.add s

/-- R93. B32 packed binary16 multiply. -/
def execFmulF16x2B32 (w : B32) (s : State) : Out := halfOp2 0 (formB32 47 7 false w) Fmt.mul s

/-- R93. B32 packed binary16 fused multiply-add into rd. -/
def execFfmaF16x2B32 (w : B32) (s : State) : Out := halfFma 0 7 (formB32Acc 48 w) s

/-- R93. B32 packed bfloat16 add. -/
def execFaddBf16x2B32 (w : B32) (s : State) : Out := halfOp2 1 (formB32 49 7 false w) Fmt.add s

/-- R93. B32 packed bfloat16 multiply. -/
def execFmulBf16x2B32 (w : B32) (s : State) : Out := halfOp2 1 (formB32 50 7 false w) Fmt.mul s

/-- R93. B32 packed bfloat16 fused multiply-add into rd. -/
def execFfmaBf16x2B32 (w : B32) (s : State) : Out := halfFma 1 7 (formB32Acc 51 w) s

/-- R94. B32 binary64 add on register pairs. -/
def execFaddF64B32 (w : B32) (s : State) : Out := fpOp2 true false (formB32 52 7 false w) Fmt.add s

/-- R94. B32 binary64 multiply on register pairs. -/
def execFmulF64B32 (w : B32) (s : State) : Out := fpOp2 true false (formB32 53 7 false w) Fmt.mul s

/-- R94. B32 binary64 fused multiply-add into rd pair. -/
def execFfmaF64B32 (w : B32) (s : State) : Out := ffmaOp true 7 (formB32Acc 54 w) s

end Sys2Proof.Machine
end

