-- ==== Sys2Proof/Machine/Repairs.lean ====
section
/-!
DEFINITION. Soft errors, poison and patrol scrub (R395 to R397), and the repairs that firmware makes in service (R398, R430).
-/

namespace Sys2Proof.Machine

/-- R395: one more corrected error, which firmware counts. -/
def State.correct (s : State) : State := { s with corrected := s.corrected + 1 }

/-- R395: an error in a register or a fragment's cache ends the team. -/
def registerError (uid : Nat) (s : State) : Out :=
  match s.unit? uid with
  | none => .next s
  | some u =>
    match s.team? u.team with
    | none => .next s
    | some t =>
      if !t.liveAlloc || t.terminated then .next s
      else .next (s.terminate u.team (some uid) { kind := 5, cause := 0, access := 0, reason := 0, addr := 0, pc := u.pc.signExtend 64, lane := u.frag.map fun f => f.lane })

/-- R395: an error in an accumulator tile or the operand latch ends the team. -/
def tileError (ti : Nat) (s : State) : Out :=
  match s.team? ti with
  | none => .next s
  | some t =>
    if !t.liveAlloc || t.terminated then .next s
    else .next (s.terminate ti none { kind := 4, cause := 0, access := 0, reason := 7, addr := 0, pc := 0, lane := none })

/-- R395: an error in a word of a scratchpad or FIFO bank marks it poisoned; a bank of the cache holds no word of its own here. -/
def sramError (cluster addr : Nat) (s : State) : State :=
  match s.bankAt cluster addr with
  | some (_, .cache) => s
  | some _ =>
    let w := sramKey cluster addr / 4
    { s with poisonSram := if s.poisonSram.contains w then s.poisonSram else w :: s.poisonSram }
  | none => s

/-- R395: an error in a cache-mode word: a clean word is fetched again when it is next read, a dirty one is marked. -/
def l1Error (core asid line word : Nat) (s : State) : State :=
  match s.l1Line? core asid line with
  | none => s
  | some l =>
    if l.dirty.getLsbD word then { s with poisonL1 := (core, asid, line * 32 + word) :: s.poisonL1 }
    else s.modL1 core asid line fun x => { x with valid := x.valid &&& ~~~(1#32 <<< word) }

/-- R395: an error in an L2 word: a clean word is fetched again from its tower, a dirty one is marked. -/
def l2Error (asid line word : Nat) (s : State) : State :=
  match s.l2Line? asid line with
  | none => s
  | some b =>
    if b.dirty.getLsbD word ∨ s.poisonMem.contains ((b.pa + 4 * word) / 32) then { s with poisonL2 := (asid, line * 32 + word) :: s.poisonL2 }
    else s.modL2 asid line fun x => { x with data := sset x.data word (s.keyWord x.attr.key (x.pa + 4 * word)) }

/-- R395: an error in a tower sector marks it. -/
def towerError (sector : Nat) (s : State) : State := { s with poisonMem := if s.poisonMem.contains sector then s.poisonMem else sector :: s.poisonMem }

/-- Whether a checked read that is not yet performed takes a word of global memory, or one of cluster SRAM. -/
def State.readPending (s : State) (hit : LaneReq → Bool) : Bool :=
  s.units.any fun u => u.reqs.any fun q =>
    (match q.kind with
      | .load _ => true
      | .atom => true
      | .red => true
      | _ => false) && q.lanes.any fun l => !l.done && l.attr.device.isNone && hit l

def State.spReadPending (s : State) (cluster addr : Nat) : Bool :=
  s.units.any fun u => u.spq.any fun a => a.cluster == cluster &&
    (match a.kind with
      | .load _ => true
      | .atom .. => true
      | _ => false) && a.lanes.any fun l => decide (l.at_ < a.size ∧ l.addr / 4 ≤ addr / 4 ∧ addr / 4 ≤ (l.addr + a.size - 1) / 4)

/-- R27, R115, R396: whether the error of a site would poison a word that a checked read has still to take. It is then found after that read (log entry 101). -/
def State.errorLater (s : State) (site : ErrorSite) : Bool :=
  match site with
  | .sram c a => s.spReadPending c a
  | .l1 _ a l w => s.readPending fun x => x.asid == a && x.va / 32 == l * 4 + w / 8
  | .l2 a l w => s.readPending fun x => x.asid == a && x.va / 32 == l * 4 + w / 8
  | .tower n => s.readPending fun x => x.pa / 32 == n
  | _ => false

/-- R395: an error that is found where it stands. Damaged slice state stops the module for firmware. -/
def softError (site : ErrorSite) (s : State) : Out :=
  if s.errorLater site then .next s
  else match site with
  | .corrected => .next s.correct
  | .register u => registerError u s
  | .tile t => tileError t s
  | .sram c a => .next (sramError c a s)
  | .l1 c a l w => if w < 32 then .next (l1Error c a l w s) else .next s
  | .l2 a l w => if w < 32 then .next (l2Error a l w s) else .next s
  | .sliceState => .next { s with phase := .stopped }
  | .tower n => .next (towerError n s)

/-- R397: scrub corrects or marks what it reads: tower sectors, SRAM and L2 words. It changes no value and raises no trap. -/
def patrolScrub (site : ErrorSite) (s : State) : Out :=
  match site with
  | .register _ => .next s
  | .tile _ => .next s
  | .sliceState => .next s
  | x => softError x s

/-- R430: the repairs in force are recorded for the next reset. -/
def State.recordRepairs (s : State) : State :=
  { s with repairs := { rows := s.sparedRows, lanes := s.sparedLanes, spares := s.spareClusters, channels := s.retiredChannels } }

/-- R398, R430: a row of a tower gives way to a spare one: time only. -/
def rowSparing (tower : Nat) (s : State) : Out :=
  if 16 ≤ tower then .next s else .next { s with sparedRows := s.sparedRows ++ [tower] }.recordRepairs

/-- R430: firmware asks the host through the mailbox to vacate the frames of a tower. Where its words stand there and what they say is left open (log entry 124). -/
def State.askVacate (s : State) (tower : Nat) : State :=
  let a := (Config.free s.free 41).toNat % 512 * 8
  { s.fresh with mailbox := ssetMany s.mailbox a (bytesOf 8 (Config.free s.free 42).toNat), vacating := tower :: s.vacating }

/-- R398, R430: a pseudo-channel is retired once the host, asked before, has vacated the top 1.25 GiB of the tower's frames. Cached lines of those frames go back first, but for a pinned one, which is never evicted (R216). -/
def retireChannel (tower : Nat) (s : State) : Out :=
  if 16 ≤ tower ∨ 63 ≤ (s.retiredChannels.filter fun x => x == tower).length then .next s
  else if !(s.vacated.contains tower) then .next (if s.vacating.contains tower then s else s.askVacate tower)
  else
    let s1 := { s with retiredChannels := s.retiredChannels ++ [tower], vacated := s.vacated.erase tower }
    let lost := s.l2.filter fun b => b.attr.device.isNone && !s1.backed b.pa && !s.pinned b
    .next (lost.foldl (fun (a : State) (b : L2Line) => (a.lineRecall b.asid b.line).evictL2 b.asid b.line) s1).recordRepairs

/-- R430: the host reports the frames of a tower vacated, as firmware has asked. -/
def hostVacates (tower : Nat) (s : State) : Out :=
  if !(s.vacating.contains tower) then .next s
  else .next { s with vacating := s.vacating.erase tower, vacated := tower :: s.vacated.erase tower }

/-- R398: a team is saved and restored onto the spare that takes its cluster's numbers: its regions abort with status 5, its awaited faults are cancelled, its core's L1 is empty, its zero flags are set exactly where its bytes are zero. -/
def State.moveTeam (s : State) (ti : Nat) (t : Team) : State :=
  let s1 := (s.flushPubs ti).cancelFaults ti
  let x := s1.snapshot ti t false none
  (s1.recallContext ((s.ctx? t.ctx).elim 0 fun c => c.entry.asid) t.core).restoreBanks x

/-- R398, R430: a cluster is retired while contexts run: each team on it must be at its save point. A die has two spares (R2). -/
def retireCluster (cluster : Nat) (s : State) : Out :=
  let here := (List.range s.teams.length).filter fun i => (s.team? i).elim false fun t => decide (clusterOf t.core = cluster) && t.liveAlloc
  let s1 := here.foldl State.cancelFaults (here.foldl State.abortTeamRegions s)
  let ready := here.all fun i => (s1.team? i).elim false fun t => t.life == .running && !t.terminated && s1.atSavePoint i t
  if 128 ≤ cluster ∨ 2 ≤ (s.spareClusters.filter fun x => x / 32 == cluster / 32).length ∨ !ready then .next s
  else
    let s2 := ((s1.flushL1 (2 * cluster)).flushL1 (2 * cluster + 1))
    .next { here.foldl (fun (a : State) (i : Nat) => match a.team? i with
      | some t => a.moveTeam i t
      | none => a) s2 with spareClusters := s.spareClusters ++ [cluster] }.recordRepairs

/-- R398, R430: a failing lane of a port gives way to a spare one: time only. -/
def laneSparing (port : Nat) (s : State) : Out :=
  if 12 ≤ port then .next s else .next { s with sparedLanes := s.sparedLanes ++ [port] }.recordRepairs

/-- R395. Detected storage error corrected, refetched or marked poisoned. -/
def execSoftError (site : ErrorSite) (s : State) : Out := softError site s

/-- R397. Periodic scrub read corrects or poisons. -/
def execPatrolScrub (site : ErrorSite) (s : State) : Out := patrolScrub site s

/-- R398. Failing DRAM row remapped to a spare. -/
def execRowSparing (tower : Nat) (s : State) : Out := rowSparing tower s

/-- R398. Tower re-interleaved over 63 channels after the host vacates frames. -/
def execPseudoChannelRetirement (tower : Nat) (s : State) : Out := retireChannel tower s

/-- R398. Teams moved to a spare cluster taking the same numbers. -/
def execClusterRetirement (cluster : Nat) (s : State) : Out := retireCluster cluster s

/-- R398. Failing Jolorlink lane replaced by a spare. -/
def execLaneSparing (port : Nat) (s : State) : Out := laneSparing port s

/-- R430. Host reports frames vacated for a channel retirement. -/
def execHostVacateReply (tower : Nat) (s : State) : Out := hostVacates tower s

end Sys2Proof.Machine
end

