-- ==== Sys2Proof/Machine/Links.lean ====
section
/-!
DEFINITION. Jolorlink (R402 to R413, R429): flits, the send window, replay, audit, training and loss of a link; one time for linked devices; requests of linked devices for memory of this one.
-/

namespace Sys2Proof.Machine

/-- One bit of CRC-32 of IEEE 802.3, in its reflected form. -/
def crcBit (c : W32) : W32 := if c.getLsbD 0 then (c >>> 1) ^^^ 0xEDB88320#32 else c >>> 1

def crcByte (c : W32) (b : Byte) : W32 := (List.range 8).foldl (fun (x : W32) (_ : Nat) => crcBit x) (c ^^^ b.setWidth 32)

/-- R409: CRC-32 over bytes. -/
def crc32 (bs : List Byte) : W32 := ~~~(bs.foldl crcByte 0xFFFFFFFF#32)


/-- R409, Table 23.3: the header of a flit, eight bytes. -/
def flitHeader (f : Flit) : W64 := f.seq ++ f.ack ++ f.cls ++ f.kind ++ f.grant ++ f.first ++ f.last ++ f.zero

/-- R409: the CRC that a flit should carry. -/
def flitCrc (f : Flit) : W32 := crc32 (bytesOf 8 (flitHeader f).toNat ++ f.payload)

/-- R7, R409: a flit that is kept: 52 bytes of payload, a right CRC, no value that is never sent; control flits alone have class 6 (log entry 33). Its zero field is not read. -/
def flitOk (f : Flit) : Bool :=
  f.payload.length == 52 && f.crc == flitCrc f && decide (f.cls.toNat ≤ 6 ∧ f.kind.toNat ≤ 5 ∧ f.grant.toNat ≤ 64) &&
  (f.cls == 6) == (f.kind != 0)

/-- A flit as a port sends it; it returns the window units that are free (R410). -/
def Port.flit (p : Port) (seq : BitVec 12) (cls : BitVec 3) (kind : BitVec 4) (ends : BitVec 1 × BitVec 1) (grant : Nat) (payload : List Byte) : Flit :=
  let f : Flit :=
    { seq := seq, ack := p.ack, cls := cls, kind := kind, grant := BitVec.ofNat 7 grant, first := ends.1, last := ends.2, zero := 0
      payload := payload ++ List.replicate (52 - payload.length) 0, crc := 0 }
  { f with crc := flitCrc f }

/-- Window units granted with a flit: P falls, G rises. -/
def Port.granted (p : Port) (n : Nat) : Port := { p with freed := p.freed - n, sent := p.sent + BitVec.ofNat 16 n }

/-- R411: a flit with the next number, kept for replay; `ends` says whether it is the first and the last of a message. -/
def Port.sendKept (p : Port) (cls : BitVec 3) (kind : BitVec 4) (ends : BitVec 1 × BitVec 1) (payload : List Byte) : Port :=
  let g := min p.freed 64
  let f := p.flit (p.seq + 1) cls kind ends g payload
  { p.granted g with seq := p.seq + 1, replay := p.replay ++ [f], toSend := p.toSend ++ [f] }

/-- R410: the shared units of the window that are free: those held but for two of each class, less the reserved ones in use. -/
def Port.shared (p : Port) : Nat := p.held - (12 - p.taken.foldl (fun (a b : Nat) => a + b) 0)

/-- R410: a data flit, which consumes a unit of the window: a shared one where one is free. -/
def Port.sendData (p : Port) (cls : BitVec 3) (ends : BitVec 1 × BitVec 1) (payload : List Byte) : Port :=
  let q := p.sendKept cls 0 ends payload
  { q with
    consumed := q.consumed + 1, held := q.held - 1, sinceAudit := q.sinceAudit + 1
    taken := if 0 < p.shared then q.taken else modNth (fun n => n + 1) q.taken cls.toNat }

/-- R410: units come back: reserved ones in use first, those of the highest class before others (log entry 120). -/
def Port.refill (p : Port) (n : Nat) : Port :=
  let back (a : List Nat × Nat) (c : Nat) : List Nat × Nat :=
    let k := min a.2 (nth 0 a.1 c)
    (modNth (fun m => m - k) a.1 c, a.2 - k)
  { p with held := p.held + n, taken := ([5, 4, 3, 2, 1, 0].foldl back (p.taken, n)).1 }

/-- A control flit outside the numbering: an idle, a retry request, a time sync. -/
def Port.sendFree (p : Port) (kind : BitVec 4) : Port :=
  let g := min p.freed 64
  { p.granted g with toSend := p.toSend ++ [p.flit (p.seq + 1) 6 kind (0, 0) g []] }

/-- R411: a discarded flit asks for a replay from the number expected, one past the ack. -/
def Port.reject (p : Port) : Port := { p.sendFree 2 with asked := true }

/-- Whether a number is at or before another, modulo 4,096. -/
def seqUpTo (x y : BitVec 12) : Bool := decide ((y - x).toNat < 2048)

/-- R411: flits the peer has received leave the replay buffer; progress ends a row of failed retries. -/
def Port.acknowledge (p : Port) (ack : BitVec 12) : Port :=
  let rest := p.replay.filter fun f => !seqUpTo f.seq ack
  { p with replay := rest, failed := if rest.length < p.replay.length then 0 else p.failed }

/-- R409 to R411: a flit arrives: kept and acted on, discarded with a retry request, or, for a number seen before, dropped. While a replay is asked for, every flit but the one expected is discarded. -/
def Port.receive (p : Port) (f : Flit) (kept : Bool) (k : Port → Port) : Port :=
  if !flitOk f then p.reject
  else if p.asked && !(kept && f.seq == p.ack + 1) then p
  else if kept ∧ f.seq ≠ p.ack + 1 then (if seqUpTo f.seq p.ack then p else p.reject)
  else
    let p1 := p.acknowledge f.ack
    let p2 := { p1.refill f.grant.toNat with received := p1.received + BitVec.ofNat 16 f.grant.toNat }
    k (if kept then { p2 with ack := f.seq, asked := false } else p2)

/-- R410: a data flit takes a buffer; a whole message leaves its buffers. -/
def Port.takeData (f : Flit) (p : Port) : Port :=
  let p1 := { p with inbox := p.inbox ++ [f], occupied := p.occupied + 1 }
  if f.last = 1 then
    let n := (p1.inbox.filter fun x => x.cls == f.cls).length
    { p1 with inbox := p1.inbox.filter fun x => x.cls != f.cls, occupied := p1.occupied - n, freed := p1.freed + n }
  else p1

/-- R411: the sender replays from the number a retry request names. -/
def Port.replayAll (p : Port) : Port := { p with toSend := p.toSend ++ p.replay, failed := p.failed + 1 }

/-- The 16-bit counts of an audit or resync payload. -/
def count16 (f : Flit) (i : Nat) : Nat := natOfBytes ((f.payload.drop (2 * i)).take 2)

/-- R412: T = H + O + P + (G − S), modulo 2^16. -/
def Port.total (p : Port) (f : Flit) : Nat := (count16 f 1 + p.occupied + p.freed + p.sent.toNat + (65536 - count16 f 2)) % 65536

/-- R412: the receiver checks the total and answers with a resync flit where it is not 64: its grant, or the units to discard. -/
def Port.audit (f : Flit) (p : Port) : Port :=
  let t := p.total f
  if t = 64 then p
  else
    let short := 64 - t
    { p with sent := p.sent + BitVec.ofNat 16 short, queue := p.queue ++ [p.flit 0 6 4 (0, 0) short (bytesOf 2 (t - 64))] }

/-- R412: a resync flit's grant has been taken; its discard is taken here. -/
def Port.resync (f : Flit) (p : Port) : Port := { p with held := p.held - count16 f 0 }

/-- R429: whether the ports may carry traffic: a link policy that the host has signed is in force. -/
def State.linksAllowed (s : State) : Bool := !s.linkAllow.isEmpty

/-- A port of the state that is up and may carry traffic, changed (R429). -/
def State.atPort (s : State) (port : Nat) (k : Port → Out) : Out :=
  match nth? s.ports port with
  | some p => if p.up && s.phase == .running && s.linksAllowed then k p else .next s
  | none => .next s

def State.setPort (s : State) (port : Nat) (p : Port) : State := { s with ports := modNth (fun _ => p) s.ports port }

/-- R408: the link that carries a request: a fixed hash of the line over the links to its device. -/
def State.linkFor (s : State) (dev pa : Nat) : Option Nat :=
  let up := (List.range 12).filter fun i => (nth? s.ports i).elim false fun p => p.up && p.peer == dev
  nth? up (Config.homeHash 4096 (pa / 128) % up.length)

/-- R410: whether a port has a window unit for a message of a class: a shared one, or one of the class's own two. -/
def Port.unitFor (p : Port) (cls : BitVec 3) : Bool := decide (0 < p.shared ∨ (0 < p.held ∧ nth 2 p.taken cls.toNat < 2))

/-- R225, R404: a request has left for its device: its completion time counts from here. -/
def State.departed (s : State) (key : Option (Nat × Nat × Nat)) : State :=
  match key with
  | none => s
  | some (uid, seq, lane) =>
    { s.modLane uid seq lane fun m => { m with ctime := s.now } with
      copies := s.copies.map fun c => if c.unit = uid ∧ c.seq = seq ∧ c.next = lane ∧ c.sent.isSome then { c with sent := some s.now } else c }

/-- R411 to R413: whether the first flit of a port's queue may be numbered and sent: there is a place in the replay buffer and, for a data flit, a unit of the window and no audit point due. -/
def Port.mayQueue (p : Port) (f : Flit) : Bool :=
  decide (p.replay.length < 2048) && (f.kind != 0 || (p.unitFor f.cls && decide (p.sinceAudit < 4096)))

/-- It is sent: a resync flit with its own grant, a data flit as one of this link. -/
def Port.sendQueued (p : Port) (f : Flit) : Port :=
  let q := { p with queue := p.queue.drop 1 }
  if f.kind = 0 then q.sendData f.cls (f.first, f.last) f.payload
  else
    let g := q.flit (q.seq + 1) f.cls f.kind (f.first, f.last) f.grant.toNat f.payload
    { q with seq := q.seq + 1, replay := q.replay ++ [g], toSend := q.toSend ++ [g] }

/-- R403: whether this device and another are both in step. -/
def State.withStep (s : State) (dev : Nat) : Bool := s.inStep && !(s.outOfStep.contains dev)

/-- R408, R410, R411: what waits for a device leaves over its link, a data flit at a time, messages of one class in order, while the window, the replay buffer and the audit point allow; a port's own queue goes first. Nothing but an answer leaves for a device that is out of step (R403). Where its fields lie in the payload is left open. -/
def State.pump (s : State) (port : Nat) : State :=
  match nth? s.ports port with
  | none => s
  | some p =>
    match p.queue with
    | f :: _ => if p.mayQueue f then s.setPort port (p.sendQueued f) else s
    | [] =>
      match s.outbox.find? fun x => (x.cls == 5 || s.withStep x.dest) && s.linkFor x.dest x.req.pa == some port && p.unitFor x.cls with
      | none => s
      | some x =>
        if p.replay.length < 2048 ∧ p.sinceAudit < 4096 then
          let payload := (List.range 52).map fun i => (Config.free s.free (64 + i)).setWidth 8
          let last := decide (x.flits ≤ x.gone + 1)
          let q := p.sendData x.cls (if x.gone = 0 then 1 else 0, if last then 1 else 0) payload
          let rest := if last then s.outbox.erase x else s.outbox.map fun y => if y = x then { x with gone := x.gone + 1 } else y
          ({ s.setPort port q with outbox := rest }.departed (if last then x.lane else none)).fresh
        else s

/-- R409 to R411: a flit of a kind arrives at a port. -/
def arrival (port : Nat) (f : Flit) (kind : BitVec 4) (kept : Bool) (k : Port → Port) (s : State) : Out :=
  s.atPort port fun p => if flitOk f && f.kind != kind then .next s else .next ((s.setPort port (p.receive f kept k)).pump port)

/-- R412: after every 4,096 data flits the sender inserts an audit flit with its three counts. -/
def auditPoint (port : Nat) (s : State) : Out :=
  s.atPort port fun p =>
    if p.sinceAudit < 4096 ∨ 2048 ≤ p.replay.length then .next s
    else .next (s.setPort port { p.sendKept 6 3 (0, 0) (bytesOf 2 p.consumed.toNat ++ bytesOf 2 p.held ++ bytesOf 2 p.received.toNat) with sinceAudit := 0 })

/-- R402, R409: a time-sync flit arrives; from its exchange firmware learns how far the reference lies ahead of the master's, and slews it from then on; it is never stepped. The master only keeps its exchanges. -/
def timeSync (port : Nat) (f : Flit) (offset : Int) (s : State) : Out :=
  s.atPort port fun p =>
    if flitOk f && f.kind != 5 then .next s
    else
      let s1 := (s.setPort port (p.receive f false id)).pump port
      .next (if !flitOk f || p.asked then s1 else if s.master = s.deviceId then { s1 with lastSync := s.now } else { s1 with skew := offset, lastSync := s.now })

/-- R401: a time-sync exchange begins on a link. -/
def timeSyncTimer (port : Nat) (s : State) : Out := s.atPort port fun p => .next ((s.setPort port (p.sendFree 5)).pump port)

/-- R409, Table 23.3: training resets the numbers, the acks and the send window of 64 units. Who the peer is, the link itself tells. Training carries no traffic, so it asks for no link policy (R429). -/
def linkTraining (port : Nat) (s : State) : Out :=
  match nth? s.ports port with
  | none => .next s
  | some p =>
    if p.up ∨ !(s.capMap.getLsbD (4 + port)) ∨ s.phase ≠ .running then .next s
    else .next { s.setPort port { Port.reset with up := true, peer := (Config.free s.free 12).toNat % 4095, held := 64 } with free := s.free + 1 }

/-- R413: what a unit has outstanding to a device: the address of its word, its own address and the access of Table 21.5. -/
def Unit.outstanding (u : Unit) (dev : Nat) : Option (W64 × W64 × Nat) :=
  u.reqs.findSome? fun q =>
    let access := match q.kind with
      | .load _ => 1
      | .store => 2
      | .atom => 3
      | .red => 4
      | .prefetch => 15
    if access = 15 then none else (q.lanes.find? fun l => !l.done && l.attr.device == some dev).map fun l => (q.pc, l.ea, access)

/-- R413: what a copy command has still to move to or from a device. -/
def State.copyOutstanding (s : State) (c : CopyCmd) (dev : Nat) : Option (W64 × Nat) :=
  let h := s.engineHome c.team
  ((List.range c.count).drop c.next).findSome? fun i =>
    match s.elemRemote h c i with
    | some (d, _, write) =>
      let a := if write then (c.elem i).2.addr else (c.elem i).1.elim 0 fun e => e.addr
      if d = dev then some (a, if write then 6 else 5) else none
    | none => none

/-- R413: the first operation of a team that is outstanding to a device: its unit, the address of its word, its own address and access. -/
def State.teamOutstanding (s : State) (ti dev : Nat) : Option (Nat × W64 × W64 × Nat) :=
  match (s.teamUnits ti).findSome? fun x => (x.2.outstanding dev).map fun y => (x.1, y) with
  | some r => some r
  | none => s.copies.findSome? fun c => if c.team = ti then (s.copyOutstanding c dev).map fun y => (c.unit, c.pc, y.1, y.2) else none

/-- R413, R414: the messages for a device that has become unreachable are dropped. -/
def State.dropMessages (s : State) (dev : Nat) : Nat → State
  | 0 => s
  | n + 1 =>
    match s.msgs.findIdx? fun m => m.dest == some dev with
    | none => s
    | some k =>
      match nth? s.msgs k with
      | some m => (s.dropMsg k m 4).dropMessages dev n
      | none => s

/-- R403, R413: of these teams, each that has an operation outstanding to a device that has become unreachable ends. -/
def State.endOwing (s : State) (dev : Nat) (ts : List Nat) : State :=
  (ts.filterMap fun t => (s.teamOutstanding t dev).map fun x => (t, x)).foldl (fun (a : State) (x : Nat × Nat × W64 × W64 × Nat) =>
    a.terminate x.1 (some x.2.1) { kind := 4, cause := 0, access := x.2.2.2.2, reason := 5, addr := x.2.2.2.1, pc := x.2.2.1, lane := none }) s

/-- R413: a link goes down: its data flits that are not acknowledged move to another link to the peer, before any later flit, or the peer becomes unreachable. Link-control flits concern the link that is gone (log entry 121). -/
def State.linkDown (s : State) (port : Nat) (p : Port) : State :=
  let s1 := s.setPort port { p with up := false, replay := [], toSend := [], queue := [] }
  match (List.range 12).find? fun i => (nth? s1.ports i).elim false fun q => q.up && q.peer == p.peer with
  | some i => { s1 with ports := modNth (fun q => { q with queue := q.queue ++ (p.replay ++ p.queue).filter fun f => f.kind == 0 }) s1.ports i }
  | none =>
    let s2 := { s1 with outbox := s1.outbox.filter fun x => x.dest != p.peer }.endOwing p.peer (List.range s.teams.length)
    s2.dropMessages p.peer s2.msgs.length

/-- R411, R413: after 16 failed retries firmware retrains a link; the replay buffer is kept. Where that fails the link is down. -/
def linkRetrain (port : Nat) (ok : Bool) (s : State) : Out :=
  s.atPort port fun p =>
    if p.failed < 16 then .next s
    else if ok then .next (s.setPort port { p with failed := 0, asked := false, toSend := p.toSend ++ p.replay })
    else .next (s.linkDown port p)

/-- R403: what has not left for a device that is out of step has not been accepted by its home. Such messages are `State.remoteRing`'s; the teams of such accesses end, as with every device that becomes unreachable (R413; log entry 122). -/
def State.dropUnaccepted (s : State) (dev : Nat) : State :=
  let out := s.outbox.filter fun x => x.dest == dev && x.cls == 2
  let ts := (out.filterMap fun x => x.lane.bind fun k => (s.unit? k.1).map fun u => u.team).eraseDups
  { s with outbox := s.outbox.filter fun x => !out.contains x }.endOwing dev ts

/-- R403: firmware declares a device out of step, unreachable from every other. -/
def outOfStep (dev : Nat) (s : State) : Out :=
  if dev = s.deviceId then
    let away := ((s.outbox.filter fun x => x.cls == 2).map fun x => x.dest).eraseDups
    .next (away.foldl State.dropUnaccepted { s with inStep := false })
  else .next ({ s with outOfStep := dev :: s.outOfStep.erase dev }.dropUnaccepted dev)

/-- R402: a device is in step once firmware can show that its reference lies within 20 ns of the master's, the 2 ns of its own clocks kept back (R223). -/
def inStepAgain (dev : Nat) (s : State) : Out :=
  if dev = s.deviceId then
    (if s.skew ≤ 18 ∧ -18 ≤ s.skew ∧ s.ref ≤ s.now + 18 ∧ s.now ≤ s.ref + 18 then .next { s with inStep := true } else .next s)
  else .next { s with outOfStep := s.outOfStep.erase dev }

/-- R405: system software registers an export window of a context that is registered. -/
def State.registerWindow (s : State) (w : LinkWindow) : State :=
  if s.phase = .running ∧ (s.ctx? w.ctx).elim false (fun c => c.entry.asid == w.asid) then { s with linkWindows := s.linkWindows ++ [w] } else s

/-- R405: the export window that a request of a linked device may use. -/
def State.exportWindow (s : State) (q : RemoteReq) : Option LinkWindow :=
  s.linkWindows.find? fun w => decide (w.pa ≤ q.pa ∧ q.pa + q.size ≤ w.pa + w.bytes) && w.devices.contains q.dev &&
    (if q.kind = 0 then w.read else if q.kind = 1 then w.write else w.read && w.write)

/-- R405 to R407, R410: the answer to a request of a linked device, which leaves as a reply of class 5. -/
def State.reply (s : State) (q : RemoteReq) (answer : RemoteAnswer) (data : BitVec 128) (stamp ctime : Nat) : State :=
  { s with
    replies := s.replies ++ [{ dev := q.dev, answer := answer, data := data, stamp := stamp, ctime := ctime }]
    outbox := s.outbox ++ [{ dest := q.dev, req := q, lane := none, cls := 5 }] }

/-- R396, R405: a request that fails at the home: poison is answered as such; every other request is refused, and a translation fault at the home slice posts a record there. -/
def State.refuseRemote (s : State) (q : RemoteReq) (w : LinkWindow) (a : W64) (reason : Nat) : State :=
  if reason = 7 then s.reply q .poisoned 0 0 0
  else (if reason ≤ 6 then s.homeRecord w.ctx (match q.kind with
    | 0 => 1
    | 1 => 2
    | 5 => 4
    | _ => 3) reason a else s).reply q .refused 0 0 0

/-- R404, R406, R414: a request is an aligned access of 1 to 16 bytes, an advance of a timeline counter, or a message of 16 to 256 bytes for a ring. -/
def requestFormed (q : RemoteReq) : Bool :=
  if q.kind = 3 then q.size == 16 && q.pa % 16 == 0 && q.message.length % 16 == 0 && decide (16 ≤ q.message.length ∧ q.message.length ≤ 256)
  else decide (q.kind ≤ 5) && [1, 2, 4, 8, 16].contains q.size && q.pa % q.size == 0 && (q.kind != 4 || q.size == 8)

/-- R405, R414, R415: the ring agent of a header's home treats a message of a linked device: landed, dropped, ring-full or retry-later. -/
def State.remoteMessage (s : State) (q : RemoteReq) (w : LinkWindow) (a : W64) : State :=
  let m : Msg :=
    { src := 0, pc := 0, seq := 0, lane := 0, ctx := w.ctx, cluster := 0, dest := some s.deviceId, va := va57 a, sram := 0, bytes := q.message, floor := q.floor, tries := 0
      sent := true, phase := .flying }
  match s.ctx? w.ctx, s.globalRing m with
  | some c, .ready r =>
    if s.ringBusy m c r then s
    else match s.fillSlot m c r with
    | .ok s1 => s1.reply q .done 0 0 0
    | .error (some reason) => (s.homeRecord w.ctx 9 reason (m.target + BitVec.ofNat 64 (r.slotAt 0 r.tail))).reply q .retryLater 0 0 0
    | .error none => s.reply q .ringInvalid 0 0 0
  | some _, .full => s.reply q .ringFull 0 0 0
  | some _, .fault reason => (s.homeRecord w.ctx 9 reason a).reply q .ringInvalid 0 0 0
  | _, _ => s.reply q .ringInvalid 0 0 0

/-- R238, R349, R406: the value that an atomic, a reduction or an advance of a linked device writes. -/
def requestValue (q : RemoteReq) (old : BitVec 128) : Option (BitVec 128) :=
  if q.kind = 4 then some ((timelineWord (q.data.setWidth 64 &&& ~~~(1#64 <<< 63)) (q.data.getLsbD 63) (old.setWidth 64)).setWidth 128)
  else (atomNew q.op q.ety old q.data (q.data2.setWidth 128)).1

/-- R405 to R407, R414: a request of a linked device, checked against the export windows and performed at its home. Atomics and reductions are those of Table 13.2. -/
def remoteRequest (q : RemoteReq) (s : State) : Out :=
  if s.phase ≠ .running ∨ !s.linksAllowed ∨ !(s.ports.any fun p => p.up && p.peer == q.dev) ∨ !s.inStep ∨ s.outOfStep.contains q.dev ∨ !requestFormed q then .next s
  else match s.exportWindow q with
  | none => .next (s.reply q .refused 0 0 0)
  | some w =>
    let a := (BitVec.ofNat 57 (w.va + (q.pa - w.pa))).signExtend 64
    if q.kind = 3 then .next (s.remoteMessage q w a)
    else if q.kind ≠ 0 ∧ s.regionBusy w.asid a q.size then .next s
    else if q.kind = 1 then
      match (if q.unc then s.sysWriteUnc w.asid a q.size q.data q.floor else s.sysWrite w.asid a q.size q.data q.floor) with
      | .error r => .next (s.refuseRemote q w a r)
      | .ok (s1, t) => .next (s1.reply q .done 0 0 t)
    else match (if q.unc && q.kind == 0 then s.sysReadUnc w.asid a q.size else s.sysRead w.asid a q.size) with
    | .error r => .next (s.refuseRemote q w a r)
    | .ok (s1, old, stamp) =>
      if q.kind = 0 then .next (s1.reply q .done old stamp 0)
      else
        match requestValue q old with
        | none => .next (s1.reply q .done old stamp 0)
        | some new =>
          match s1.sysWrite w.asid a q.size new q.floor with
          | .error r => .next (s.refuseRemote q w a r)
          | .ok (s2, t) => .next (s2.reply q .done old stamp t)

/-- R429: a link policy that the host signs takes effect. -/
def linkPolicy (p : LinkPolicy) (s : State) : Out :=
  if s.phase ≠ .running then .next s
  else .next (if p.signed then { s with linkAllow := p.allow, master := p.master } else s)

/-- R409. Jolorlink data flit received and checked. -/
def execDataFlit (port : Nat) (f : Flit) (s : State) : Out := arrival port f 0 true (Port.takeData f) s

/-- R409. Idle flit carrying acks and grants received. -/
def execIdleFlit (port : Nat) (f : Flit) (s : State) : Out := arrival port f 1 false id s

/-- R411. Sender replays from the named sequence number. -/
def execRetryRequest (port : Nat) (f : Flit) (s : State) : Out := arrival port f 2 false Port.replayAll s

/-- R412. Every 4,096 data flits the sender inserts an audit flit. -/
def execAuditPoint (port : Nat) (s : State) : Out := auditPoint port s

/-- R412. Receiver checks the send-window total on an audit flit. -/
def execAudit (port : Nat) (f : Flit) (s : State) : Out := arrival port f 3 true (Port.audit f) s

/-- R412. Resync flit grants or discards window units. -/
def execResync (port : Nat) (f : Flit) (s : State) : Out := arrival port f 4 true (Port.resync f) s

/-- R402. Time-sync flit exchanged and reference slewed. -/
def execTimeSync (port : Nat) (f : SyncFlit) (s : State) : Out := timeSync port f.flit f.offset s

/-- R401. Periodic start of a time-sync exchange on each link. -/
def execTimeSyncTimer (port : Nat) (s : State) : Out := timeSyncTimer port s

/-- R411. Link retrained after 16 failed retries in a row. -/
def execLinkRetrain (port : Nat) (ok : Bool) (s : State) : Out := linkRetrain port ok s

/-- R403. Firmware declares a device out of step and unreachable. -/
def execDeviceOutOfStep (dev : Nat) (s : State) : Out := outOfStep dev s

/-- R402. Joining device reaches step with the master. -/
def execDeviceInStep (dev : Nat) (s : State) : Out := inStepAgain dev s

/-- R405. Home port checks an export window and performs a remote request. -/
def execRemoteRequest (q : RemoteReq) (s : State) : Out := remoteRequest q s

/-- R429. Signed link policy written through the mailbox. -/
def execLinkPolicyWrite (p : LinkPolicy) (s : State) : Out := linkPolicy p s

/-- R409. A Jolorlink link trains and comes up. -/
def execLinkTraining (port : Nat) (s : State) : Out := linkTraining port s

end Sys2Proof.Machine
end

