-- ==== Sys2Proof/Machine/System.lean ====
section
/-!
DEFINITION. Special registers, CSRs and relative register access, class 10 (R119 to R124, R374, R375).
-/

namespace Sys2Proof.Machine

/-- R135: the group that a unit belongs to, which keeps its readings of time: a fragment thread's is its parent's. -/
def State.groupOf (s : State) (u : Unit) : Unit :=
  match u.frag with
  | some f => (s.unit? f.parent).getD u
  | none => u

/-- R122: a reading of global time that never falls within a group. -/
def State.timeFor (s : State) (u : Unit) : Nat := max (s.groupOf u).lastTime (s.clock (s.unitClock u))

/-- R121: a reading of the cycle count of a unit's core: it never falls on a core and rises between two readings of a unit; by how much is open (a free value). -/
def State.cycleFor (s : State) (u : Unit) (core : Nat) : Nat :=
  max (sget s.cycles core).toNat ((s.groupOf u).lastCycle + 1) + (Config.free s.free 17).toNat % 2 ^ 32

/-- R121, Table 5.6: a special register as a lane reads it. -/
def State.special (s : State) (u : Unit) (n l : Nat) : W64 :=
  match s.team? u.team with
  | none => 0
  | some t =>
    let grid := match nth? s.grids t.grid with
      | some g => g.number
      | none => 0
    match n with
    | 0 => BitVec.ofNat 64 l
    | 1 => BitVec.ofNat 64 u.gidx
    | 2 => BitVec.ofNat 64 u.width
    | 3 => BitVec.ofNat 64 t.linear
    | 4 => BitVec.ofNat 64 grid
    | 5 => BitVec.ofNat 64 u.role
    | 6 => BitVec.ofNat 64 t.core
    | 7 => BitVec.ofNat 64 (clusterOf t.core)
    | 8 => BitVec.ofNat 64 (dieOf t.core)
    | 9 => BitVec.ofNat 64 (s.deviceId % 4096)
    | 16 => BitVec.ofNat 64 (s.timeFor u)
    | 17 => BitVec.ofNat 64 (s.cycleFor u t.core)
    | _ => match u.frag with
      | some f => f.lanes
      | none => u.active

/-- R121. Write a special register to lanes. -/
def execMovSr (w : A64) (s : State) : Out :=
  let f := formA64 10 0 w
  let n := w.rb.toNat
  let sh := f.shape [] (spanRegs .v w.rd.toNat (if 16 ≤ n then 2 else 1))
  s.issue sh fun uid u =>
    let rows := u.rows sh.guard fun l => (if 16 ≤ n then pairVal (s.special u n l) else [s.special u n l], 0)
    let core := (s.team? u.team).elim 0 fun t => t.core
    let s1 := if n = 17 then { s with cycles := sset s.cycles core (BitVec.ofNat 64 (s.cycleFor u core)) } else s
    let read (x : Unit) : Unit := if n = 16 then { x with lastTime := s.timeFor u } else if n = 17 then { x with lastCycle := s.cycleFor u core } else x
    (s1.retire uid (u.writeVar (laneWrites sh.dsts rows) 0) sh).modUnit (u.root uid) read

/-- R374, Table 21.2: the CSR numbers. -/
def csrListed (n : Nat) : Bool :=
  [0x001, 0x002, 0x003, 0x004, 0x005, 0x006, 0x010, 0x011, 0x012, 0x013, 0x014, 0x020, 0x030, 0x031, 0x0F0].contains n

/-- R31: the CSRs that `csr.wr` may write. -/
def csrWritable (n : Nat) : Bool :=
  [0x001, 0x002, 0x003, 0x004, 0x005, 0x006, 0x011, 0x012, 0x013].contains n

/-- R123, Tables 1.4 and 21.2: the values a CSR takes. -/
def csrLegal (n : Nat) (v : W64) : Bool :=
  match n with
  | 0x002 => decide (v.toNat ≤ 4)
  | 0x003 => decide (v.toNat ≤ 8)
  | 0x004 => decide (v.toNat ≤ 1)
  | 0x005 => decide (v.toNat ≤ 1)
  | 0x006 => decide (64 ≤ v.toNat ∧ v.toNat ≤ 8192)
  | 0x011 => decide (v.toNat < 256)
  | 0x012 => !v.getLsbD 0 && canonical v
  | _ => true

/-- R375, Table 21.3. -/
def State.cap (s : State) : W64 := BitVec.ofNat 64 (s.capMap.toNat + 65536 * (s.spareClusters.length % 16))

/-- Table 21.2: the value of a CSR. -/
def State.csrValue (s : State) (u : Unit) (n : Nat) : W64 :=
  match s.team? u.team with
  | none => 0
  | some t =>
    match n with
    | 0x001 => u.fflags.setWidth 64
    | 0x002 => BitVec.ofNat 64 t.frm
    | 0x003 => BitVec.ofNat 64 t.xthr
    | 0x004 => if t.chk then 1 else 0
    | 0x005 => if t.det then 1 else 0
    | 0x006 => BitVec.ofNat 64 t.lease
    | 0x010 => t.desc.tvec
    | 0x011 => u.tcause.setWidth 64
    | 0x012 => u.tepc
    | 0x013 => u.tval
    | 0x014 => if u.inHandler then 1 else 0
    | 0x020 => BitVec.ofNat 64 u.wct
    | 0x030 => match s.ctx? t.ctx with
      | some c => BitVec.ofNat 64 c.entry.prelim
      | none => 0
    | 0x031 => match s.ctx? t.ctx with
      | some c => BitVec.ofNat 64 c.entry.farto
      | none => 0
    | _ => s.cap

/-- Table 21.2: a CSR of the group takes a value. -/
def Unit.putCsr (u : Unit) (n : Nat) (v : W64) : Unit :=
  match n with
  | 0x001 => { u with fflags := v.setWidth 5 }
  | 0x011 => { u with tcause := v.setWidth 8 }
  | 0x012 => { u with tepc := v }
  | 0x013 => { u with tval := v }
  | _ => u

/-- R31: a CSR of the group takes a value, also when a thread of its fragment writes it (R135): the thread's own flags are earlier ones of the group (R23). -/
def State.putGroupCsr (s : State) (u : Unit) (n : Nat) (v : W64) : State :=
  match u.frag with
  | none => s
  | some f => s.modUnit f.parent fun p => p.putCsr n v

/-- Table 21.2: a CSR of the team takes a value. -/
def Team.putCsr (t : Team) (n : Nat) (v : W64) : Team :=
  match n with
  | 0x002 => { t with frm := v.toNat }
  | 0x003 => { t with xthr := v.toNat }
  | 0x004 => { t with chk := v.getLsbD 0 }
  | 0x005 => { t with det := v.getLsbD 0 }
  | 0x006 => { t with lease := v.toNat }
  | _ => t

/-- R23: the flags of fixed latency that are still in their windows, accumulated. -/
def Unit.landFlags (u : Unit) : Unit :=
  let fl := u.win.filter fun e => e.kind == .fl
  fl.foldl (fun (a : Unit) (e : PendWrite) => a.put ⟨.fl, 0, e.vals⟩) { u with win := u.win.filter fun e => e.kind != .fl }

/-- R23, R75: the flags of matrix commands that an unordered access to `fflags` finds there, each bit by a free value, and those that land after it. -/
def landSome (free : Nat) : Nat → List (Nat × Flags) → Flags × List (Nat × Flags)
  | _, [] => (0, [])
  | i, x :: xs =>
    let seen := x.2 &&& (Config.free free (131072 + i)).setWidth 5
    let r := landSome free (i + 1) xs
    (seen ||| r.1, if x.2 &&& ~~~seen = 0 then r.2 else (x.1, x.2 &&& ~~~seen) :: r.2)

/-- R23, R75: the next access to `fflags` finds other free values. -/
def State.nextSight (s : State) (n : Nat) : State := if n = 1 then s.fresh else s

/-- R23: a unit at its access to `fflags`. -/
def State.seeFlags (s : State) (u : Unit) : Unit :=
  let v := u.landFlags
  let r := landSome s.free 0 v.mflags
  { v with fflags := v.fflags ||| r.1, mflags := r.2 }

/-- R23: whether an access to `fflags` waits for a result of variable latency. -/
def Unit.flagsPending (u : Unit) : Bool := u.vars.any fun v => v.flags != 0

/-- The shape of a CSR word: exempt from R155 in a handler (R124). -/
def csrShape (f : Form) (srcs : List Src) (dsts : List (RegKind × Nat)) : Shape := { f.shape srcs dsts with csr := true }

/-- R123. Read a CSR into a uniform register. -/
def execCsrRd (w : AI) (s : State) : Out :=
  let n := w.imm.toNat % 4096
  let sh := csrShape (formAI 10 1 w) [] [(.u, w.rd.toNat)]
  s.issue sh fun uid u =>
    if !csrListed n then s.raise uid u sh.len 0x03 (BitVec.ofNat 64 n)
    else if n = 1 && u.flagsPending then s.waits uid u .scoreboard
    else
      let u1 := if n = 1 then s.seeFlags u else u
      (s.nextSight n).retire uid (u1.writeVar [⟨.u, w.rd.toNat, [(0, s.csrValue u1 n)]⟩] 0) sh

/-- R31, R123. Write a CSR from a uniform register. Whether the value is legal is judged last, after the checks before a word's own causes and after privilege (log entry 125). -/
def execCsrWr (w : AI) (s : State) : Out :=
  let n := w.imm.toNat % 4096
  let sh := csrShape (formAI 10 2 w) [.uni w.rd.toNat 1] []
  s.issue sh fun uid u =>
    let v := u.uget w.rd.toNat
    if !csrListed n || !csrWritable n then s.raise uid u sh.len 0x03 (BitVec.ofNat 64 n)
    else if !csrLegal n v then s.raise uid u sh.len 0x01 sh.raw
    else if n = 1 && u.flagsPending then s.waits uid u .scoreboard
    else
      let u1 := if n = 1 then s.seeFlags u else u
      (((s.nextSight n).retire uid (u1.putCsr n v) sh).putGroupCsr u n v).modTeam u.team fun t => t.putCsr n v

/-- R120: every window of a vector register lands. -/
def Unit.landVectors (u : Unit) : Unit :=
  let vs := u.win.filter fun e => e.kind == .v
  vs.foldl (fun (a : Unit) (e : PendWrite) => a.put ⟨.v, e.idx, e.vals⟩) { u with win := u.win.filter fun e => e.kind != .v }

/-- R119: the register number a lane computes. -/
def State.relIndex (s : State) (u : Unit) (x : Src) (base l : Nat) : Int := (base : Int) + (s.arg32 u x l).toInt

/-- R119, R120: the checks of relative register access: the lowest lane whose number is out of range traps, every earlier write to a vector register is awaited, and a fragment thread pulls the register it reaches. The word goes on with every window of a vector register landed. -/
def relOp (sh : Shape) (x : Src) (base : Nat) (k : Nat → Unit → Unit → State) (s : State) : Out :=
  s.issue sh fun uid u =>
    match (u.guardedLanes sh.guard).find? fun l =>
      decide (s.relIndex u x base l < 0 ∨ (u.budget : Int) ≤ s.relIndex u x base l) with
    | some l => s.raise uid u sh.len 0x05 (BitVec.ofInt 64 (s.relIndex u x base l))
    | none =>
      if u.pendingRegs.any fun r => r.1 == .v then s.waits uid u .scoreboard
      else
        let v := u.landVectors
        match sh.pulls v, v.frag with
        | some r, _ => s.waits uid v (.pull r)
        | none, none => k uid u v
        | none, some f =>
          match (u.guardedLanes sh.guard).find? fun l => !(f.cache.any fun c => c.1 == (s.relIndex u x base l).toNat) with
          | some l => s.waits uid v (.pull (s.relIndex u x base l).toNat)
          | none => k uid u v

/-- R119. Read the vector register whose per-lane number is computed. -/
def execRget (w : A64) (s : State) : Out :=
  let x := srcOf w.pa w.ra 1
  let sh := (formA64 10 3 w).shape [x] [(.v, w.rd.toNat)]
  relOp sh x w.rb.toNat (fun uid u u1 =>
    let rows := u.rows sh.guard fun l => ([(u1.vget (s.relIndex u x w.rb.toNat l).toNat l).setWidth 64], 0)
    s.retire uid (u1.writeVar (laneWrites sh.dsts rows) 0) sh) s

/-- R119. Write the vector register whose per-lane number is computed. -/
def execRput (w : A64) (s : State) : Out :=
  let x := srcOf w.pa w.ra 1
  let sh := (formA64 10 4 w).shape [x, .settled w.rd.toNat] []
  relOp sh x w.rb.toNat (fun uid u u1 =>
    let lanes := u.guardedLanes sh.guard
    let num (l : Nat) : Nat := (s.relIndex u x w.rb.toNat l).toNat
    let vals := lanes.map fun l => (l, (u1.vget w.rd.toNat l).setWidth 64)
    let u2 := vals.foldl (fun (a : Unit) (v : Nat × W64) => a.put ⟨.v, num v.1, [v]⟩) u1
    (s.retire uid u2 sh).markDirty uid (lanes.map num)) s

/-- R21, R23: a result of variable latency is written, and its flags accumulate. -/
def landResult (uid k : Nat) (s : State) : Out :=
  match s.unit? uid with
  | none => .next s
  | some u =>
    match nth? u.vars k with
    | none => .next s
    | some v =>
      .next (s.landWrites uid { u with vars := dropNth u.vars k, fflags := u.fflags ||| v.flags } v.writes)

/-- R21. A variable-latency result is written. -/
def execVariableLatencyResult (u k : Nat) (s : State) : Out := landResult u k s

end Sys2Proof.Machine
end

