-- ==== Sys2Proof/Machine/HostPort.lean ====
section
/-!
DEFINITION. The host port and the module's firmware (R207, R418 to R421, R426 to R429): host reads and writes, host windows, BAR0 registers, keys, attestation, module reset and the governor.
-/

namespace Sys2Proof.Machine

/-- R419: words of a line fetched from an owner for a host access, and the words of the line as the host then sees them. -/
def State.hostLine (s : State) (pa len : Nat) : State × (Nat → W32) :=
  match s.directory pa with
  | none => (s, fun i => s.memWord (pa / 128 * 128 + 4 * i))
  | some b =>
    let mask := BitVec.ofNat 32 ((2 ^ ((pa + len - 1) / 4 - pa / 4 + 1) - 1) * 2 ^ (pa % 128 / 4))
    let s1 := s.fetchOwner b.asid b.line mask
    (s1, s1.sliceWord b.asid b.line)

/-- A host access lies in one line of tower memory of a module that runs. -/
def State.hostReaches (s : State) (pa len : Nat) : Bool :=
  s.phase == .running && decide (0 < len ∧ pa % 128 + len ≤ 128 ∧ pa + len ≤ towerEnd)

/-- R418 to R420: a host read; the host receives its data. -/
def hostRead (pa len : Nat) (s : State) : Out :=
  if !s.hostReaches pa len then .next s
  else
    let r := s.hostLine pa len
    let byte (i : Nat) : Byte := (r.2 ((pa % 128 + i) / 4)).extractLsb' (8 * ((pa + i) % 4)) 8
    .next { r.1 with hostData := (List.range len).map byte }.fresh

/-- R215, R419: whether the line of a frame carries the mark of some context's sealed range. -/
def State.sealedFrame (s : State) (pa : Nat) : Bool :=
  s.contexts.any fun c => c.sealed.any fun r => c.marks.any fun m =>
    m.1 == r.1 && m.2.2 == pa / 65536 && lineIn r.1 r.2 ((m.2.1 * 65536 + pa % 65536) / 128)

/-- R419: the write of some bytes of a line, word by word: those that fall in word `i`, and where they begin. -/
def hostPiece (pa : Nat) (bs : List Byte) (i : Nat) : Nat × List Byte :=
  let lo := max pa (pa / 4 * 4 + 4 * i)
  let hi := min (pa + bs.length) (pa / 4 * 4 + 4 * i + 4)
  (lo, (List.range (hi - lo)).map fun j => nth 0 bs (lo - pa + j))

/-- R259, R419: one word of the host's write `k`: performed, or held beside a region's words and behind what is held there already. -/
def State.hostWord (s : State) (k : Nat) (p : Nat × List Byte) : State :=
  let w : Deferred := ⟨4096, 0, p.2.length, BitVec.ofNat 128 (natOfBytes p.2), 0, false, some (p.1, k)⟩
  if s.stillHeld w || s.deferred.any w.behind then { s with deferred := s.deferred ++ [w] } else s.performDeferred w

/-- R418 to R420: a host write: dropped and counted in a sealed range, else performed word by word. Its completion is returned once global time has passed its completion time (`State.hostReturned`). -/
def hostWrite (pa : Nat) (bs : List Byte) (s : State) : Out :=
  if !s.hostReaches pa bs.length then .next s
  else if s.sealedFrame (pa / 128 * 128) then
    .next { s with
      sealedDrops := if s.sealedDrops = BitVec.allOnes 64 then s.sealedDrops else s.sealedDrops + 1
      hostWrites := s.hostWrites ++ [⟨0, 0, frontSlice pa⟩] }
  else
    let n := (pa + bs.length - 1) / 4 - pa / 4 + 1
    let s1 := { s with hostWrites := s.hostWrites ++ [⟨n, 0, frontSlice pa⟩] }
    .next ((List.range n).foldl (fun (a : State) (i : Nat) => a.hostWord s.hostWrites.length (hostPiece pa bs i)) s1)

/-- R419: whether the completion of the host's write `k` has been returned. -/
def State.hostReturned (s : State) (k : Nat) : Bool :=
  (nth? s.hostWrites k).elim false fun h => h.held == 0 && (h.ctime == 0 || s.passed (sliceClock h.slice) h.ctime)

/-- R421, Table 24.2: a part of a host window: device base, length, host base, control. -/
def HostWindow.set (w : HostWindow) (part : Nat) (v : W64) : HostWindow :=
  match part with
  | 0 => { w with base := v }
  | 1 => { w with len := v }
  | 2 => { w with host := v }
  | _ => { w with ctl := v &&& 3 }

/-- R421: a write to a window register takes effect for every access translated after it. -/
def windowWrite (k part : Nat) (v : W64) (s : State) : Out :=
  if 16 ≤ k ∨ 4 ≤ part ∨ s.phase ≠ .running then .next s
  else .next { s with windows := modNth (fun w => { w.set part v with since := s.seq }) s.windows k }

/-- R421: whether an access translated under an old value of a window is still to be performed. -/
def State.windowBusy (s : State) (k : Nat) : Bool :=
  s.units.any fun u => u.reqs.any fun q => decide (q.seq < (nth? s.windows k).elim 0 fun w => w.since) && q.lanes.any fun l =>
    !l.done && l.attr.host.isSome && l.attr.window == k

/-- Table 24.2: a part of a window as it reads back: a window out of its bounds reads enable 0. -/
def HostWindow.get (w : HostWindow) (part : Nat) : W64 :=
  match part with
  | 0 => w.base
  | 1 => w.len
  | 2 => w.host
  | _ => if w.ok then w.ctl else w.ctl &&& 2

/-- R6, R420, Tables 24.1 and 24.4: the eight bytes that a BAR0 offset reads: a write-only register and an offset without contents read zero. -/
def State.registerRead (s : State) (off : Nat) : W64 :=
  if off = 0 then s.identity
  else if off = 8 then s.cap
  else if off = 0x10 then s.sealedDrops
  else if off = 0x18 then (if s.inStep then 1 else 0) + (if s.master = s.deviceId then 2 else 0)
  else if 0x10000 ≤ off ∧ off < 0x10200 then (nth? s.windows ((off - 0x10000) / 32)).elim 0 fun w => w.get (off % 32 / 8)
  else if 0x20000 ≤ off ∧ off < 0x24000 then
    let d := s.doorbell ((off - 0x20000) / 64)
    match off % 64 with
    | 0x10 => d.saveArea
    | 0x18 => d.saveSize
    | 0x20 => BitVec.ofNat 64 d.status
    | _ => 0
  else if 0x30000 ≤ off ∧ off < 0x31000 then BitVec.ofNat 64 (natOfBytes (sgetMany s.mailbox (off - 0x30000) 8))
  else 0

/-- R420, R421: the host reads eight bytes of BAR0. A window reads back once every access translated under its old value has been performed. -/
def State.hostRegister (s : State) (off : Nat) : State :=
  if off % 8 ≠ 0 ∨ 2 ^ 26 ≤ off ∨ s.phase = .stopped ∨ (0x10000 ≤ off ∧ off < 0x10200 ∧ s.windowBusy ((off - 0x10000) / 32)) then s
  else { s with hostData := bytesOf 8 (s.registerRead off).toNat }

/-- R420, Tables 24.1 and 24.4: an 8-byte write to a BAR0 offset without a behaviour of its own: a save-area or save-size register, the mailbox, or an offset that ignores it. -/
def registerWrite (off : Nat) (v : W64) (s : State) : Out :=
  if off % 8 ≠ 0 ∨ 2 ^ 26 ≤ off ∨ s.phase = .stopped then .next s
  else if 0x10000 ≤ off ∧ off < 0x10200 then .next s
  else if 0x20000 ≤ off ∧ off < 0x24000 then
    let slot := (off - 0x20000) / 64
    match off % 64 with
    | 0x00 => .next s
    | 0x08 => .next s
    | 0x10 => .next (s.setDoorbell slot fun d => { d with saveArea := v })
    | 0x18 => .next (s.setDoorbell slot fun d => { d with saveSize := v })
    | _ => .next s
  else if 0x30000 ≤ off ∧ off < 0x31000 then .next { s with mailbox := ssetMany s.mailbox (off - 0x30000) (bytesOf 8 v.toNat) }
  else .next s

/-- R428: an attestation report answers a host nonce of 32 bytes. -/
def attest (nonce : List Byte) (s : State) : Out :=
  if nonce.length ≠ 32 ∨ s.phase ≠ .running then .next s
  else .next { s with report := some { firmware := s.firmware.measure, config := s.config.measure, nonce := nonce, signer := s.identity } }

/-- R207: firmware loads one of the 64 tower keys, the data half in the low bits; no interface reads it back. -/
def keyLoad (slot : Nat) (key : BitVec 512) (s : State) : Out :=
  if 64 ≤ slot ∨ s.phase ≠ .running then .next s
  else .next { s with keys := (slot, key) :: s.keys.filter fun k => k.1 != slot }

/-- R426, R427: whether a firmware image and a configuration record verify and agree. -/
def recordVerifies (c : ConfigRecord) : Bool := c.rsaOk && c.slhOk

def bootOk (f : Firmware) (c : ConfigRecord) : Bool := recordVerifies c && f.rsaOk && f.slhOk && decide (c.minVersion ≤ f.version)

/-- R430: what a record supplies and what has been recorded since: one after another, nothing twice. -/
def mergeRepairs (found recorded : List Nat) : List Nat := found ++ found.foldl List.erase recorded

/-- R426, R427, R430: module reset: the image runs when everything verifies, else the module is in recovery. The repairs recorded since are part of the record (log entry 112). Time goes on, and the host's memory and the mask-programmed identity stay. -/
def moduleReset (f : Firmware) (c : ConfigRecord) (s : State) : State :=
  let ok := recordVerifies c
  { State.reset with
    agenda := s.agenda, focus := s.focus, free := s.free, seq := s.seq, tick := s.tick, now := s.now, ref := s.ref, inStep := s.inStep, skew := s.skew, lastSync := s.lastSync, hostMem := s.hostMem, identity := s.identity
    deviceId := s.deviceId, firmware := f, config := c, phase := if bootOk f c then .running else .recovery
    capMap := if ok then c.capMap else 0, spareClusters := if ok then mergeRepairs c.spares s.repairs.spares else []
    retiredChannels := if ok then mergeRepairs c.retired s.repairs.channels else []
    sparedRows := if ok then s.repairs.rows else [], sparedLanes := if ok then s.repairs.lanes else [], repairs := s.repairs }

/-- R429: above 115 °C the module stops, and its links are down. -/
def thermalStop (s : State) : State := { s with phase := .stopped, ports := s.ports.map fun (p : Port) => { p with up := false } }

/-- R419. Host read performed through the frame directory. -/
def execHostRead (pa len : Nat) (s : State) : Out := hostRead pa len s

/-- R419. Host write performed through the frame directory. -/
def execHostWrite (pa : Nat) (bytes : List (BitVec 8)) (s : State) : Out := hostWrite pa bytes s

/-- R421. Host window register write taking effect after old accesses drain. -/
def execHostWindowWrite (k part : Nat) (value : BitVec 64) (s : State) : Out := windowWrite k part value s

/-- R420. Write to a BAR0 register with no behaviour of its own. -/
def execRegisterWrite (off : Nat) (value : BitVec 64) (s : State) : Out := registerWrite off value s

/-- R428. Signed measurement report answering a host nonce. -/
def execAttestationReport (nonce : List (BitVec 8)) (s : State) : Out := attest nonce s

/-- R207. Firmware loads a tower encryption key slot. -/
def execKeyLoad (k : KeySlot) (s : State) : Out := keyLoad k.slot k.key s

/-- R426. Mask ROM verifies firmware and configuration at reset. -/
def execModuleReset (fw : Firmware) (cfg : ConfigRecord) (s : State) : Out := .next (moduleReset fw cfg s)

/-- R429. Governor lowers clocks to keep power and temperature limits: time only. -/
def execThermalThrottle (level : Nat) (s : State) : Out := .next { s with throttle := level }

/-- R429. Above 115 °C the module stops. -/
def execThermalShutdown (s : State) : Out := .next (thermalStop s)

end Sys2Proof.Machine
end

