-- ==== Sys2Proof/Machine/Regions.lean ====
section
/-!
DEFINITION. Region instructions, class 18 (R247, R253, R257, R291 to R293).
-/

namespace Sys2Proof.Machine

/-- R155: the status register of the open region of the unit in focus. -/
def State.regionStatusReg (s : State) : Nat :=
  match ((s.focus.bind s.unit?).bind fun u => u.region).bind fun r => s.regions.find? fun x => x.id == r with
  | some r => r.statusReg
  | none => 0

/-- Table 12.2: the regions of a die. -/
def State.dieRegions (s : State) (die : Nat) : Nat := (s.regions.filter fun r => r.die == die).length

/-- R247, R291. Open a region with a handler and a status register. -/
def execFarBegin (w : AI) (s : State) : Out :=
  let sh := { (formAI 18 0 w).shape [] [] with named := [w.rd.toNat] }
  s.issueGlobal sh fun uid u =>
    match u.region.bind fun r => s.regions.find? fun x => x.id == r with
    | some r => s.raise uid u sh.len 0x14 (r.handler.signExtend 64)
    | none =>
      let die := dieOf (s.unitCore u)
      if 256 ≤ s.dieRegions die then s.waits uid u .counter
      else
        let id := s.regionCount
        let r : Region :=
          { id := id, unit := uid, die := die, handler := (u.offsetOf w.imm).setWidth 57, statusReg := w.rd.toNat, opened := s.now
            pending := none, linesRead := [], linesWritten := [] }
        let s1 := s.retire uid { u with region := some id } sh
        { s1 with regions := s1.regions ++ [r], regionCount := id + 1 }

/-- R253, R292. Wait for the region's accesses and predecessors, commit, and write status 0. -/
def execFarEnd (w : A64) (s : State) : Out :=
  let sh := (formA64 18 1 w).shape [] [(.u, w.rd.toNat)]
  s.issueGlobal sh fun uid u =>
    match u.region with
    | none => s.retire uid (u.writeVar [⟨.u, w.rd.toNat, [(0, 0)]⟩] 0) sh
    | some _ =>
      if u.count .ld ≠ 0 ∨ u.count .st ≠ 0 ∨ u.count .at_ ≠ 0 then s.waits uid u .counter
      else s.waits uid u (.farEnd w.rd.toNat (u.pc + 8) (u.step + 1 + sh.stall))

/-- R257, R293. Abort the open region with status 6. -/
def execFarAbort (w : A64) (s : State) : Out :=
  let sh := { (formA64 18 2 w).shape [] [] with named := [s.regionStatusReg] }
  s.issue sh fun uid u =>
    let s1 := s.retire uid u sh
    match u.region with
    | none => s1
    | some r => s1.abortRegion r 6

/-- Table 13.6: the state of a group's region. -/
def State.regionStat (s : State) (u : Unit) : W64 :=
  match u.region.bind fun r => s.regions.find? fun x => x.id == r with
  | none => 0
  | some r =>
    let es := s.edges.filter fun e => e.stalled.isNone
    let preds := (es.filter fun e => e.dst == r.id).length
    BitVec.ofNat 64 (r.linesRead.length * 2 ^ 40 + r.linesWritten.length * 2 ^ 32 + depthOf es 6 r.id * 2 ^ 12 + preds * 2 ^ 8 +
      (r.pending.getD 0) * 16 + (if r.pending.isSome then 2 else 0) + 1)

/-- R257, R293. Read the state of the group's region without waiting. -/
def execFarStat (w : A64) (s : State) : Out :=
  let sh := (formA64 18 3 w).shape [] [(.u, w.rd.toNat)]
  s.issue sh fun uid u => s.retire uid (u.writeVar [⟨.u, w.rd.toNat, [(0, s.regionStat u)]⟩] 0) sh

end Sys2Proof.Machine
end

