-- ==== Sys2Proof/Machine/Scalar.lean ====
section
/-!
DEFINITION. The scalar pipe, class 11 and its B32 forms (R164, R165, R167).
-/

namespace Sys2Proof.Machine

/-- R164: the second source of a scalar-pipe word. -/
def uniB (w : A64) : Src := if w.pb = 2 then .imm w.rb else .uni w.rb.toNat 1

/-- R155, R164: the shape of a scalar-pipe word. -/
def pipeShape (f : Form) (srcs : List Src) (dsts : List (RegKind × Nat)) : Shape := { f.shape srcs dsts with pipe := true }

/-- R164: an operation that computes once for the group and writes s[rd], L = 2. -/
def scalarOp (f : Form) (srcs : List Src) (op : State → Unit → W64) (s : State) : Out :=
  let sh := pipeShape f srcs [(.u, f.w.rd.toNat)]
  s.issue sh fun uid u => s.retire uid (u.writeFixed 2 [⟨.u, f.w.rd.toNat, [(0, op s u)]⟩] 0) sh

/-- Table 8.1: a 2R form. -/
def scalarOp2 (f : Form) (op : W64 → W64 → W64) (s : State) : Out :=
  let a := Src.uni f.w.ra.toNat 1
  let b := uniB f.w
  scalarOp f [a, b] (fun s u => op (s.arg64 u a 0) (s.arg64 u b 0)) s

/-- Table 8.1: a 1R form. -/
def scalarOp1 (f : Form) (op : W64 → W64) (s : State) : Out :=
  let a := Src.uni f.w.ra.toNat 1
  scalarOp f [a] (fun s u => op (s.arg64 u a 0)) s

/-- R165: the truth of a scalar compare; types 0 and 1 compare bits `[31:0]`. -/
def scalarCmp (cc ty : Nat) (a b : W64) : Bool :=
  if 2 ≤ ty then cmpInt cc (ty % 2 == 0) a b else cmpInt cc (ty % 2 == 0) (a.setWidth 32) (b.setWidth 32)

/-- R165. Scalar compare written to a predicate in every active lane. -/
def execSCmp (w : A64) (s : State) : Out :=
  let f := formA64 11 11 w
  let a := Src.uni w.ra.toNat 1
  let b := uniB w
  let p := w.rd.toNat % 8
  let sh := pipeShape f [a, b] [(.p, p)]
  s.issue sh fun uid u =>
    let v := boolVal (scalarCmp (w.rc.toNat % 8) (w.rc.toNat / 8) (s.arg64 u a 0) (s.arg64 u b 0))
    s.retire uid (u.writeFixed 2 [⟨.p, p, u.activeLanes.map fun l => (l, v)⟩] 0) sh

/-- R165. Select between uniform values by a predicate that has one value over the active lanes. -/
def execSSel (w : A64) (s : State) : Out :=
  let f := formA64 11 12 w
  let a := Src.uni w.ra.toNat 1
  let b := uniB w
  let p := w.rc.toNat % 8
  let sh := pipeShape f [a, b, .pred p] [(.u, w.rd.toNat)]
  s.issue sh fun uid u =>
    let t := u.active &&& (if w.rc.getLsbD 3 then ~~~(u.pmask p) else u.pmask p)
    if t ≠ 0 ∧ t ≠ u.active then s.raise uid u sh.len 0x0D t
    else
      let v := if t = 0 then s.arg64 u b 0 else s.arg64 u a 0
      s.retire uid (u.writeFixed 2 [⟨.u, w.rd.toNat, [(0, v)]⟩] 0) sh

/-- R167. Read one lane of a vector register into a uniform register. -/
def execSRdl (w : A64) (s : State) : Out :=
  let x := Src.lane w.ra.toNat w.rb.toNat
  let sh := pipeShape (formA64 11 14 w) [x] [(.u, w.rd.toNat)]
  s.issue sh fun uid u => s.retire uid (u.writeVar [⟨.u, w.rd.toNat, [(0, (s.arg32 u x 0).setWidth 64)]⟩] 0) sh

/-- R164. Scalar 64-bit add. -/
def execSAdd (w : A64) (s : State) : Out := scalarOp2 (formA64 11 0 w) (fun a b => a + b) s

/-- R164. Scalar 64-bit subtract. -/
def execSSub (w : A64) (s : State) : Out := scalarOp2 (formA64 11 1 w) (fun a b => a - b) s

/-- R164. Scalar 64-bit multiply. -/
def execSMul (w : A64) (s : State) : Out := scalarOp2 (formA64 11 2 w) (fun a b => a * b) s

/-- R164. Scalar AND. -/
def execSAnd (w : A64) (s : State) : Out := scalarOp2 (formA64 11 3 w) (fun a b => a &&& b) s

/-- R164. Scalar OR. -/
def execSOr (w : A64) (s : State) : Out := scalarOp2 (formA64 11 4 w) (fun a b => a ||| b) s

/-- R164. Scalar XOR. -/
def execSXor (w : A64) (s : State) : Out := scalarOp2 (formA64 11 5 w) (fun a b => a ^^^ b) s

/-- R164. Scalar left shift. -/
def execSShl (w : A64) (s : State) : Out := scalarOp2 (formA64 11 6 w) (fun a b => a <<< (b.toNat % 64)) s

/-- R164. Scalar logical right shift. -/
def execSShr (w : A64) (s : State) : Out := scalarOp2 (formA64 11 7 w) (fun a b => a >>> (b.toNat % 64)) s

/-- R164. Scalar arithmetic right shift. -/
def execSSar (w : A64) (s : State) : Out := scalarOp2 (formA64 11 8 w) (fun a b => a.sshiftRight (b.toNat % 64)) s

/-- R164. Scalar load of a sign-extended 32-bit immediate. -/
def execSLi (w : AI) (s : State) : Out := scalarOp (formAI 11 9 w) [] (fun _ _ => w.imm.signExtend 64) s

/-- R164. Scalar register copy. -/
def execSMov (w : A64) (s : State) : Out := scalarOp1 (formA64 11 10 w) (fun a => a) s

/-- R164. B32 scalar-pipe add of two uniform registers. -/
def execSAddB32 (w : B32) (s : State) : Out := scalarOp2 (formB32 61 0 false w) (fun a b => a + b) s

/-- R164. B32 scalar-pipe add of a uniform register and an immediate. -/
def execSAddImmB32 (w : B32) (s : State) : Out := scalarOp2 (formB32 62 0 true w) (fun a b => a + b) s

/-- R164. B32 scalar-pipe uniform register copy. -/
def execSMovB32 (w : B32) (s : State) : Out := scalarOp1 (formB32 63 0 false w) (fun a => a) s

end Sys2Proof.Machine
end

