-- ==== Sys2Proof/Machine/Dispatch.lean ====
section
/-!
DEFINITION. The meaning of every constructor of `Instr`, one arm each.
-/

namespace Sys2Proof.Machine

/-- One direct call of a meaning for each instruction and each step of an agent. -/
def exec (i : Instr) (s : State) : Host.Outcome State Fault Refusal :=
  match i with
  | .movB32C16 w => Sys2Proof.Machine.execMovB32C16 w s
  | .addS32C16 w => Sys2Proof.Machine.execAddS32C16 w s
  | .subS32C16 w => Sys2Proof.Machine.execSubS32C16 w s
  | .andB32C16 w => Sys2Proof.Machine.execAndB32C16 w s
  | .orB32C16 w => Sys2Proof.Machine.execOrB32C16 w s
  | .xorB32C16 w => Sys2Proof.Machine.execXorB32C16 w s
  | .shlB32C16 w => Sys2Proof.Machine.execShlB32C16 w s
  | .shrB32C16 w => Sys2Proof.Machine.execShrB32C16 w s
  | .sarB32C16 w => Sys2Proof.Machine.execSarB32C16 w s
  | .minS32C16 w => Sys2Proof.Machine.execMinS32C16 w s
  | .maxS32C16 w => Sys2Proof.Machine.execMaxS32C16 w s
  | .faddF32C16 w => Sys2Proof.Machine.execFaddF32C16 w s
  | .fsubF32C16 w => Sys2Proof.Machine.execFsubF32C16 w s
  | .fmulF32C16 w => Sys2Proof.Machine.execFmulF32C16 w s
  | .fminF32C16 w => Sys2Proof.Machine.execFminF32C16 w s
  | .fmaxF32C16 w => Sys2Proof.Machine.execFmaxF32C16 w s
  | .addS32B32 w => Sys2Proof.Machine.execAddS32B32 w s
  | .addS32ImmB32 w => Sys2Proof.Machine.execAddS32ImmB32 w s
  | .subS32B32 w => Sys2Proof.Machine.execSubS32B32 w s
  | .subS32ImmB32 w => Sys2Proof.Machine.execSubS32ImmB32 w s
  | .minS32B32 w => Sys2Proof.Machine.execMinS32B32 w s
  | .maxS32B32 w => Sys2Proof.Machine.execMaxS32B32 w s
  | .minN32B32 w => Sys2Proof.Machine.execMinN32B32 w s
  | .maxN32B32 w => Sys2Proof.Machine.execMaxN32B32 w s
  | .absS32B32 w => Sys2Proof.Machine.execAbsS32B32 w s
  | .addSatS32B32 w => Sys2Proof.Machine.execAddSatS32B32 w s
  | .mulLoS32B32 w => Sys2Proof.Machine.execMulLoS32B32 w s
  | .mulHiN32B32 w => Sys2Proof.Machine.execMulHiN32B32 w s
  | .madLoS32B32 w => Sys2Proof.Machine.execMadLoS32B32 w s
  | .dp4S8B32 w => Sys2Proof.Machine.execDp4S8B32 w s
  | .andB32B32 w => Sys2Proof.Machine.execAndB32B32 w s
  | .orB32B32 w => Sys2Proof.Machine.execOrB32B32 w s
  | .xorB32B32 w => Sys2Proof.Machine.execXorB32B32 w s
  | .andnB32B32 w => Sys2Proof.Machine.execAndnB32B32 w s
  | .andB32ImmB32 w => Sys2Proof.Machine.execAndB32ImmB32 w s
  | .orB32ImmB32 w => Sys2Proof.Machine.execOrB32ImmB32 w s
  | .notB32B32 w => Sys2Proof.Machine.execNotB32B32 w s
  | .shlB32B32 w => Sys2Proof.Machine.execShlB32B32 w s
  | .shrB32B32 w => Sys2Proof.Machine.execShrB32B32 w s
  | .sarB32B32 w => Sys2Proof.Machine.execSarB32B32 w s
  | .shlB32ImmB32 w => Sys2Proof.Machine.execShlB32ImmB32 w s
  | .shrB32ImmB32 w => Sys2Proof.Machine.execShrB32ImmB32 w s
  | .sarB32ImmB32 w => Sys2Proof.Machine.execSarB32ImmB32 w s
  | .popcB32B32 w => Sys2Proof.Machine.execPopcB32B32 w s
  | .popcLoB32B32 w => Sys2Proof.Machine.execPopcLoB32B32 w s
  | .clzB32B32 w => Sys2Proof.Machine.execClzB32B32 w s
  | .hcellB32 w => Sys2Proof.Machine.execHcellB32 w s
  | .movB32B32 w => Sys2Proof.Machine.execMovB32B32 w s
  | .cmpEqS32B32 w => Sys2Proof.Machine.execCmpEqS32B32 w s
  | .cmpLtS32B32 w => Sys2Proof.Machine.execCmpLtS32B32 w s
  | .cmpLtN32B32 w => Sys2Proof.Machine.execCmpLtN32B32 w s
  | .cmpGeS32B32 w => Sys2Proof.Machine.execCmpGeS32B32 w s
  | .fcmpLtF32B32 w => Sys2Proof.Machine.execFcmpLtF32B32 w s
  | .fcmpGeF32B32 w => Sys2Proof.Machine.execFcmpGeF32B32 w s
  | .faddF32B32 w => Sys2Proof.Machine.execFaddF32B32 w s
  | .fsubF32B32 w => Sys2Proof.Machine.execFsubF32B32 w s
  | .fmulF32B32 w => Sys2Proof.Machine.execFmulF32B32 w s
  | .ffmaF32B32 w => Sys2Proof.Machine.execFfmaF32B32 w s
  | .fminF32B32 w => Sys2Proof.Machine.execFminF32B32 w s
  | .fmaxF32B32 w => Sys2Proof.Machine.execFmaxF32B32 w s
  | .fabsF32B32 w => Sys2Proof.Machine.execFabsF32B32 w s
  | .fnegF32B32 w => Sys2Proof.Machine.execFnegF32B32 w s
  | .faddF16x2B32 w => Sys2Proof.Machine.execFaddF16x2B32 w s
  | .fmulF16x2B32 w => Sys2Proof.Machine.execFmulF16x2B32 w s
  | .ffmaF16x2B32 w => Sys2Proof.Machine.execFfmaF16x2B32 w s
  | .faddBf16x2B32 w => Sys2Proof.Machine.execFaddBf16x2B32 w s
  | .fmulBf16x2B32 w => Sys2Proof.Machine.execFmulBf16x2B32 w s
  | .ffmaBf16x2B32 w => Sys2Proof.Machine.execFfmaBf16x2B32 w s
  | .faddF64B32 w => Sys2Proof.Machine.execFaddF64B32 w s
  | .fmulF64B32 w => Sys2Proof.Machine.execFmulF64B32 w s
  | .ffmaF64B32 w => Sys2Proof.Machine.execFfmaF64B32 w s
  | .cvtF32S32B32 w => Sys2Proof.Machine.execCvtF32S32B32 w s
  | .cvtRzS32F32B32 w => Sys2Proof.Machine.execCvtRzS32F32B32 w s
  | .frcpF32B32 w => Sys2Proof.Machine.execFrcpF32B32 w s
  | .frsqF32B32 w => Sys2Proof.Machine.execFrsqF32B32 w s
  | .fexp2F32B32 w => Sys2Proof.Machine.execFexp2F32B32 w s
  | .flog2F32B32 w => Sys2Proof.Machine.execFlog2F32B32 w s
  | .sAddB32 w => Sys2Proof.Machine.execSAddB32 w s
  | .sAddImmB32 w => Sys2Proof.Machine.execSAddImmB32 w s
  | .sMovB32 w => Sys2Proof.Machine.execSMovB32 w s
  | .add w => Sys2Proof.Machine.execAdd w s
  | .sub w => Sys2Proof.Machine.execSub w s
  | .addc w => Sys2Proof.Machine.execAddc w s
  | .subb w => Sys2Proof.Machine.execSubb w s
  | .addSatS32 w => Sys2Proof.Machine.execAddSatS32 w s
  | .addSatN32 w => Sys2Proof.Machine.execAddSatN32 w s
  | .subSatS32 w => Sys2Proof.Machine.execSubSatS32 w s
  | .subSatN32 w => Sys2Proof.Machine.execSubSatN32 w s
  | .minS32 w => Sys2Proof.Machine.execMinS32 w s
  | .minN32 w => Sys2Proof.Machine.execMinN32 w s
  | .maxS32 w => Sys2Proof.Machine.execMaxS32 w s
  | .maxN32 w => Sys2Proof.Machine.execMaxN32 w s
  | .absS32 w => Sys2Proof.Machine.execAbsS32 w s
  | .negS32 w => Sys2Proof.Machine.execNegS32 w s
  | .addB64 w => Sys2Proof.Machine.execAddB64 w s
  | .subB64 w => Sys2Proof.Machine.execSubB64 w s
  | .minS64 w => Sys2Proof.Machine.execMinS64 w s
  | .minN64 w => Sys2Proof.Machine.execMinN64 w s
  | .maxS64 w => Sys2Proof.Machine.execMaxS64 w s
  | .maxN64 w => Sys2Proof.Machine.execMaxN64 w s
  | .mulLo w => Sys2Proof.Machine.execMulLo w s
  | .mulHiS32 w => Sys2Proof.Machine.execMulHiS32 w s
  | .mulHiN32 w => Sys2Proof.Machine.execMulHiN32 w s
  | .madLo w => Sys2Proof.Machine.execMadLo w s
  | .madHiS32 w => Sys2Proof.Machine.execMadHiS32 w s
  | .madHiN32 w => Sys2Proof.Machine.execMadHiN32 w s
  | .divS32 w => Sys2Proof.Machine.execDivS32 w s
  | .divN32 w => Sys2Proof.Machine.execDivN32 w s
  | .remS32 w => Sys2Proof.Machine.execRemS32 w s
  | .remN32 w => Sys2Proof.Machine.execRemN32 w s
  | .dp4S8 w => Sys2Proof.Machine.execDp4S8 w s
  | .dp4N8 w => Sys2Proof.Machine.execDp4N8 w s
  | .and w => Sys2Proof.Machine.execAnd w s
  | .or w => Sys2Proof.Machine.execOr w s
  | .xor w => Sys2Proof.Machine.execXor w s
  | .andn w => Sys2Proof.Machine.execAndn w s
  | .not w => Sys2Proof.Machine.execNot w s
  | .shl w => Sys2Proof.Machine.execShl w s
  | .shr w => Sys2Proof.Machine.execShr w s
  | .sar w => Sys2Proof.Machine.execSar w s
  | .rol w => Sys2Proof.Machine.execRol w s
  | .bfeS32 w => Sys2Proof.Machine.execBfeS32 w s
  | .bfeN32 w => Sys2Proof.Machine.execBfeN32 w s
  | .bfi w => Sys2Proof.Machine.execBfi w s
  | .brev w => Sys2Proof.Machine.execBrev w s
  | .popc w => Sys2Proof.Machine.execPopc w s
  | .popcLo w => Sys2Proof.Machine.execPopcLo w s
  | .clz w => Sys2Proof.Machine.execClz w s
  | .ctz w => Sys2Proof.Machine.execCtz w s
  | .hcell w => Sys2Proof.Machine.execHcell w s
  | .shlB64 w => Sys2Proof.Machine.execShlB64 w s
  | .shrB64 w => Sys2Proof.Machine.execShrB64 w s
  | .sarB64 w => Sys2Proof.Machine.execSarB64 w s
  | .cmp w => Sys2Proof.Machine.execCmp w s
  | .fcmp w => Sys2Proof.Machine.execFcmp w s
  | .sel w => Sys2Proof.Machine.execSel w s
  | .mov w => Sys2Proof.Machine.execMov w s
  | .li w => Sys2Proof.Machine.execLi w s
  | .pand w => Sys2Proof.Machine.execPand w s
  | .por w => Sys2Proof.Machine.execPor w s
  | .pxor w => Sys2Proof.Machine.execPxor w s
  | .pnot w => Sys2Proof.Machine.execPnot w s
  | .faddF32 w => Sys2Proof.Machine.execFaddF32 w s
  | .fsubF32 w => Sys2Proof.Machine.execFsubF32 w s
  | .fmulF32 w => Sys2Proof.Machine.execFmulF32 w s
  | .fdivF32 w => Sys2Proof.Machine.execFdivF32 w s
  | .fsqrtF32 w => Sys2Proof.Machine.execFsqrtF32 w s
  | .frndF32 w => Sys2Proof.Machine.execFrndF32 w s
  | .ldexpF32 w => Sys2Proof.Machine.execLdexpF32 w s
  | .fminF32 w => Sys2Proof.Machine.execFminF32 w s
  | .fmaxF32 w => Sys2Proof.Machine.execFmaxF32 w s
  | .fminNanF32 w => Sys2Proof.Machine.execFminNanF32 w s
  | .fmaxNanF32 w => Sys2Proof.Machine.execFmaxNanF32 w s
  | .fabsF32 w => Sys2Proof.Machine.execFabsF32 w s
  | .fnegF32 w => Sys2Proof.Machine.execFnegF32 w s
  | .fclassF32 w => Sys2Proof.Machine.execFclassF32 w s
  | .ffmaF32 rm w => Sys2Proof.Machine.execFfmaF32 rm w s
  | .faddX2 bf w => Sys2Proof.Machine.execFaddX2 bf w s
  | .fsubX2 bf w => Sys2Proof.Machine.execFsubX2 bf w s
  | .fmulX2 bf w => Sys2Proof.Machine.execFmulX2 bf w s
  | .fminX2 bf w => Sys2Proof.Machine.execFminX2 bf w s
  | .fmaxX2 bf w => Sys2Proof.Machine.execFmaxX2 bf w s
  | .fminNanX2 bf w => Sys2Proof.Machine.execFminNanX2 bf w s
  | .fmaxNanX2 bf w => Sys2Proof.Machine.execFmaxNanX2 bf w s
  | .fabsX2 bf w => Sys2Proof.Machine.execFabsX2 bf w s
  | .fnegX2 bf w => Sys2Proof.Machine.execFnegX2 bf w s
  | .ffmaX2 bf rm w => Sys2Proof.Machine.execFfmaX2 bf rm w s
  | .faddF64 w => Sys2Proof.Machine.execFaddF64 w s
  | .fsubF64 w => Sys2Proof.Machine.execFsubF64 w s
  | .fmulF64 w => Sys2Proof.Machine.execFmulF64 w s
  | .fdivF64 w => Sys2Proof.Machine.execFdivF64 w s
  | .fsqrtF64 w => Sys2Proof.Machine.execFsqrtF64 w s
  | .frndF64 w => Sys2Proof.Machine.execFrndF64 w s
  | .ldexpF64 w => Sys2Proof.Machine.execLdexpF64 w s
  | .fminF64 w => Sys2Proof.Machine.execFminF64 w s
  | .fmaxF64 w => Sys2Proof.Machine.execFmaxF64 w s
  | .fminNanF64 w => Sys2Proof.Machine.execFminNanF64 w s
  | .fmaxNanF64 w => Sys2Proof.Machine.execFmaxNanF64 w s
  | .fabsF64 w => Sys2Proof.Machine.execFabsF64 w s
  | .fnegF64 w => Sys2Proof.Machine.execFnegF64 w s
  | .fclassF64 w => Sys2Proof.Machine.execFclassF64 w s
  | .ffmaF64 rm w => Sys2Proof.Machine.execFfmaF64 rm w s
  | .cvt w => Sys2Proof.Machine.execCvt w s
  | .q4xEnc w => Sys2Proof.Machine.execQ4xEnc w s
  | .q4xDec w => Sys2Proof.Machine.execQ4xDec w s
  | .frcp w => Sys2Proof.Machine.execFrcp w s
  | .frsq w => Sys2Proof.Machine.execFrsq w s
  | .fexp2 w => Sys2Proof.Machine.execFexp2 w s
  | .flog2 w => Sys2Proof.Machine.execFlog2 w s
  | .fsin w => Sys2Proof.Machine.execFsin w s
  | .fcos w => Sys2Proof.Machine.execFcos w s
  | .ftanh w => Sys2Proof.Machine.execFtanh w s
  | .br w => Sys2Proof.Machine.execBr w s
  | .brInd w => Sys2Proof.Machine.execBrInd w s
  | .call w => Sys2Proof.Machine.execCall w s
  | .ret w => Sys2Proof.Machine.execRet w s
  | .exit w => Sys2Proof.Machine.execExit w s
  | .nop w => Sys2Proof.Machine.execNop w s
  | .yield w => Sys2Proof.Machine.execYield w s
  | .trap w => Sys2Proof.Machine.execTrap w s
  | .brk w => Sys2Proof.Machine.execBrk w s
  | .tret w => Sys2Proof.Machine.execTret w s
  | .movSr w => Sys2Proof.Machine.execMovSr w s
  | .csrRd w => Sys2Proof.Machine.execCsrRd w s
  | .csrWr w => Sys2Proof.Machine.execCsrWr w s
  | .rget w => Sys2Proof.Machine.execRget w s
  | .rput w => Sys2Proof.Machine.execRput w s
  | .sAdd w => Sys2Proof.Machine.execSAdd w s
  | .sSub w => Sys2Proof.Machine.execSSub w s
  | .sMul w => Sys2Proof.Machine.execSMul w s
  | .sAnd w => Sys2Proof.Machine.execSAnd w s
  | .sOr w => Sys2Proof.Machine.execSOr w s
  | .sXor w => Sys2Proof.Machine.execSXor w s
  | .sShl w => Sys2Proof.Machine.execSShl w s
  | .sShr w => Sys2Proof.Machine.execSShr w s
  | .sSar w => Sys2Proof.Machine.execSSar w s
  | .sLi w => Sys2Proof.Machine.execSLi w s
  | .sMov w => Sys2Proof.Machine.execSMov w s
  | .sCmp w => Sys2Proof.Machine.execSCmp w s
  | .sSel w => Sys2Proof.Machine.execSSel w s
  | .sLd w => Sys2Proof.Machine.execSLd w s
  | .sRdl w => Sys2Proof.Machine.execSRdl w s
  | .shfl w => Sys2Proof.Machine.execShfl w s
  | .voteAny w => Sys2Proof.Machine.execVoteAny w s
  | .voteAll w => Sys2Proof.Machine.execVoteAll w s
  | .voteBallot w => Sys2Proof.Machine.execVoteBallot w s
  | .matchEq w => Sys2Proof.Machine.execMatchEq w s
  | .redLane w => Sys2Proof.Machine.execRedLane w s
  | .scanLane w => Sys2Proof.Machine.execScanLane w s
  | .segred w => Sys2Proof.Machine.execSegred w s
  | .lsync w => Sys2Proof.Machine.execLsync w s
  | .topkIns w => Sys2Proof.Machine.execTopkIns w s
  | .brDiv w => Sys2Proof.Machine.execBrDiv w s
  | .join w => Sys2Proof.Machine.execJoin w s
  | .barInit w => Sys2Proof.Machine.execBarInit w s
  | .barArr w => Sys2Proof.Machine.execBarArr w s
  | .barWait w => Sys2Proof.Machine.execBarWait w s
  | .barSync w => Sys2Proof.Machine.execBarSync w s
  | .stgAcq w => Sys2Proof.Machine.execStgAcq w s
  | .stgRel w => Sys2Proof.Machine.execStgRel w s
  | .ld w => Sys2Proof.Machine.execLd w s
  | .st w => Sys2Proof.Machine.execSt w s
  | .prefetch w => Sys2Proof.Machine.execPrefetch w s
  | .ldSp w => Sys2Proof.Machine.execLdSp w s
  | .stSp w => Sys2Proof.Machine.execStSp w s
  | .atom w => Sys2Proof.Machine.execAtom w s
  | .atomCas w => Sys2Proof.Machine.execAtomCas w s
  | .atomAddlim w => Sys2Proof.Machine.execAtomAddlim w s
  | .atomSp w => Sys2Proof.Machine.execAtomSp w s
  | .red w => Sys2Proof.Machine.execRed w s
  | .waitCnt w => Sys2Proof.Machine.execWaitCnt w s
  | .waitWct w => Sys2Proof.Machine.execWaitWct w s
  | .waitTl w => Sys2Proof.Machine.execWaitTl w s
  | .inval w => Sys2Proof.Machine.execInval w s
  | .wb w => Sys2Proof.Machine.execWb w s
  | .seal w => Sys2Proof.Machine.execSeal w s
  | .unseal w => Sys2Proof.Machine.execUnseal w s
  | .l2Pin w => Sys2Proof.Machine.execL2Pin w s
  | .l2Unpin w => Sys2Proof.Machine.execL2Unpin w s
  | .bankCfgCache w => Sys2Proof.Machine.execBankCfgCache w s
  | .bankCfgSp w => Sys2Proof.Machine.execBankCfgSp w s
  | .bankCfgFifo w => Sys2Proof.Machine.execBankCfgFifo w s
  | .bankCfgQuery w => Sys2Proof.Machine.execBankCfgQuery w s
  | .farBegin w => Sys2Proof.Machine.execFarBegin w s
  | .farEnd w => Sys2Proof.Machine.execFarEnd w s
  | .farAbort w => Sys2Proof.Machine.execFarAbort w s
  | .farStat w => Sys2Proof.Machine.execFarStat w s
  | .subOpen w => Sys2Proof.Machine.execSubOpen w s
  | .subClose w => Sys2Proof.Machine.execSubClose w s
  | .subFlush w => Sys2Proof.Machine.execSubFlush w s
  | .msgSend w => Sys2Proof.Machine.execMsgSend w s
  | .msgWait w => Sys2Proof.Machine.execMsgWait w s
  | .msgPop w => Sys2Proof.Machine.execMsgPop w s
  | .cp w => Sys2Proof.Machine.execCp w s
  | .cpCommit w => Sys2Proof.Machine.execCpCommit w s
  | .cpTile w => Sys2Proof.Machine.execCpTile w s
  | .cpZero w => Sys2Proof.Machine.execCpZero w s
  | .cpGather w => Sys2Proof.Machine.execCpGather w s
  | .cpScatter w => Sys2Proof.Machine.execCpScatter w s
  | .cpUnpack w => Sys2Proof.Machine.execCpUnpack w s
  | .cpPack w => Sys2Proof.Machine.execCpPack w s
  | .cpIsect w => Sys2Proof.Machine.execCpIsect w s
  | .cpMerge w => Sys2Proof.Machine.execCpMerge w s
  | .mma w => Sys2Proof.Machine.execMma w s
  | .mmaReuse w => Sys2Proof.Machine.execMmaReuse w s
  | .mloop w => Sys2Proof.Machine.execMloop w s
  | .maccZero w => Sys2Proof.Machine.execMaccZero w s
  | .maccLd w => Sys2Proof.Machine.execMaccLd w s
  | .maccSt w => Sys2Proof.Machine.execMaccSt w s
  | .mhad w => Sys2Proof.Machine.execMhad w s
  | .lqPush w => Sys2Proof.Machine.execLqPush w s
  | .lqPoll w => Sys2Proof.Machine.execLqPoll w s
  | .remoteArrival k => Sys2Proof.Machine.execRemoteArrival k s
  | .stageToggle k => Sys2Proof.Machine.execStageToggle k s
  | .counterAdvance k => Sys2Proof.Machine.execCounterAdvance k s
  | .subscriptionUpdate k => Sys2Proof.Machine.execSubscriptionUpdate k s
  | .subBufferTimeout k => Sys2Proof.Machine.execSubBufferTimeout k s
  | .sliceRequest u r l act => Sys2Proof.Machine.execSliceRequest u r l act s
  | .wordRecall k => Sys2Proof.Machine.execWordRecall k s
  | .lineRecall k => Sys2Proof.Machine.execLineRecall k s
  | .towerRequest k => Sys2Proof.Machine.execTowerRequest k s
  | .redirectReply cluster asid vpn => Sys2Proof.Machine.execRedirectReply cluster asid vpn s
  | .regionEdge k => Sys2Proof.Machine.execRegionEdge k s
  | .loadReturn u r => Sys2Proof.Machine.execLoadReturn u r s
  | .storeCompletion u r => Sys2Proof.Machine.execStoreCompletion u r s
  | .atomicReturn u r => Sys2Proof.Machine.execAtomicReturn u r s
  | .spAccessPerformed u => Sys2Proof.Machine.execSpAccessPerformed u s
  | .leaseExpiry k => Sys2Proof.Machine.execLeaseExpiry k s
  | .pinExpiry k => Sys2Proof.Machine.execPinExpiry k s
  | .fragmentLaunch u => Sys2Proof.Machine.execFragmentLaunch u s
  | .registerPull u reg => Sys2Proof.Machine.execRegisterPull u reg s
  | .writeBack u => Sys2Proof.Machine.execWriteBack u s
  | .joinCompletion u => Sys2Proof.Machine.execJoinCompletion u s
  | .regionCommit r => Sys2Proof.Machine.execRegionCommit r s
  | .abortTaken u => Sys2Proof.Machine.execAbortTaken u s
  | .regionTimeout r => Sys2Proof.Machine.execRegionTimeout r s
  | .ringMessage k => Sys2Proof.Machine.execRingMessage k s
  | .messageRetry k => Sys2Proof.Machine.execMessageRetry k s
  | .ringAgentMessage k => Sys2Proof.Machine.execRingAgentMessage k s
  | .backoffExpiry k => Sys2Proof.Machine.execBackoffExpiry k s
  | .copyPiece k => Sys2Proof.Machine.execCopyPiece k s
  | .gatherElement k => Sys2Proof.Machine.execGatherElement k s
  | .scatterElement k => Sys2Proof.Machine.execScatterElement k s
  | .sparseConversion k => Sys2Proof.Machine.execSparseConversion k s
  | .batchLanding u => Sys2Proof.Machine.execBatchLanding u s
  | .towerTicketAdvance t => Sys2Proof.Machine.execTowerTicketAdvance t s
  | .engineFault t => Sys2Proof.Machine.execEngineFault t s
  | .spillRingFault c reason => Sys2Proof.Machine.execSpillRingFault c reason s
  | .matrixStep t => Sys2Proof.Machine.execMatrixStep t s
  | .matrixTileMove t => Sys2Proof.Machine.execMatrixTileMove t s
  | .hadamardTransform t => Sys2Proof.Machine.execHadamardTransform t s
  | .matrixTimelineAdvance t => Sys2Proof.Machine.execMatrixTimelineAdvance t s
  | .lqPushPublish u => Sys2Proof.Machine.execLqPushPublish u s
  | .queueHeaderJudge c q => Sys2Proof.Machine.execQueueHeaderJudge c q s
  | .recordConsume c q => Sys2Proof.Machine.execRecordConsume c q s
  | .gridStart g => Sys2Proof.Machine.execGridStart g s
  | .teamPlacement g core => Sys2Proof.Machine.execTeamPlacement g core s
  | .teamStart t => Sys2Proof.Machine.execTeamStart t s
  | .teamExited t => Sys2Proof.Machine.execTeamExited t s
  | .teamSave t => Sys2Proof.Machine.execTeamSave t s
  | .teamRestore t => Sys2Proof.Machine.execTeamRestore t s
  | .imageSignalApply k => Sys2Proof.Machine.execImageSignalApply k s
  | .powerGate core => Sys2Proof.Machine.execPowerGate core s
  | .powerGateRestore t => Sys2Proof.Machine.execPowerGateRestore t s
  | .coreReset core => Sys2Proof.Machine.execCoreReset core s
  | .watchdogPreempt t => Sys2Proof.Machine.execWatchdogPreempt t s
  | .watchdogStall t => Sys2Proof.Machine.execWatchdogStall t s
  | .softError site => Sys2Proof.Machine.execSoftError site s
  | .patrolScrub site => Sys2Proof.Machine.execPatrolScrub site s
  | .rowSparing tower => Sys2Proof.Machine.execRowSparing tower s
  | .pseudoChannelRetirement tower => Sys2Proof.Machine.execPseudoChannelRetirement tower s
  | .clusterRetirement cluster => Sys2Proof.Machine.execClusterRetirement cluster s
  | .laneSparing port => Sys2Proof.Machine.execLaneSparing port s
  | .shootdown asid base len => Sys2Proof.Machine.execShootdown asid base len s
  | .dataFlit port f => Sys2Proof.Machine.execDataFlit port f s
  | .idleFlit port f => Sys2Proof.Machine.execIdleFlit port f s
  | .retryRequest port f => Sys2Proof.Machine.execRetryRequest port f s
  | .auditPoint port => Sys2Proof.Machine.execAuditPoint port s
  | .audit port f => Sys2Proof.Machine.execAudit port f s
  | .resync port f => Sys2Proof.Machine.execResync port f s
  | .timeSync port f => Sys2Proof.Machine.execTimeSync port f s
  | .timeSyncTimer port => Sys2Proof.Machine.execTimeSyncTimer port s
  | .linkRetrain port ok => Sys2Proof.Machine.execLinkRetrain port ok s
  | .deviceOutOfStep dev => Sys2Proof.Machine.execDeviceOutOfStep dev s
  | .deviceInStep dev => Sys2Proof.Machine.execDeviceInStep dev s
  | .remoteRequest q => Sys2Proof.Machine.execRemoteRequest q s
  | .hostRead pa len => Sys2Proof.Machine.execHostRead pa len s
  | .hostWrite pa bytes => Sys2Proof.Machine.execHostWrite pa bytes s
  | .hostWindowWrite k part value => Sys2Proof.Machine.execHostWindowWrite k part value s
  | .register slot entry => Sys2Proof.Machine.execRegister slot entry s
  | .enable slot => Sys2Proof.Machine.execEnable slot s
  | .disable slot => Sys2Proof.Machine.execDisable slot s
  | .preEmpt slot => Sys2Proof.Machine.execPreEmpt slot s
  | .restore slot => Sys2Proof.Machine.execRestore slot s
  | .kill slot => Sys2Proof.Machine.execKill slot s
  | .destroy slot => Sys2Proof.Machine.execDestroy slot s
  | .doorbellIllegalCommand slot value => Sys2Proof.Machine.execDoorbellIllegalCommand slot value s
  | .faultResponseReplay slot id => Sys2Proof.Machine.execFaultResponseReplay slot id s
  | .faultResponseDeliver slot id => Sys2Proof.Machine.execFaultResponseDeliver slot id s
  | .faultResponseTerminate slot id => Sys2Proof.Machine.execFaultResponseTerminate slot id s
  | .registerWrite off value => Sys2Proof.Machine.execRegisterWrite off value s
  | .linkPolicyWrite p => Sys2Proof.Machine.execLinkPolicyWrite p s
  | .hostVacateReply tower => Sys2Proof.Machine.execHostVacateReply tower s
  | .attestationReport nonce => Sys2Proof.Machine.execAttestationReport nonce s
  | .keyLoad slot => Sys2Proof.Machine.execKeyLoad slot s
  | .moduleReset fw cfg => Sys2Proof.Machine.execModuleReset fw cfg s
  | .thermalThrottle level => Sys2Proof.Machine.execThermalThrottle level s
  | .thermalShutdown => Sys2Proof.Machine.execThermalShutdown s
  | .illegalEncoding nbytes raw => Sys2Proof.Machine.execIllegalEncoding nbytes raw s
  | .variableLatencyResult u k => Sys2Proof.Machine.execVariableLatencyResult u k s
  | .wctPassed u => Sys2Proof.Machine.execWctPassed u s
  | .linkTraining port => Sys2Proof.Machine.execLinkTraining port s
  | .hostCompletion u r => Sys2Proof.Machine.execHostCompletion u r s

end Sys2Proof.Machine
end

