-- ==== Sys2Proof/Machine/Schedule.lean ====
section
/-!
DEFINITION. What moves next (R1, R5, R141): a unit issues the word at its PC, an agent takes a step of its own, or time goes on. The agenda says which; without one, a fair order over everything that can move. The manual leaves the order open: log entry 14.
-/

namespace Sys2Proof.Machine

/-- R426, R429: a module that has stopped takes nothing but a reset; one in recovery offers the mailbox alone. -/
def State.admits (s : State) (i : Instr) : Bool :=
  match i with
  | .moduleReset _ _ => true
  | .registerWrite _ _ => s.phase != .stopped
  | _ => s.phase == .running

/-- Units take the values given for them. -/
def State.putUnits (s : State) (xs : List (Nat × Unit)) : State := xs.foldl (fun (a : State) (x : Nat × Unit) => a.setUnit x.1 x.2) s

/-- Whether a unit waits for a register. -/
def Unit.awaitsRegister (u : Unit) : Bool :=
  match u.wait with
  | .scoreboard => true
  | .pull _ => true
  | _ => false

/-- Threads execute a word one after another. Each finds the threads in `frozen` as they stand there, so that every read comes before every write (R43); `done` holds what has become of those before it. Where none are frozen, one that another has taken past the word is passed over. A trap ends the team. -/
noncomputable def State.eachThread (i : Instr) (frozen : List (Nat × Unit)) : List (Nat × Unit) → List (Nat × Unit) → State → Out
  | [], done, s => .next (s.putUnits done)
  | (uid, u) :: rest, done, s =>
    if frozen.isEmpty && !((s.unit? uid).elim false fun x => x.live && x.pc == u.pc && x.step == u.step) then State.eachThread i frozen rest done s
    else match exec i { s.putUnits frozen with focus := some uid, free := s.free + 1 } with
    | .next t =>
      if (t.team? u.team).elim true fun m => m.terminated then .next (t.putUnits (done.map fun x => (x.1, { x.2.halt with region := none })))
      else match frozen, t.unit? uid with
        | _ :: _, some x => State.eachThread i frozen rest (done ++ [(uid, x)]) t
        | _, _ => State.eachThread i frozen rest done t
    | o => o

/-- R114, R150: the accesses that a unit has issued from operation `n` on are of one issue with those of others. -/
def Unit.asJoint (n : Nat) (u : Unit) : Unit :=
  { u with
    reqs := u.reqs.map fun q => if n ≤ q.seq then { q with joint := n } else q
    spq := u.spq.map fun a => if n ≤ a.seq then { a with joint := n } else a }

/-- R150: the threads of a fragment whose PCs coincide issue together, once none of them waits for a register; those that meet at a word take their places there (R163, R169). -/
noncomputable def State.issueTogether (s : State) (i : Instr) (ms : List (Nat × Unit)) : Out :=
  match State.eachThread i ms ms [] s with
  | .next t0 =>
    let t := { t0 with units := t0.units.map (Unit.asJoint s.seq) }
    let stays (m : Nat × Unit) (p : Unit → Bool) : Bool := (t.unit? m.1).elim false fun x => x.live && x.pc == m.2.pc && p x
    let held := ms.filter fun m => stays m Unit.awaitsRegister
    if !held.isEmpty then State.eachThread i ms held [] s
    else if ms.any fun m => stays m Unit.atMeeting then State.eachThread i [] ms [] s
    else .next ((t.readsNow s.seq (ms.map Prod.fst)).getD (s.putUnits (ms.map fun m => (m.1, { m.2 with wait := .drain }))))
  | o => o

/-- R141: whether a group that has waited would issue now: its condition has come true. -/
noncomputable def State.wouldIssue (s : State) (uid : Nat) (u : Unit) : Bool :=
  match u.wait, s.fetch u with
  | .parked .., _ => false
  | _, .instr i => match exec i { s with focus := some uid } with
    | .next t => (t.unit? uid).elim true fun x => x.lastIssue == s.tick
    | _ => false
  | _, _ => true

/-- R141: whether another ready group of a group's wide core is older: more time has passed since its last issue. -/
noncomputable def State.hasElder (s : State) (u : Unit) : Bool :=
  u.frag.isNone && (List.range s.units.length).any fun i => (s.unit? i).elim false fun x =>
    x.frag.isNone && decide (x.lastIssue < u.lastIssue) && s.able x && s.unitCore x == s.unitCore u && (x.wait == .none || s.wouldIssue i x)

/-- R15: a unit issues the word at its PC; one without active threads ends its level instead (R148), and one whose fault record has met a full ring tries to post it (R379). -/
noncomputable def State.issueUnit (s : State) (uid : Nat) : Out :=
  let now := { s with focus := some uid, tick := s.tick + 1, free := s.free + 1 }
  match now.unit? uid with
  | none => .next s
  | some u =>
    if !now.able u || now.hasElder u then .next s
    else if u.active = 0 then .next (now.settleUnit uid u)
    else match u.wait with
    | .parked .. => .next (now.repost uid)
    | _ =>
      let pre := now.seesCode u
      match pre.fetch u with
      | .instr i =>
        match pre.together u with
        | [] => exec i pre
        | [_] => exec i pre
        | ms => pre.issueTogether i ms
      | .illegal n raw => exec (.illegalEncoding n raw) pre
      | .park a r => .next (pre.parkFetch uid u a r)
      | .poison a => .next (pre.poisonFetch uid u a)

/-- R393: a power-gated team as it would stand on its core. -/
def State.asRestored (s : State) (ti : Nat) : State :=
  match s.saved.find? fun x => x.team == ti && x.gated with
  | some x => (s.restoreBanks x).modTeam ti fun t => { t with life := .running, banks := x.record.banks }
  | none => s

/-- Two states that differ in the model's own counters at most. -/
def State.alike (s t : State) : Bool := decide ({ t with focus := s.focus, free := s.free, tick := s.tick } = s)

/-- R391: whether a unit of a team could go on: it would issue, or one of its own steps that ends a wait can be taken. -/
noncomputable def State.teamReady (s : State) (ti : Nat) : Bool :=
  let z := s.asRestored ti
  let moves (i : Instr) : Bool := match exec i z with
    | .next t => !z.alike t
    | _ => false
  (z.teamUnits ti).any fun x => x.2.live &&
    ((z.able x.2 && z.wouldIssue x.1 x.2) || [Instr.abortTaken x.1, .lqPushPublish x.1, .joinCompletion x.1, .writeBack x.1, .fragmentLaunch x.1].any moves)

/-- R391: the team that the watchdog looks at. -/
def watched (i : Instr) : Option Nat :=
  match i with
  | .watchdogStall t => some t
  | _ => none

/-- An agent takes a step of its own. The watchdog that finds a team able to go on begins to count anew (R391). -/
noncomputable def State.agentStep (s : State) (i : Instr) : Out :=
  if !s.admits i then .next s
  else
    let now := { s with focus := none, tick := s.tick + 1, free := s.free + 1 }
    match watched i with
    | none => exec i now
    | some t => if now.teamReady t then .next (now.modTeam t fun x => { x with stallSince := none }) else exec i now

/-- R402: how much of the correction that firmware has asked for is made while `ns` more ns pass: at most 1 ns at each µs. -/
def State.slew (s : State) (ns : Nat) : Int :=
  let most : Int := (((s.now + ns) / 1000 - s.now / 1000 : Nat) : Int)
  max (-most) (min most s.skew)

/-- R402: the device's time reference after `ns` more ns: it follows true time but for its own drift, and is slewed; it is never stepped back. While the device is in step, it lies within 18 ns of true global time, so that the clocks that follow it within 2 ns lie within 20 (R223). -/
def State.refAfter (s : State) (ns : Nat) : Nat :=
  let now := s.now + ns
  let on := ((s.ref + ns : Nat) + ((Config.skew 0 now % 3 : Nat) : Int) - 1 - s.slew ns).toNat
  max s.ref (if s.inStep then min (now + 18) (max (now - 18) on) else on)

/-- R403: whether firmware can still show that the device is in step: the master is, and another while its last exchange is recent enough. -/
def State.stepHolds (s : State) (ns : Nat) : Bool := s.inStep && (s.master == s.deviceId || decide (s.now + ns < s.lastSync + Config.driftTime))

/-- R223, R402, R403: global time goes on. -/
def State.elapse (s : State) (ns : Nat) : State :=
  { s with
    now := s.now + ns, ref := s.refAfter ns, skew := s.skew - s.slew ns, inStep := s.stepHolds ns, tick := s.tick + 1, free := s.free + 1 }

noncomputable def State.choose (s : State) (c : Choice) : Out :=
  match c with
  | .issue u => s.issueUnit u
  | .event i => s.agentStep i
  | .register off => .next ({ s with focus := none, tick := s.tick + 1 }.hostRegister off)
  | .command slot => .next ({ s with focus := none, tick := s.tick + 1 }.goOnCommand slot)
  | .exportWindow w => .next ({ s with focus := none, tick := s.tick + 1 }.registerWindow w)
  | .elapse ns => .next (s.elapse ns)

/-- One step for each item of a list. -/
def each (n : Nat) (f : Nat → Instr) : List Choice := (List.range n).map fun k => .event (f k)

/-- The steps that a unit's own operations may take. -/
noncomputable def Unit.steps (u : Unit) (uid : Nat) : List Choice :=
  let reqs := (List.range u.reqs.length).flatMap fun r =>
    (match nth? u.reqs r with
      | some q => each q.lanes.length fun l => .sliceRequest uid r l .perform
      | none => []) ++
    [.event (.loadReturn uid r), .event (.storeCompletion uid r), .event (.atomicReturn uid r), .event (.hostCompletion uid r)]
  let pull := match u.wait with
    | .pull r => [Choice.event (.registerPull uid r)]
    | _ => []
  [.issue uid, .event (.spAccessPerformed uid), .event (.abortTaken uid), .event (.lqPushPublish uid), .event (.batchLanding uid),
    .event (.wctPassed uid), .event (.fragmentLaunch uid), .event (.writeBack uid), .event (.joinCompletion uid)] ++
  pull ++ each u.vars.length (fun k => .variableLatencyResult uid k) ++ reqs

/-- The steps that memory, regions and messages may take. -/
noncomputable def State.agentSteps (s : State) : List Choice :=
  each s.signals.length .remoteArrival ++ each s.signals.length .stageToggle ++ each s.signals.length .counterAdvance ++
  each s.signals.length .subscriptionUpdate ++ each s.signals.length .imageSignalApply ++ each s.pubs.length .subBufferTimeout ++
  each s.recalls.length .wordRecall ++ each s.l1.length .leaseExpiry ++ each s.l2.length .pinExpiry ++ each s.edges.length .regionEdge ++
  (s.regions.flatMap fun (r : Region) => [Choice.event (.regionCommit r.id), .event (.regionTimeout r.id)]) ++
  each s.msgs.length .ringMessage ++ each s.msgs.length .messageRetry ++ each s.msgs.length .ringAgentMessage ++ each s.msgs.length .backoffExpiry ++
  each s.copies.length .copyPiece ++ each s.copies.length .sparseConversion ++ each s.gathers.length .gatherElement ++ each s.gathers.length .scatterElement

/-- The steps that engines, the Dispatcher and the watchdog may take. -/
noncomputable def State.teamSteps (s : State) : List Choice :=
  let n := s.teams.length
  each n .towerTicketAdvance ++ each n .engineFault ++ each n .matrixStep ++ each n .matrixTileMove ++ each n .hadamardTransform ++
  each n .matrixTimelineAdvance ++ each n .teamStart ++ each n .teamExited ++ each n .teamSave ++ each n .teamRestore ++ each n .powerGateRestore ++
  each n .watchdogPreempt ++ each n .watchdogStall ++
  (s.contexts.flatMap fun (c : Context) => (each 16 fun q => .queueHeaderJudge c.slot q) ++ each 16 fun q => .recordConsume c.slot q) ++
  each s.grids.length .gridStart ++
  ((List.range s.grids.length).flatMap fun g => each 256 fun core => .teamPlacement g core) ++ each s.ports.length .auditPoint ++
  (s.doorbells.filterMap fun (d : Doorbell) => if d.status = 1 then some (.command d.slot) else none) ++
  (if s.inStep then [] else [.event (.deviceOutOfStep s.deviceId)])

/-- Everything that may move, time first. -/
noncomputable def State.choices (s : State) : List Choice :=
  .elapse 16 :: ((List.range s.units.length).flatMap fun i => (nth? s.units i).elim [] fun (u : Unit) => u.steps i) ++ s.agentSteps ++ s.teamSteps

/-- The first choice of a list that changes more than the model's own counters. -/
noncomputable def State.firstOf (s : State) : List Choice → Out
  | [] => .next (s.elapse 16)
  | c :: rest =>
    match s.choose c with
    | .next t => if s.alike t then State.firstOf s rest else .next t
    | _ => State.firstOf s rest

/-- Without an agenda: the first choice that can be taken, counted from a place that moves on by one at each step. -/
noncomputable def State.schedule (s : State) : Out := s.firstOf (rotated s.choices s.tick)

/-! How a word comes to be fetched next: a context with one mapped GiB, a grid whose code it is, and a team with one group that issues next. -/

/-- Where the word stands, and the two tables that map virtual addresses below 1 GiB to the same physical ones. -/
def wordHome : Nat := 0x100000

def rootTable : Nat := 0x40000

def leafTable : Nat := 0x80000

/-- Table 10.8: the entry that names the leaf table, and a readable and writable leaf of 1 GiB at frame 0. -/
def rootEntry : Nat := leafTable + 1

def leafEntry : Nat := 0x3B

/-- The first number below a bound that is not used. -/
def unused (used : List Nat) (n : Nat) : Nat := ((List.range n).find? fun x => !used.contains x).getD 0

/-- R139: the role whose groups issue a word: class 20 copy, class 21 matrix, else vector. -/
def roleOf (w : Nat) : Nat :=
  let c := BitVec.ofNat 64 w
  if c.extractLsb' 0 2 = 3 then (match (c.extractLsb' 11 5).toNat with
    | 20 => 0
    | 21 => 1
    | _ => 2) else 2

/-- The descriptor of the word's team: one group. -/
def wordDesc (role : Nat) : KernelDesc :=
  let r (i : Nat) : RoleDesc := if i = role then { groups := 1, width := 32, budget := 128 } else { groups := 0, width := 0, budget := 0 }
  { entry := BitVec.ofNat 64 wordHome, roles := [r 0, r 1, r 2], spBanks := 1, cacheBanks := 0, fifoBanks := 0, argBytes := 0, xthr := 0
    accTiles := 8, chk := false, det := false, coresident := false, tvec := 0 }

/-- A record that launches one team. -/
def wordRecord : LaunchRecord :=
  { desc := 0, args := 0, completion := 0, tx := 1, ty := 1, tz := 1, ranges := 0, rangeCount := 0, priority := 0, ragged := false
    coresident := false, det := false, curve := 0, rows := 0, tileW := 0, tileH := 0, user := 0 }

/-- The context of the word's team. -/
def wordContext (slot asid : Nat) : Context :=
  { slot := slot
    entry := { root := rootTable, asid := asid, queues := List.replicate 16 0, faultRing := 0, eventRing := 0, replayBase := 0, replayLog := 0
               spillBase := 0, spillLog := 12, status := 0, prelim := 1000, farto := 1000 }
    phase := .running, enabled := true, faultId := 0, awaiting := [], queueValid := List.replicate 16 false, sealed := [], marks := [], saveBase := 0
    saveNext := 0, images := 0, deadline := 0 }

/-- The word's grid and team. -/
def wordGrid (slot order : Nat) (role : Nat) (code : CodeImage) : Grid :=
  { ctx := slot, queue := 0, slot := 0, order := order, number := 0, record := wordRecord, desc := some (wordDesc role), ranges := wholeRange
    priority := 0, invalid := none, phase := .started, args := [], placed := 1, exited := 0, terminated := false, wct := 0, waited := 0
    code := code, written := [], late := [] }

def wordTeam (slot grid role : Nat) : Team :=
  { ctx := slot, grid := grid, x := 0, y := 0, z := 0, linear := 0, core := 0, base := 0, desc := wordDesc role, xthr := 0, chk := false
    det := false, frm := 0, lease := 512, banks := [{ idx := 0, mode := .sp }], acc := [], latch := none, latchPlan := none, queue := []
    mTicket := 0, tTicket := 0, life := .running, terminated := false, wct := 0, stallSince := none }

/-- A state with a word laid out in memory and a group that issues it next. -/
def State.placeWord (s : State) (nbits w : Nat) : State :=
  let slot := unused (s.contexts.map fun c => c.slot) 257
  let asid := unused (s.contexts.map fun c => c.entry.asid) 4096
  let role := roleOf w
  let mem := ssetMany (ssetMany (ssetMany s.mem rootTable (bytesOf 16 rootEntry)) leafTable (bytesOf 16 leafEntry)) wordHome (tableBytes nbits w)
  let grid := wordGrid slot s.grids.length role { CodeImage.empty with mem := mem }
  let team := wordTeam slot s.grids.length role
  let unit := startGroup grid team s.teams.length role 0 32 128 0
  { s with
    agenda := [.issue s.units.length], mem := mem, keys := if (s.keyOf 0).isNone then (0, 0) :: s.keys else s.keys
    poisonMem := s.poisonMem.filter fun n => n != wordHome / 32
    phase := .running, contexts := s.contexts ++ [wordContext slot asid], grids := s.grids ++ [grid], teams := s.teams ++ [team]
    units := s.units ++ [unit] }

end Sys2Proof.Machine
end

