-- ==== Sys2Proof/Machine/Step.lean ====
section
/-!
DEFINITION. One step of the machine, and the state in which a given word is the next one that it fetches.
-/

namespace Sys2Proof.Machine

/-- One step: the head of the agenda, or, without an agenda, what the default order gives. -/
noncomputable def step (s : State) : Host.Outcome State Fault Refusal :=
  match s.agenda with
  | c :: rest => { s with agenda := rest }.choose c
  | [] => s.schedule

/-- The state with a word of the opcode table where the machine fetches its next instruction. -/
def State.withFetchWord (s : State) (nbits w : Nat) : State := s.placeWord nbits w

end Sys2Proof.Machine
end

