-- ==== Sys2Proof/Safety.lean ====
section
/-!
DEFINITION. What claims about runs are stated in: the form of memory, when a unit issues a word and when the word passes the checks of R48, and the properties that every state of the part keeps.
-/

namespace Sys2Proof.Machine

/-- The canonical form of a sparse memory: addresses strictly rising, no zero byte listed. -/
abbrev Memory.wf (m : Sparse 8) : Prop := swf m = true

/-- Every byte memory of the part is in its canonical form. -/
def State.MemoryOk (s : State) : Prop := Memory.wf s.mem ∧ Memory.wf s.hostMem ∧ Memory.wf s.sram ∧ Memory.wf s.mailbox

/-- A unit is in focus and may issue, and is `u` with the windows of its issue step landed (R20). -/
def State.Issues (s : State) (uid : Nat) (u : Unit) : Prop :=
  s.focus = some uid ∧ ∃ x, s.unit? uid = some x ∧ s.able x = true ∧ x.landAt x.step = u

/-- R48: a word passes every check that stands before its own causes: its lanes lie in the group (R42), its role is right (R139), its vector registers lie under the budget (R13), a diverged group names no uniform register and no scalar pipe (R155) or is freed by a handler (R124), no named register awaits a value (R21), a fragment thread holds what it reads (R151), and under `chk` no source is stale (R24). -/
structure State.Passes (s : State) (u : Unit) (sh : Shape) : Prop where
  lanes : sh.srcs.any (Src.illegal u.width) = false
  role : ∀ r, sh.role = some r → r = u.role
  budget : sh.overBudget u.budget = none
  uniform : u.converged = true ∨ (sh.csr = true ∧ u.inHandler = true) ∨ (sh.pipe = false ∧ sh.uniforms = [])
  arrived : sh.held u = false
  pulled : sh.pulls u = none
  fresh : (∀ t, s.team? u.team = some t → t.chk = false) ∨ sh.stale u = none

/-- A unit in focus issues a word that passes every check. -/
def State.Clear (s : State) (uid : Nat) (u : Unit) (sh : Shape) : Prop := s.Issues uid u ∧ s.Passes u sh

end Sys2Proof.Machine
end

