-- ==== Sys2Proof/Certificates/Slice0/Obligations.lean ====
section
/-!
DEFINITION. The statements for the provers, each a proposition about the model, with the vocabulary they share: what a word that passes its checks comes to, and the arithmetic of the rules in plain numbers.
-/

namespace Sys2Proof.Machine

/-- A word that passes every check of R48 goes to exactly this state; `after` takes the state, the unit's number and the unit. A fragment thread's source registers come to the front of its cache first (R151). -/
def Completes (i : Instr) (sh : Shape) (after : State → Nat → Unit → State) : Prop :=
  ∀ (s : State) (uid : Nat) (u : Unit), s.Clear uid u sh → exec i s = .next (after s uid (u.touchAll sh))

/-- The state after a lane operation of fixed latency (R19, R20, R23, R25): `rows` holds for each lane that is active and guarded in its values, one for each destination, and its flags. They stand in the windows of the destinations; the unit goes on behind the word. -/
def State.fixedDone (s : State) (uid : Nat) (u : Unit) (sh : Shape) (lat : Nat) (rows : List (Nat × LaneRes)) : State :=
  s.retire uid (u.writeFixed lat (laneWrites sh.dsts rows) (laneFlags rows)) sh

/-- The state after a lane operation of variable latency (R21): the values are pending. -/
def State.varDone (s : State) (uid : Nat) (u : Unit) (sh : Shape) (rows : List (Nat × LaneRes)) : State :=
  s.retire uid (u.writeVar (laneWrites sh.dsts rows) (laneFlags rows)) sh

/-- R48, R115 and the rules of the single checks: what a word comes to that a check stops. Its lane patterns come first, then the role, the register bounds, the uniform operands in a group that is not converged, the pending registers, the fragment's register cache and, where the team asks for it, stale reads; each check is made only where the ones before it let the word go on. -/
def Checked (i : Instr) (shape : State → Nat → Unit → Shape) : Prop :=
  ∀ (s : State) (uid : Nat) (u : Unit), s.Issues uid u →
    let sh := shape s uid u
    let diverged := u.converged = false ∧ (sh.csr = false ∨ u.inHandler = false) ∧ (sh.pipe = true ∨ sh.uniforms ≠ [])
    (sh.srcs.any (Src.illegal u.width) = true → exec i s = .next (s.raise uid u sh.len 0x01 sh.raw)) ∧
    (sh.srcs.any (Src.illegal u.width) = false →
      (∀ r, sh.role = some r → r ≠ u.role → exec i s = .next (s.raise uid u sh.len 0x0B (BitVec.ofNat 64 u.role))) ∧
      (sh.role = none ∨ sh.role = some u.role →
        (∀ r, sh.overBudget u.budget = some r → exec i s = .next (s.raise uid u sh.len 0x05 (BitVec.ofNat 64 r))) ∧
        (sh.overBudget u.budget = none →
          (diverged → exec i s = .next (s.raise uid u sh.len 0x07 (BitVec.ofNat 64 ((least sh.uniforms).getD 0)))) ∧
          (¬diverged → sh.held u = true → exec i s = .next (s.waits uid u .scoreboard)) ∧
          (¬diverged → sh.held u = false → ∀ r, sh.pulls u = some r → exec i s = .next (s.waits uid u (.pull r))) ∧
          (¬diverged → sh.held u = false → sh.pulls u = none → ∀ t v, s.team? u.team = some t → t.chk = true → sh.stale u = some v →
            exec i s = .next (s.raise uid u sh.len 0x06 v)))))

/-- R77: a lane operation of fixed latency that computes `f` in each lane that is active and guarded in. -/
def LaneFixed (i : Instr) (sh : Shape) (lat : Nat) (f : State → Unit → Nat → LaneRes) : Prop :=
  Completes i sh fun s uid u => s.fixedDone uid u sh lat (u.rows sh.guard (f s u))

/-- R77: a lane operation of variable latency. -/
def LaneVar (i : Instr) (sh : Shape) (f : State → Unit → Nat → LaneRes) : Prop :=
  Completes i sh fun s uid u => s.varDone uid u sh (u.rows sh.guard (f s u))

/-- The sources of a word: ra under pa, rb under pb, each of a span, and rc without a pattern (R42). -/
def Form.a (f : Form) (n : Nat) : Src := srcOf f.w.pa f.w.ra n

def Form.b (f : Form) (n : Nat) : Src := srcOf f.w.pb f.w.rb n

def Form.c (f : Form) (n : Nat) : Src := .vec f.w.rc.toNat n 0

/-- `n` vector destinations from rd on. -/
def Form.d (f : Form) (n : Nat) : List (RegKind × Nat) := spanRegs .v f.w.rd.toNat n

/-- One 32-bit result. -/
def res32 (x : W32) : LaneRes := ([x.setWidth 64], 0)

/-- A result pair, the low word in the even register. -/
def res64 (x : W64) : LaneRes := ([(x.extractLsb' 0 32).setWidth 64, (x.extractLsb' 32 32).setWidth 64], 0)

/-- A predicate result. -/
def resP (b : Bool) : LaneRes := ([if b then 1 else 0], 0)

/-- Class 0 to 3 words with one, two or three 32-bit sources and one result of L = 3. -/
def Int1 (i : Instr) (f : Form) (op : W32 → W32) : Prop :=
  LaneFixed i (f.shape [f.a 1] [(.v, f.w.rd.toNat)]) 3 fun s u l => res32 (op (s.arg32 u (f.a 1) l))

def Int2 (i : Instr) (f : Form) (op : W32 → W32 → W32) : Prop :=
  LaneFixed i (f.shape [f.a 1, f.b 1] [(.v, f.w.rd.toNat)]) 3 fun s u l => res32 (op (s.arg32 u (f.a 1) l) (s.arg32 u (f.b 1) l))

def Int3 (i : Instr) (f : Form) (op : W32 → W32 → W32 → W32) : Prop :=
  LaneFixed i (f.shape [f.a 1, f.b 1, f.c 1] [(.v, f.w.rd.toNat)]) 3 fun s u l =>
    res32 (op (s.arg32 u (f.a 1) l) (s.arg32 u (f.b 1) l) (s.arg32 u (f.c 1) l))

/-- Words on register pairs. -/
def Pair2 (i : Instr) (f : Form) (op : W64 → W64 → W64) : Prop :=
  LaneFixed i (f.shape [f.a 2, f.b 2] (f.d 2)) 3 fun s u l => res64 (op (s.arg64 u (f.a 2) l) (s.arg64 u (f.b 2) l))

/-- Shifts of a pair by a 32-bit amount, of which bits `[5:0]` count (R51). -/
def PairShift (i : Instr) (f : Form) (op : W64 → Nat → W64) : Prop :=
  LaneFixed i (f.shape [f.a 2, f.b 1] (f.d 2)) 3 fun s u l => res64 (op (s.arg64 u (f.a 2) l) ((s.arg32 u (f.b 1) l).toNat % 64))

/-- R80: a sum or difference with a carry predicate in m `[2:0]` and out in m `[5:3]`. -/
def Carry2 (i : Instr) (f : Form) (op : W32 → W32 → Bool → W32 × Bool) : Prop :=
  LaneFixed i (f.shape [f.a 1, f.b 1, .pred (f.w.rc.toNat % 8)] [(.v, f.w.rd.toNat), (.p, f.w.rc.toNat / 8 % 8)]) 3 fun s u l =>
    let r := op (s.arg32 u (f.a 1) l) (s.arg32 u (f.b 1) l) (u.arg1 (f.w.rc.toNat % 8) l)
    ([r.1.setWidth 64, if r.2 then 1 else 0], 0)

/-- Words with two 32-bit sources and one result of variable latency. -/
def Var2 (i : Instr) (f : Form) (op : W32 → W32 → W32) : Prop :=
  LaneVar i (f.shape [f.a 1, f.b 1] [(.v, f.w.rd.toNat)]) fun s u l => res32 (op (s.arg32 u (f.a 1) l) (s.arg32 u (f.b 1) l))

/-- R50: an integer kept in the range of `.s32`, and of `.n32`. -/
def satS (x : Int) : W32 := BitVec.ofInt 32 (max (-2 ^ 31) (min x (2 ^ 31 - 1)))

def satN (x : Int) : W32 := BitVec.ofInt 32 (max 0 (min x (2 ^ 32 - 1)))

/-- The lesser or greater of two signed or unsigned numbers. -/
def minS {w : Nat} (a b : BitVec w) : BitVec w := if a.toInt < b.toInt then a else b

def maxS {w : Nat} (a b : BitVec w) : BitVec w := if a.toInt < b.toInt then b else a

def minN {w : Nat} (a b : BitVec w) : BitVec w := if a.toNat < b.toNat then a else b

def maxN {w : Nat} (a b : BitVec w) : BitVec w := if a.toNat < b.toNat then b else a

/-- R80 in plain numbers. -/
def sumCarry (a b : W32) (c : Bool) : W32 × Bool :=
  let t := a.toNat + b.toNat + c.toNat
  (BitVec.ofNat 32 t, decide (2 ^ 32 ≤ t))

def diffBorrow (a b : W32) (c : Bool) : W32 × Bool :=
  let t : Int := (a.toNat : Int) - b.toNat - c.toNat
  (BitVec.ofInt 32 t, decide (t < 0))

/-- R81: bits `[63:32]` of an exact product. -/
def highS (a b : W32) : W32 := BitVec.ofInt 32 (a.toInt * b.toInt / 2 ^ 32)

def highN (a b : W32) : W32 := BitVec.ofNat 32 (a.toNat * b.toNat / 2 ^ 32)

/-- R82: quotients toward zero, remainders with the sign of a, and the edge cases. -/
def quotS (a b : W32) : W32 := if b = 0 then 0xFFFFFFFF else BitVec.ofInt 32 (a.toInt.tdiv b.toInt)

def quotN (a b : W32) : W32 := if b = 0 then 0xFFFFFFFF else BitVec.ofNat 32 (a.toNat / b.toNat)

def remS (a b : W32) : W32 := if b = 0 then a else BitVec.ofInt 32 (a.toInt.tmod b.toInt)

def remN (a b : W32) : W32 := if b = 0 then a else BitVec.ofNat 32 (a.toNat % b.toNat)

/-- R83: c plus four byte products, modulo 2^32. -/
def dotS (a b c : W32) : W32 :=
  BitVec.ofInt 32 (c.toInt + ((List.range 4).map fun k => (a.extractLsb' (8 * k) 8).toInt * (b.extractLsb' (8 * k) 8).toInt).sum)

def dotN (a b c : W32) : W32 :=
  BitVec.ofNat 32 (c.toNat + ((List.range 4).map fun k => (a.extractLsb' (8 * k) 8).toNat * (b.extractLsb' (8 * k) 8).toNat).sum)

/-- R85: position and length of a field. -/
def fieldPos (b : W32) : Nat := b.toNat % 32

def fieldLen (b : W32) (len : Nat) : Nat := min (len % 64) (32 - fieldPos b)

/-- R87: how many bits of a number below `n` are 1. -/
def onesBelow (a : W32) (n : Nat) : Nat := ((List.range 32).filter fun i => decide (i < n) && a.getLsbD i).length

/-- R44: a condition code over the two basic relations. -/
def relHolds (cc : Nat) (lt eq : Bool) : Bool :=
  match cc with
  | 0 => eq
  | 1 => !eq
  | 2 => lt
  | 3 => lt || eq
  | 4 => !(lt || eq)
  | _ => !lt

/-- R89: an operand of a compare as the number its type gives it. -/
def State.cmpVal (s : State) (u : Unit) (ty : Nat) (x : Src) (l : Nat) : Int :=
  match ty with
  | 0 => (s.arg32 u x l).toInt
  | 1 => (s.arg32 u x l).toNat
  | 2 => (s.arg64 u x l).toInt
  | _ => (s.arg64 u x l).toNat

/-- R89: a compare writes the truth of its condition to a predicate, L = 3. -/
def CmpWord (i : Instr) (f : Form) : Prop :=
  let cc := f.w.rc.toNat % 8
  let ty := f.w.rc.toNat / 8
  let n := if 2 ≤ ty then 2 else 1
  LaneFixed i (f.shape [f.a n, f.b n] [(.p, f.w.rd.toNat % 8)]) 3 fun s u l =>
    let x := s.cmpVal u ty (f.a n) l
    let y := s.cmpVal u ty (f.b n) l
    resP (relHolds cc (decide (x < y)) (decide (x = y)))

/-- R90: the same of floating-point values, with the flags that `op` raises. -/
def FcmpWord (i : Instr) (f : Form) (op : Fmt → Nat → Nat → Nat → Bool × Flags) : Prop :=
  let cc := f.w.rc.toNat % 8
  let wide := f.w.rc.toNat / 8 == 1
  let n := if wide then 2 else 1
  LaneFixed i (f.shape [f.a n, f.b n] [(.p, f.w.rd.toNat % 8)]) 3 fun s u l =>
    let r := op (fpFmt wide) cc (s.argF u wide (f.a n) l) (s.argF u wide (f.b n) l)
    ([if r.1 then 1 else 0], r.2)

/-- R92: predicates combined, L = 3. -/
def Pred2 (i : Instr) (f : Form) (op : Bool → Bool → Bool) : Prop :=
  LaneFixed i (f.shape [.pred (f.w.ra.toNat % 8), .pred (f.w.rb.toNat % 8)] [(.p, f.w.rd.toNat % 8)]) 3 fun _ u l =>
    resP (op (u.arg1 (f.w.ra.toNat % 8) l) (u.arg1 (f.w.rb.toNat % 8) l))

/-- R93: the mode that a word's m, or the op of `ffma`, selects at issue (Table 2.8). -/
def State.mode (s : State) (u : Unit) (code : Nat) : Rm := s.rmAt u code

/-- R93: the span of an operand of class 4 or 6. -/
def fpn (wide : Bool) : Nat := if wide then 2 else 1

/-- Words of classes 4 and 6 with one, two or three sources of their format. -/
def Fp1 (i : Instr) (f : Form) (wide : Bool) (op : Fmt → Rm → Nat → Rounded) : Prop :=
  LaneFixed i (f.shape [f.a (fpn wide)] (f.d (fpn wide))) (fpLat wide) fun s u l =>
    fpRes wide (op (fpFmt wide) (s.mode u (f.w.rc.toNat % 8)) (s.argF u wide (f.a (fpn wide)) l))

def Fp1Var (i : Instr) (f : Form) (wide : Bool) (op : Fmt → Rm → Nat → Rounded) : Prop :=
  LaneVar i (f.shape [f.a (fpn wide)] (f.d (fpn wide))) fun s u l =>
    fpRes wide (op (fpFmt wide) (s.mode u (f.w.rc.toNat % 8)) (s.argF u wide (f.a (fpn wide)) l))

def Fp2 (i : Instr) (f : Form) (wide : Bool) (op : Fmt → Rm → Nat → Nat → Rounded) : Prop :=
  LaneFixed i (f.shape [f.a (fpn wide), f.b (fpn wide)] (f.d (fpn wide))) (fpLat wide) fun s u l =>
    fpRes wide (op (fpFmt wide) (s.mode u (f.w.rc.toNat % 8)) (s.argF u wide (f.a (fpn wide)) l) (s.argF u wide (f.b (fpn wide)) l))

def Fp2Var (i : Instr) (f : Form) (wide : Bool) (op : Fmt → Rm → Nat → Nat → Rounded) : Prop :=
  LaneVar i (f.shape [f.a (fpn wide), f.b (fpn wide)] (f.d (fpn wide))) fun s u l =>
    fpRes wide (op (fpFmt wide) (s.mode u (f.w.rc.toNat % 8)) (s.argF u wide (f.a (fpn wide)) l) (s.argF u wide (f.b (fpn wide)) l))

def Fp3 (i : Instr) (f : Form) (wide : Bool) (rm : Nat) (op : Fmt → Rm → Nat → Nat → Nat → Rounded) : Prop :=
  LaneFixed i (f.shape [f.a (fpn wide), f.b (fpn wide), f.c (fpn wide)] (f.d (fpn wide))) (fpLat wide) fun s u l =>
    fpRes wide (op (fpFmt wide) (s.mode u rm) (s.argF u wide (f.a (fpn wide)) l) (s.argF u wide (f.b (fpn wide)) l)
      (s.argF u wide (f.c (fpn wide)) l))

/-- R52: a packed result whose low and high halves are two rounded results, with the flags of both. -/
def resHalves (lo hi : Rounded) : LaneRes := ([BitVec.ofNat 64 (lo.bits % 65536 + 65536 * (hi.bits % 65536))], lo.flags ||| hi.flags)

/-- R52, R93: words of class 5, each half on its own, L = 5. -/
def Half1 (i : Instr) (f : Form) (op : Nat → Rounded) : Prop :=
  LaneFixed i (f.shape [f.a 1] [(.v, f.w.rd.toNat)]) 5 fun s u l =>
    let x := s.arg32 u (f.a 1) l
    resHalves (op (x.toNat % 65536)) (op (x.toNat / 65536))

def Half2 (i : Instr) (f : Form) (op : Rm → Nat → Nat → Rounded) : Prop :=
  LaneFixed i (f.shape [f.a 1, f.b 1] [(.v, f.w.rd.toNat)]) 5 fun s u l =>
    let x := s.arg32 u (f.a 1) l
    let y := s.arg32 u (f.b 1) l
    let rm := s.mode u (f.w.rc.toNat % 8)
    resHalves (op rm (x.toNat % 65536) (y.toNat % 65536)) (op rm (x.toNat / 65536) (y.toNat / 65536))

def Half3 (i : Instr) (f : Form) (rm : Nat) (op : Rm → Nat → Nat → Nat → Rounded) : Prop :=
  LaneFixed i (f.shape [f.a 1, f.b 1, f.c 1] [(.v, f.w.rd.toNat)]) 5 fun s u l =>
    let x := s.arg32 u (f.a 1) l
    let y := s.arg32 u (f.b 1) l
    let z := s.arg32 u (f.c 1) l
    let m := s.mode u rm
    resHalves (op m (x.toNat % 65536) (y.toNat % 65536) (z.toNat % 65536)) (op m (x.toNat / 65536) (y.toNat / 65536) (z.toNat / 65536))

/-- The formats of classes 4, 5 and 6. -/
def laneFmts : List Fmt := [.f64, .f32, .f16, .bf16]

/-- The real value of a finite encoding, as an exact rational. -/
def FVal.rat : FVal → ℚ
  | .fin n m e => (if n then -1 else 1) * (m : ℚ) * (2 : ℚ) ^ e
  | _ => 0

def FVal.finite : FVal → Prop
  | .fin .. => True
  | _ => False

/-- The order of the numbers: -∞, the finite values with -0 = +0, +∞. -/
def FVal.below (x y : FVal) : Prop :=
  x.isNan = false ∧ y.isNan = false ∧ x ≠ y ∧ (x = .inf true ∨ y = .inf false ∨ (x.finite ∧ y.finite ∧ x.rat < y.rat))

/-- An encoding of a finite value of a format, and that value. -/
def Fmt.finite (f : Fmt) (x : Nat) : Prop := x < 2 ^ f.width ∧ (f.value x).finite

def Fmt.rat (f : Fmt) (x : Nat) : ℚ := (f.value x).rat

/-- The least magnitude that rounds to nearest past every finite value: half a step beyond the greatest (R58). -/
def Fmt.past (f : Fmt) : ℚ := ((f.maxSig : ℚ) + 1 / 2) * (2 : ℚ) ^ f.qmax

/-- R57, R58, Table 3.4: `r` is the encoding that a mode delivers for a nonzero exact value `x` in a format with infinities. -/
def Fmt.Delivers (f : Fmt) (rm : Rm) (x : ℚ) (r : Nat) : Prop :=
  r.testBit (f.e + f.m) = decide (x < 0) ∧
  match rm with
  | .rz => f.finite r ∧ |f.rat r| ≤ |x| ∧ ∀ y, f.finite y → |f.rat y| ≤ |x| → |f.rat y| ≤ |f.rat r|
  | .ru => (f.finite r ∧ x ≤ f.rat r ∧ ∀ y, f.finite y → x ≤ f.rat y → f.rat r ≤ f.rat y) ∨
      (r = f.infBits false ∧ ∀ y, f.finite y → f.rat y < x)
  | .rd => (f.finite r ∧ f.rat r ≤ x ∧ ∀ y, f.finite y → f.rat y ≤ x → f.rat y ≤ f.rat r) ∨
      (r = f.infBits true ∧ ∀ y, f.finite y → x < f.rat y)
  | .rn => (|x| < f.past ∧ f.finite r ∧ ∀ y, f.finite y → |f.rat r - x| ≤ |f.rat y - x| ∧
        (|f.rat r - x| = |f.rat y - x| → f.rat y ≠ f.rat r → r % 2 = 0)) ∨
      (f.past ≤ |x| ∧ r = f.infBits (decide (x < 0)))
  | .ra => (|x| < f.past ∧ f.finite r ∧ ∀ y, f.finite y → |f.rat r - x| ≤ |f.rat y - x| ∧
        (|f.rat r - x| = |f.rat y - x| → |f.rat y| ≤ |f.rat r|)) ∨
      (f.past ≤ |x| ∧ r = f.infBits (decide (x < 0)))

/-- R94: a rounded result of a nonzero exact value, and when it raises inexact. -/
def Fmt.RoundsTo (f : Fmt) (rm : Rm) (x : ℚ) (r : Rounded) : Prop :=
  f.Delivers rm x r.bits ∧ (r.flags.getLsbD 4 = true ↔ ¬ (f.finite r.bits ∧ f.rat r.bits = x))

/-- R95: -0 stands below +0. -/
def Fmt.beforeZ (f : Fmt) (x y : Nat) : Prop :=
  (f.value x).below (f.value y) ∨ (f.finite x ∧ f.finite y ∧ f.rat x = 0 ∧ f.rat y = 0 ∧ x.testBit (f.e + f.m) = true ∧ y.testBit (f.e + f.m) = false)

/-- R60, R94: the flags of an operation that consumes NaNs. -/
def sigFlags (a b : FVal) : Flags := if a = .nan true ∨ b = .nan true then 1 else 0

/-- R57: an integer to which a mode rounds a value. -/
def RoundsInt (rm : Rm) (x : ℚ) (k : ℤ) : Prop :=
  match rm with
  | .rd => k ≤ x ∧ x < k + 1
  | .ru => (k : ℚ) - 1 < x ∧ x ≤ k
  | .rz => |(k : ℚ)| ≤ |x| ∧ |x - k| < 1
  | .rn => |x - k| ≤ 1 / 2 ∧ (|x - k| = 1 / 2 → k % 2 = 0)
  | .ra => |x - k| ≤ 1 / 2 ∧ (|x - k| = 1 / 2 → |x| < |(k : ℚ)|)

/-- R56: a value rounds, as though the exponent range were unbounded, to less than the least normal. -/
def Fmt.Tiny (f : Fmt) (rm : Rm) (x : ℚ) : Prop := ∃ j : ℤ, RoundsInt rm (x / (2 : ℚ) ^ (f.emin - 1 - f.m)) j ∧ |j| < 2 ^ (f.m + 1)

/-- R56 to R58, Table 3.4: a nonzero exact value rounded once to any format, with or without `.sat`, and its flags. `2^q` is the step of the format at the value. -/
def Fmt.Rounds (f : Fmt) (rm : Rm) (sat : Bool) (x : ℚ) (r : Rounded) : Prop :=
  ∃ q j : ℤ, f.qmin ≤ q ∧ |x| < (2 : ℚ) ^ (q + f.m + 1) ∧ (q = f.qmin ∨ (2 : ℚ) ^ (q + f.m) ≤ |x|) ∧ RoundsInt rm (x / (2 : ℚ) ^ q) j ∧
    ((f.maxSig : ℚ) * (2 : ℚ) ^ f.qmax < |(j : ℚ)| * (2 : ℚ) ^ q →
      r = ⟨if sat = true ∨ rm = .rz ∨ (rm = .ru ∧ x < 0) ∨ (rm = .rd ∧ 0 < x) then f.signBits (decide (x < 0)) + f.maxBits
        else f.infBits (decide (x < 0)), 20⟩) ∧
    (|(j : ℚ)| * (2 : ℚ) ^ q ≤ (f.maxSig : ℚ) * (2 : ℚ) ^ f.qmax →
      f.finite r.bits ∧ r.bits.testBit (f.e + f.m) = decide (x < 0) ∧ f.rat r.bits = (j : ℚ) * (2 : ℚ) ^ q ∧ r.flags &&& 7 = 0 ∧
      r.flags.getLsbD 4 = decide ((j : ℚ) * (2 : ℚ) ^ q ≠ x) ∧ (r.flags.getLsbD 3 = true ↔ (j : ℚ) * (2 : ℚ) ^ q ≠ x ∧ f.Tiny rm x))

/-- R68: nibble `k` of a word of eight codes. -/
def nibble (x k : Nat) : Nat := x / 16 ^ k % 16

/-- R68: the other element of a byte. -/
def partner (k : Nat) : Nat := if k % 2 = 0 then k + 1 else k - 1

/-- R68: the value that an outlier's partner nibble stands for, before the granule scale. -/
def outlier (oe n : Nat) : ℚ := (if 8 ≤ n then -1 else 1) * ((8 + n % 8 : Nat) : ℚ) * (2 : ℚ) ^ ((oe : ℤ) - 10)

/-- R68: the value of element `k` before the granule scale. -/
def q4xUnit (x oe k : Nat) : ℚ :=
  let own := nibble x k
  let other := nibble x (partner k)
  if own = 8 ∧ other = 8 then 0 else if own = 8 then outlier oe other else if other = 8 then 0 else if own < 8 then own else (own : ℚ) - 16

/-- R101 steps 2 and 3: the integer candidate of an input and its outlier candidate, as sign and m. Below the least magnitude of the grid a mode that leads away from the sign of y gives the value next to zero on the other side, which lapses; `.rz` there is the model's (log entry 104). -/
def Q4xCandidates (x se oe : Nat) (rm : Rm) (i : ℤ) (o : Option (Bool × Nat)) : Prop :=
  match Fmt.f32.value x with
  | .nan _ => i = 0 ∧ o = none
  | .inf n => i = (if n then -7 else 7) ∧ o = some (n, 7)
  | .fin n _ _ =>
    let y := Fmt.f32.rat x * (2 : ℚ) ^ (127 - (se : ℤ))
    ∃ k j : ℤ, RoundsInt rm y k ∧ i = max (-7) (min 7 k) ∧ RoundsInt rm (y / (2 : ℚ) ^ ((oe : ℤ) - 10)) j ∧
      let m := max 8 (min 15 j.natAbs) - 8
      let far := |outlier oe (m + if n then 8 else 0) - y|
      let across := j.natAbs < 8 ∧ rm = if n then .ru else .rd
      ((k = i ∨ across ∨ (n = true ∧ m = 0) ∨ |(i : ℚ) - y| ≤ far) → o = none) ∧
      (k ≠ i → ¬ across → ¬ (n = true ∧ m = 0) → far < |(i : ℚ) - y| → o = some (n, m))

/-- R101 step 4: one magnitude is less than another; two infinite ones are equal. -/
def FVal.smaller (v w : FVal) : Prop :=
  match v, w with
  | .fin .., .inf _ => True
  | .fin .., .fin .. => |v.rat| < |w.rat|
  | _, _ => False

/-- R101 step 4: element `k` is written as an outlier. -/
def Q4xOutlier (x : Nat → Nat) (o : Nat → Option (Bool × Nat)) (k : Nat) : Prop :=
  o k ≠ none ∧ (o (partner k) = none ∨ if k % 2 = 0 then ¬ (Fmt.f32.value (x k)).smaller (Fmt.f32.value (x (partner k)))
    else (Fmt.f32.value (x (partner k))).smaller (Fmt.f32.value (x k)))

/-- R101 steps 5 and 6: the codes and the flags of eight inputs. -/
def Q4xEncodes (x : Nat → Nat) (se oe : Nat) (rm : Rm) (r : Nat × Flags) : Prop :=
  ∃ (i : Nat → ℤ) (o : Nat → Option (Bool × Nat)),
    let y (k : Nat) : ℚ := Fmt.f32.rat (x k) * (2 : ℚ) ^ (127 - (se : ℤ))
    let number (k : Nat) : Prop := (Fmt.f32.value (x k)).finite
    (∀ k, k < 8 → Q4xCandidates (x k) se oe rm (i k) (o k)) ∧ r.1 < 2 ^ 32 ∧
    (∀ k, k < 8 →
      (Q4xOutlier x o k → nibble r.1 k = 8 ∧ ∀ n m, o k = some (n, m) → nibble r.1 (partner k) = m + if n then 8 else 0) ∧
      (¬ Q4xOutlier x o k → ¬ Q4xOutlier x o (partner k) → (nibble r.1 k : ℤ) = i k % 16)) ∧
    (r.2.getLsbD 0 = true ↔ ∃ k, k < 8 ∧ ¬ number k) ∧
    (r.2.getLsbD 2 = true ↔ ∃ k, k < 8 ∧ number k ∧ ¬ Q4xOutlier x o (partner k) ∧
      ((Q4xOutlier x o k ∧ 15 * (2 : ℚ) ^ ((oe : ℤ) - 10) < |y k|) ∨ (¬ Q4xOutlier x o k ∧ 7 < |y k|))) ∧
    (r.2.getLsbD 4 = true ↔ ∃ k, k < 8 ∧ number k ∧ q4xUnit r.1 oe k ≠ y k) ∧ r.2.getLsbD 1 = false ∧ r.2.getLsbD 3 = false

/-- R68, R102: the eight values of a word of codes and their flags. -/
def Q4xDecodes (x se oe : Nat) (rm : Rm) (r : List Nat × Flags) : Prop :=
  ∃ rs : List Rounded, rs.length = 8 ∧ r.1 = rs.map Rounded.bits ∧
    r.2 = rs.foldl (fun (a : Flags) (y : Rounded) => a ||| y.flags)
      (if se ≠ 255 ∧ ∃ k ∈ List.range 4, nibble x (2 * k) = 8 ∧ nibble x (2 * k + 1) = 8 then 1 else 0) ∧
    ∀ k, k < 8 →
      let y := q4xUnit x oe k * (2 : ℚ) ^ ((se : ℤ) - 127)
      let e := nth ⟨0, 0⟩ rs k
      (se = 255 → e = ⟨0x7FC00000, 0⟩) ∧ (se ≠ 255 → (y = 0 → e = ⟨0, 0⟩) ∧ (y ≠ 0 → Fmt.f32.Rounds rm false y e))

/-- A conversion, L = 5: the source's span and the destination's follow their types. -/
def CvtWord (i : Instr) (f : Form) (dst src : Nat) (op : Rm → Bool → Nat → Rounded) : Prop :=
  LaneFixed i (f.shape [.vec f.w.ra.toNat (cvtSpan src) 0] (f.d (cvtSpan dst))) 5 fun s u l =>
    let r := op (s.mode u (f.w.rc.toNat % 8)) (f.w.rc.getLsbD 3) ((s.arg64 u (.vec f.w.ra.toNat (cvtSpan src) 0) l).toNat % 2 ^ tyBits src)
    (if tyBits dst = 64 then (res64 (place dst r.bits)).1 else (res32 ((place dst r.bits).setWidth 32)).1, r.flags)

/-- A transcendental of class 8. -/
def TransWord (i : Instr) (f : Form) (op : W32 → Rounded) : Prop :=
  LaneVar i (f.shape [f.a 1] [(.v, f.w.rd.toNat)]) fun s u l =>
    let r := op (s.arg32 u (f.a 1) l)
    ([BitVec.ofNat 64 r.bits], r.flags)

/-- R155, R164: the shape of a scalar-pipe word, and its second source. -/
def Form.pipe (f : Form) (srcs : List Src) (dsts : List (RegKind × Nat)) : Shape := { f.shape srcs dsts with pipe := true }

def Form.ua (f : Form) : Src := .uni f.w.ra.toNat 1

def Form.ub (f : Form) : Src := if f.w.pb = 2 then .imm f.w.rb else .uni f.w.rb.toNat 1

/-- R164: one computation for the group, written to a register of the group with L = 2. -/
def Pipe (i : Instr) (f : Form) (srcs : List Src) (op : State → Unit → W64) : Prop :=
  Completes i (f.pipe srcs [(.u, f.w.rd.toNat)]) fun s uid u =>
    s.retire uid (u.writeFixed 2 [⟨.u, f.w.rd.toNat, [(0, op s u)]⟩] 0) (f.pipe srcs [(.u, f.w.rd.toNat)])

def Pipe2 (i : Instr) (f : Form) (op : W64 → W64 → W64) : Prop :=
  Pipe i f [f.ua, f.ub] fun s u => op (s.arg64 u f.ua 0) (s.arg64 u f.ub 0)

def Pipe1 (i : Instr) (f : Form) (op : W64 → W64) : Prop :=
  Pipe i f [f.ua] fun s u => op (s.arg64 u f.ua 0)

/-- R27: the group of unit `u` in its handler: every window landed, nothing else changed. -/
def State.trapped (s : State) (uid : Nat) (u : Unit) (tvec : W64) (cause : Nat) (tepc tval : W64) : State :=
  s.setUnit uid { u.landAll with
    tcause := BitVec.ofNat 8 cause, tepc := tepc, tval := tval, inHandler := true, pc := (tvec &&& ~~~1#64).setWidth 57
    step := u.step + 1, wait := .none, synced := none, lastIssue := s.tick }

/-- R27, R28: a group that enters its handler when it traps: it has a vector, is not in a handler, and none of its own earlier instructions is on its way. -/
structure State.Handles (s : State) (u : Unit) (tm : Team) : Prop where
  team : s.team? u.team = some tm
  group : u.frag = none
  out : u.inHandler = false
  vector : tm.desc.tvec ≠ 0
  drained : u.drained = true

/-- R20: what the last producer of a register in a lane, in program order, wrote whose distance to step `b` is at least its latency. -/
def Unit.seen (u : Unit) (k : RegKind) (r l b : Nat) : Option W64 :=
  ((u.win.filter fun e => e.kind == k && e.idx == r && decide (e.due ≤ b)).flatMap fun e => (e.vals.filter fun v => v.1 == l).map Prod.snd).getLast?

/-- R103: the five outcomes of a conditional transfer. -/
def Transfer (i : Instr) (sh : Shape) (link : Option Nat) (target : Unit → W64) : Prop :=
  ∀ (s : State) (uid : Nat) (u : Unit), s.Clear uid u sh →
    let v := u.touchAll sh
    let t := v.guarded sh.guard
    let a := target v
    (t = 0 → exec i s = .next (s.retire uid v sh)) ∧
    (t ≠ 0 → t ≠ v.active → exec i s = .next (s.raise uid v 8 0x0D t)) ∧
    (t ≠ 0 → t = v.active → a.getLsbD 0 = true → exec i s = .next (s.raise uid v 8 0x04 a)) ∧
    (t ≠ 0 → t = v.active → a.getLsbD 0 = false → (a.setWidth 57).signExtend 64 ≠ a → exec i s = .next (s.raise uid v 8 0x12 a)) ∧
    (t ≠ 0 → t = v.active → a.getLsbD 0 = false → (a.setWidth 57).signExtend 64 = a →
      exec i s = .next (s.setUnit uid { (match link with
        | some r => v.writeVar [⟨.u, r, [(0, v.pc.signExtend 64 + 8)]⟩] 0
        | none => v) with pc := a.setWidth 57, step := v.step + 1 + sh.stall, wait := .none, lastIssue := s.tick }))

/-- R23: the flags that the earlier words of fixed latency have raised, in `fflags` or still on their way. -/
def Unit.raised (u : Unit) : Flags :=
  (u.win.filter fun e => e.kind == .fl).foldl (fun (a : Flags) (e : PendWrite) => e.vals.foldl (fun (b : Flags) (v : Nat × W64) => b ||| v.2.setWidth 5) a) u.fflags

/-- R75: the flags of matrix commands that no `wait.tl` has ordered. -/
def Unit.unordered (u : Unit) : Flags := u.mflags.foldl (fun (a : Flags) (x : Nat × Flags) => a ||| x.2) 0

/-- Table 21.2: the CSR numbers, and those that may be written. -/
def csrNumbers : List Nat := [0x001, 0x002, 0x003, 0x004, 0x005, 0x006, 0x010, 0x011, 0x012, 0x013, 0x014, 0x020, 0x030, 0x031, 0x0F0]

def csrNumbersRW : List Nat := [0x001, 0x002, 0x003, 0x004, 0x005, 0x006, 0x011, 0x012, 0x013]

/-- Table 21.2: the value `x` is in the legal range of a CSR. -/
def CsrTakes (n : Nat) (x : W64) : Prop :=
  (n = 0x002 → x.toNat ≤ 4) ∧ (n = 0x003 → x.toNat ≤ 8) ∧ (n = 0x004 ∨ n = 0x005 → x.toNat ≤ 1) ∧ (n = 0x006 → 64 ≤ x.toNat ∧ x.toNat ≤ 8192) ∧
  (n = 0x011 → x.toNat < 256) ∧ (n = 0x012 → x.getLsbD 0 = false ∧ (x.setWidth 57).signExtend 64 = x)

/-- Tables 1.4, 21.2 and 21.3: the value of CSR `n` for a unit of team `t`, `fflags` apart. -/
def State.CsrIs (s : State) (u : Unit) (t : Team) (n : Nat) (x : W64) : Prop :=
  (n = 0x002 → x = BitVec.ofNat 64 t.frm) ∧ (n = 0x003 → x = BitVec.ofNat 64 t.xthr) ∧ (n = 0x004 → x = if t.chk then 1 else 0) ∧
  (n = 0x005 → x = if t.det then 1 else 0) ∧ (n = 0x006 → x = BitVec.ofNat 64 t.lease) ∧ (n = 0x010 → x = t.desc.tvec) ∧
  (n = 0x011 → x = u.tcause.setWidth 64) ∧ (n = 0x012 → x = u.tepc) ∧ (n = 0x013 → x = u.tval) ∧ (n = 0x014 → x = if u.inHandler then 1 else 0) ∧
  (n = 0x020 → x = BitVec.ofNat 64 u.wct) ∧
  (∀ c, s.ctx? t.ctx = some c → (n = 0x030 → x = BitVec.ofNat 64 c.entry.prelim) ∧ (n = 0x031 → x = BitVec.ofNat 64 c.entry.farto)) ∧
  (n = 0x0F0 → x = BitVec.ofNat 64 (s.capMap.toNat + 2 ^ 16 * (s.spareClusters.length % 16)))

/-- R168: a class 12 word on a wide core: `f` gives each participant its values. -/
def Cross (i : Instr) (sh : Shape) (f : State → Unit → List Nat → Nat → LaneRes) : Prop :=
  ∀ (s : State) (uid : Nat) (u : Unit), s.Clear uid u sh → u.frag = none →
    exec i s = .next (s.varDone uid u sh ((u.guardedLanes sh.guard).map fun l => (l, f s u (u.guardedLanes sh.guard) l)))

/-- R170: the lane a mode of `shfl` names, before the test of the group's width. -/
def shflFrom (mode j l : Nat) : Int :=
  match mode with
  | 0 => j
  | 1 => (l : Int) - j
  | 2 => (l : Int) + j
  | _ => ((l ^^^ j : Nat) : Int)

/-- R175, R176: the value of a reduction over the lanes `ls` of a register. -/
def State.reduced (s : State) (u : Unit) (w : A64) (ls : List Nat) : LaneRes :=
  let r := reduceSet (s.mode u 7) (w.rc.toNat % 16) (w.rc.toNat / 16 % 4 == 1) (ls.map fun k => s.readV u w.ra.toNat k)
  ([r.1.setWidth 64], r.2)

/-- R169: a class 12 word of a fragment. It executes once, over the lanes of all threads left, when all of them wait at it; each thread then goes on with its values. A thread alone waits; threads that have met at different words trap. -/
def Rendezvous (i : Instr) (sh : Shape) (f : State → Unit → List Nat → Nat → LaneRes) : Prop :=
  ∀ (s : State) (uid : Nat) (u0 : Unit) (fr : FragInfo), s.Clear uid u0 sh → u0.frag = some fr → s.abortPending u0 = false →
    let u := u0.touchAll sh
    let s1 := s.setUnit uid { u with wait := .rendezvous }
    let all := s1.fragThreads fr
    let here (y : Unit) : Prop := y.wait = .rendezvous ∧ y.pc = u.pc
    let met (y : Unit) : Prop := y.wait = .rendezvous ∨ ∃ m st, y.wait = .lsync m st ∧ lsyncHolds all m = false
    ((∃ y ∈ all, ¬ met y.2) → (∃ y ∈ all, ¬ here y.2) → exec i s = .next s1) ∧
    ((∀ y ∈ all, met y.2) → (∃ y ∈ all, ¬ here y.2) → exec i s = .next (s.raise uid u sh.len 0x0A 0)) ∧
    ((∀ y ∈ all, here y.2) → ∃ t, exec i s = .next t ∧
      ∀ y ∈ all, ∃ z, t.unit? y.1 = some z ∧ z.pc = y.2.pc + BitVec.ofNat 57 sh.len ∧ z.wait = .none ∧ z.v = y.2.v ∧ z.p = y.2.p ∧ z.u = y.2.u ∧
        let ps := (List.range u.width).filter fun l => all.any fun x => (x.2.guarded sh.guard).getLsbD l
        let rows := (y.2.guardedLanes sh.guard).map fun l => (l, f s1 y.2 ps l)
        z.vars = y.2.vars ++ [⟨laneWrites sh.dsts rows, laneFlags rows, y.2.step⟩])

/-- R169: the value of a predicate in a lane of a fragment; lanes outside read zero. -/
def State.metPred (s : State) (u : Unit) (i l : Nat) : Bool :=
  u.frag.elim false fun f => (s.fragThreads f).any fun x => x.2.active.getLsbD l && x.2.arg1 i l

/-- The class 12 words other than `shfl`, `lsync` and `topk.ins`, with their shapes and what each computes from the predicates `pr` of its participants and its registers. -/
def crossWords (w : A64) (pr : State → Unit → Nat → Nat → Bool) : List (Instr × Shape × (State → Unit → List Nat → Nat → LaneRes)) :=
  let a1 : Src := .vec w.ra.toNat 1 0
  let pa : Src := .pred (w.ra.toNat % 8)
  let vd := [(RegKind.v, w.rd.toNat)]
  let pd := [(RegKind.p, w.rd.toNat % 8)]
  [(.voteAny w, (formA64 12 1 w).shape [pa] pd, fun s u ps _ => resP (ps.any fun l => pr s u (w.ra.toNat % 8) l)),
   (.voteAll w, (formA64 12 2 w).shape [pa] pd, fun s u ps _ => resP (ps.all fun l => pr s u (w.ra.toNat % 8) l)),
   (.voteBallot w, (formA64 12 3 w).shape [pa] ((formA64 12 3 w).d 2), fun s u ps _ => res64 (maskOf (ps.filter fun l => pr s u (w.ra.toNat % 8) l))),
   (.matchEq w, (formA64 12 4 w).shape [.vec w.ra.toNat (if w.rc.getLsbD 0 then 2 else 1) 0] ((formA64 12 4 w).d 2), fun s u ps l =>
      res64 (maskOf (ps.filter fun k => s.readV u w.ra.toNat k == s.readV u w.ra.toNat l &&
        (!w.rc.getLsbD 0 || s.readV u (w.ra.toNat + 1) k == s.readV u (w.ra.toNat + 1) l)))),
   (.redLane w, (formA64 12 5 w).shape [a1] vd, fun s u ps _ => s.reduced u w ps),
   (.scanLane w, (formA64 12 6 w).shape [a1] vd, fun s u ps l => s.reduced u w (ps.filter fun k => decide (k < l ∨ (k = l ∧ w.rc.getLsbD 6 = false)))),
   (.segred w, (formA64 12 7 w).shape [a1, .pred (w.rb.toNat % 8)] vd, fun s u ps l =>
      s.reduced u w (ps.filter fun k => !(ps.any fun h => pr s u (w.rb.toNat % 8) h && decide ((l < h ∧ h ≤ k) ∨ (k < h ∧ h ≤ l)))))]

/-- R173, Table 8.3: an integer reduction of a nonempty list of lanes. -/
def ReducesInt (op : Nat) (n32 : Bool) (xs : List W32) (r : W32) : Prop :=
  match op with
  | 0 => r = BitVec.ofNat 32 ((xs.map BitVec.toNat).sum)
  | 1 => r ∈ xs ∧ ∀ x ∈ xs, if n32 then r.toNat ≤ x.toNat else r.toInt ≤ x.toInt
  | 2 => r ∈ xs ∧ ∀ x ∈ xs, if n32 then x.toNat ≤ r.toNat else x.toInt ≤ r.toInt
  | 3 => ∀ i, i < 32 → r.getLsbD i = xs.all fun x => x.getLsbD i
  | 4 => ∀ i, i < 32 → r.getLsbD i = xs.any fun x => x.getLsbD i
  | _ => ∀ i, i < 32 → r.getLsbD i = decide ((xs.filter fun x => x.getLsbD i).length % 2 = 1)

/-- R174: the float sum of a nonempty list of lanes. -/
def ReducesSum (rm : Rm) (xs : List W32) (r : W32 × Flags) : Prop :=
  let v (x : W32) : FVal := Fmt.f32.value x.toNat
  let rat (x : W32) : ℚ := Fmt.f32.rat x.toNat
  let both := (∃ x ∈ xs, v x = .inf false) ∧ ∃ x ∈ xs, v x = .inf true
  let bad := both ∨ ∃ x ∈ xs, v x = .nan true
  let minus := (∀ x ∈ xs, x = 0x80000000) ∨ (rm = .rd ∧ ∃ x ∈ xs, rat x ≠ 0)
  ((both ∨ ∃ x ∈ xs, (v x).isNan = true) → r.1 = 0x7FC00000 ∧ (bad → r.2 = 1) ∧ (¬ bad → r.2 = 0)) ∧
  (¬ both → (∀ x ∈ xs, (v x).isNan = false) → ∀ n, (∃ x ∈ xs, v x = .inf n) → r = (BitVec.ofNat 32 (Fmt.f32.infBits n), 0)) ∧
  ((∀ x ∈ xs, (v x).finite) →
    ((xs.map rat).sum ≠ 0 → Fmt.f32.Rounds rm false (xs.map rat).sum ⟨r.1.toNat, r.2⟩) ∧
    ((xs.map rat).sum = 0 → (minus → r = (0x80000000, 0)) ∧ (¬ minus → r = (0, 0))))

/-- R174, Table 4.6: the float minimum or maximum of a nonempty list of lanes. -/
def ReducesOrder (greatest : Bool) (xs : List W32) (r : W32 × Flags) : Prop :=
  let v (x : W32) : FVal := Fmt.f32.value x.toNat
  ((∃ x ∈ xs, v x = .nan true) → r.2 = 1) ∧ ((∀ x ∈ xs, v x ≠ .nan true) → r.2 = 0) ∧
  ((∀ x ∈ xs, (v x).isNan = true) → r.1 = 0x7FC00000) ∧
  ((∃ x ∈ xs, (v x).isNan = false) → r.1 ∈ xs ∧ (v r.1).isNan = false ∧
    ∀ x ∈ xs, if greatest then ¬ Fmt.f32.beforeZ r.1.toNat x.toNat else ¬ Fmt.f32.beforeZ x.toNat r.1.toNat)

/-- What a word of unit `uid` leaves of the other units: all of a group's, and of a fragment thread's all but the dirty bits of the parent (R151). -/
def State.Others (s t : State) (uid : Nat) : Prop :=
  t.units.length = s.units.length ∧ ∀ k x, k ≠ uid → s.unit? k = some x → ∃ d, t.unit? k = some { x with dirty := d } ∧
    ((∀ y f, s.unit? uid = some y → y.frag = some f → f.parent ≠ k) → d = x.dirty)

/-- The registers and modes of a unit that only its own words and returns change. -/
def Unit.SameRegs (u v : Unit) : Prop :=
  v.v = u.v ∧ v.p = u.p ∧ v.u = u.u ∧ v.fflags = u.fflags ∧ v.tcause = u.tcause ∧ v.tepc = u.tepc ∧ v.tval = u.tval ∧
  v.inHandler = u.inHandler ∧ v.launched = u.launched ∧ v.active = u.active ∧ v.levels = u.levels ∧ v.joinCtr = u.joinCtr ∧
  v.ops = u.ops ∧ v.reqs = u.reqs ∧ v.spq = u.spq ∧ v.wct = u.wct ∧ v.floor = u.floor ∧ v.region = u.region ∧ v.live = u.live ∧
  v.team = u.team ∧ v.role = u.role ∧ v.gidx = u.gidx ∧ v.width = u.width ∧ v.budget = u.budget ∧ v.frag = u.frag ∧ v.batch = u.batch ∧ v.push = u.push

/-- The registers, windows, masks and trap registers of a unit. -/
def Unit.SameFiles (u v : Unit) : Prop :=
  v.v = u.v ∧ v.p = u.p ∧ v.u = u.u ∧ v.win = u.win ∧ v.fflags = u.fflags ∧ v.tcause = u.tcause ∧ v.tepc = u.tepc ∧ v.tval = u.tval ∧
  v.inHandler = u.inHandler ∧ v.launched = u.launched ∧ v.active = u.active ∧ v.levels = u.levels ∧ v.live = u.live ∧ v.frag = u.frag

/-- The word of unit `uid` is done: the unit stands behind it and has its files as before, and `P` holds of the next state and the unit in it. -/
def Goes (o : Out) (uid : Nat) (u : Unit) (sh : Shape) (P : State → Unit → Prop) : Prop :=
  ∃ t v, o = .next t ∧ t.unit? uid = some v ∧ v.pc = u.pc + BitVec.ofNat 57 sh.len ∧ v.step = u.step + 1 + sh.stall ∧ v.wait = .none ∧
    u.SameFiles v ∧ P t v

/-- Only the units and the model's operation number changed, and of the other units nothing. -/
def State.OnlyUnit (s t : State) (uid : Nat) : Prop := t = { s with units := t.units, seq := t.seq } ∧ s.Others t uid

/-- R182: the checks of a barrier or stage word over its addresses, in their order; past them `k` holds, unless the `sp` counter is full. A word with waiting behaviour (`halts`) takes a decided abort of its region first. -/
def BarWord (i : Instr) (sh : Shape) (halts own write : Bool) (as : State → Unit → List BarAddr) (k : State → Nat → Unit → Prop) : Prop :=
  ∀ (s : State) (uid : Nat) (u0 : Unit), s.Clear uid u0 sh →
    let u := u0.touchAll sh
    let xs := as s u
    let odd (a : BarAddr) : Bool := decide (a.sram % 8 ≠ 0)
    let far (a : BarAddr) : Bool := own && !s.ownWord u.team a
    let head (a : BarAddr) : Bool := write && decide (a.cluster = s.clusterOfUnit u) && s.inHeader a.cluster a.sram 8
    (halts = true → s.abortPending u = true → exec i s = .next ((s.setUnit uid { u with lastIssue := s.tick }).takeAbort uid)) ∧
    ((halts = true → s.abortPending u = false) →
      (∀ a, xs.find? odd = some a → exec i s = .next (s.raise uid u 8 0x04 (a.bits.setWidth 64))) ∧
      (xs.any odd = false → ∀ a, xs.find? far = some a → exec i s = .next (s.raise uid u 8 0x15 (a.bits.setWidth 64))) ∧
      (xs.any odd = false → xs.any far = false → ∀ a, xs.find? head = some a → exec i s = .next (s.raise uid u 8 0x11 (a.bits.setWidth 64))) ∧
      (xs.any odd = false → xs.any far = false → xs.any head = false →
        (u.pathFull .sp = true → exec i s = .next (s.waits uid u .counter)) ∧ (u.pathFull .sp = false → k s uid u)))

/-- R181: the addresses of the guarded-in active lanes, and of the lowest-numbered active lane. -/
def State.laneBars (s : State) (u : Unit) (w : A64) : List BarAddr :=
  (u.guardedLanes w.guard).map fun l => barAddr (s.clusterOfUnit u) (s.arg32 u (srcOf w.pa w.ra 1) l)

def State.firstBar (s : State) (u : Unit) (w : A64) : BarAddr :=
  barAddr (s.clusterOfUnit u) (s.arg32 u (srcOf w.pa w.ra 1) ((u.activeLanes.head?).getD 0))

/-- R227, R230: an access that is counted on a path and queued behind the unit's scratchpad accesses; nothing is performed yet. -/
def SpQueued (i : Instr) (sh : Shape) (p : Path) (s : State) (uid : Nat) (u : Unit) (A : SpAcc → Prop) : Prop :=
  Goes (exec i s) uid u sh fun t v => s.OnlyUnit t uid ∧ t.seq = s.seq + 1 ∧ v.ops = u.ops ++ [⟨s.seq, p, false⟩] ∧ v.reqs = u.reqs ∧
    v.vars = u.vars ∧ ∃ a, v.spq = u.spq ++ [a] ∧ a.seq = s.seq ∧ a.cluster = s.clusterOfUnit u ∧ A a

/-- R159, R230: a scratchpad access that the group issued before is still to be performed. -/
def State.Queued (s : State) (u : Unit) : Prop := u.spq ≠ [] ∨ s.groupSpAhead u = true

/-- R185, R187: a wait on one bit of a word of the own allocation. -/
def PhaseWord (i : Instr) (op : BitVec 6) (w : A64) (bit : Nat) (wait : Nat → Wait) : Prop :=
  let sh := barShape op w (!w.rc.getLsbD 1)
  BarWord i sh true true false (fun s u => [s.firstBar u w]) fun s uid u =>
    let a := s.firstBar u w
    let phase := (BitVec.ofNat 64 (s.sramBytes a.cluster a.sram 8)).getLsbD bit
    let awaited := if w.rc.getLsbD 1 then w.rc.getLsbD 0 else (s.arg32 u (srcOf w.pb w.rb 1) ((u.activeLanes.head?).getD 0)).getLsbD 0
    (s.Queued u → exec i s = .next (s.waits uid u .scoreboard)) ∧
    (¬ s.Queued u → phase ≠ awaited → exec i s = .next (s.waits uid u (wait a.sram))) ∧
    (¬ s.Queued u → phase = awaited → Goes (exec i s) uid u sh fun t v => s.OnlyUnit t uid ∧ v.count .sp ≤ u.count .sp + 1 ∧
      (u.ops = [] → v.ops = []))

/-- R115: the lanes of a global access whose addresses are aligned and canonical and lie where an access may reach. -/
structure State.Reaches (s : State) (u : Unit) (g : GlobalAccess) (lanes : List (Nat × W64)) (xs : List (Nat × W64 × Xlate)) : Prop where
  same : xs.map (fun x => (x.1, x.2.1)) = lanes
  aligned : ∀ x ∈ lanes, x.2.toNat % g.size = 0
  fits : ∀ x ∈ lanes, canonical x.2 = true
  found : ∀ x ∈ xs, s.place u g x.2.1 = .ok x.2.2

/-- R115, R117, R227: a counted global access: its checks in their order over its lanes, and, past them, a request whose lanes are on their way, none of it performed. `R` says what else the request holds. Lanes that read beside a poisoned word are performed within the word's own step, which is the model's (log entry 101): the last clause speaks of the others. -/
def GlobalWord (i : Instr) (sh : Shape) (g : GlobalAccess) (lanes : State → Unit → List (Nat × W64)) (R : State → Unit → Req → Prop) : Prop :=
  ∀ (s : State) (uid : Nat) (u0 : Unit), s.Clear uid u0 sh →
    let u := u0.touchAll sh
    let ls := lanes s u
    (s.abortPending u = true → exec i s = .next ((s.setUnit uid { u with lastIssue := s.tick }).takeAbort uid)) ∧
    (s.abortPending u = false →
      (∀ x, ls.find? (fun x => decide (x.2.toNat % g.size ≠ 0)) = some x → exec i s = .next (s.raise uid u 8 0x04 x.2)) ∧
      ((∀ x ∈ ls, x.2.toNat % g.size = 0) → ∀ x, ls.find? (fun x => !canonical x.2) = some x → exec i s = .next (s.raise uid u 8 0x12 x.2)) ∧
      ((∀ x ∈ ls, x.2.toNat % g.size = 0 ∧ canonical x.2 = true) → ∀ pre l a post r, ls = pre ++ (l, a) :: post →
        (∀ y ∈ pre, ∃ x, s.place u g y.2 = .ok x) → s.place u g a = .error r →
          (u.drained = false → exec i s = .next (s.waits uid u .drain)) ∧
          (u.drained = true → exec i s = .next ((s.setUnit uid { u with lastIssue := s.tick }).parkFault uid a g.access r (some l)))) ∧
      ∀ xs, s.Reaches u g ls xs →
        let shut (x : Nat × W64 × Xlate) : Bool := g.write && s.sealedAt (s.unitAsid u) x.2.1 x.2.2
        let bad (x : Nat × W64 × Xlate) : Bool := g.read && s.readsPoison u.region (s.unitCore u) (s.request u g []) (laneReq u.floor x.1 x.2.1 x.2.2 0 0)
        let clean : Prop := g.read = true → ∀ x ∈ xs, s.sectorMarked x.2.2 = false
        (∀ x, xs.find? shut = some x → exec i s = .next (s.raise uid u 8 0x11 x.2.1)) ∧
        (xs.any shut = false → ∀ x, xs.find? bad = some x → exec i s = .next (s.raise uid u 8 0x13 x.2.1)) ∧
        (xs.any shut = false → xs.any bad = false →
        (u.pathFull g.path = true → exec i s = .next (s.waits uid u .counter)) ∧
        (u.pathFull g.path = false → clean → Goes (exec i s) uid u sh fun t v =>
          t = { s with units := t.units, seq := s.seq + 1, grids := t.grids, free := t.free } ∧ (g.write = false → t.grids = s.grids) ∧
          ((∀ x ∈ xs, x.2.2.attr.device = none) → t.free = s.free) ∧ s.Others t uid ∧
          v.ops = u.ops ++ [⟨s.seq, g.path, false⟩] ∧ v.spq = u.spq ∧ v.vars = u.vars ∧ v.wct = u.wct ∧ v.floor = u.floor ∧
          ∃ q, v.reqs = u.reqs ++ [q] ∧ q.seq = s.seq ∧ q.size = g.size ∧ q.region = u.region.isSome ∧
            (∀ tm, s.team? u.team = some tm → q.lease = tm.lease ∧ q.det = tm.det) ∧
            q.lanes.map (fun l => (l.lane, l.ea)) = ls ∧
            (∀ l ∈ q.lanes, l.done = false ∧ l.at_ = 0 ∧ l.floor = u.floor ∧ ∃ x, s.place u g l.ea = .ok x ∧
              l.pa = x.pa ∧ l.va = x.va ∧ l.asid = x.asid ∧ l.attr = x.attr) ∧ R s u q)))

/-- R109, R111, R117: what a load and a store of `size` bytes are as accesses: their kind, path, access code and destination. -/
def loadAccess (w : AM) (size span : Nat) (uni : Bool) : GlobalAccess :=
  { kind := .load (!uni && codeSigned w.code.toNat), size := size, path := .ld, access := 1, write := false, read := true, rtype := w.rtype.toNat, scope := w.scope.toNat
    op := 0, ety := 0, uni := uni, dest := w.rd.toNat, span := span, okPred := none }

def storeAccess (w : AM) (size : Nat) : GlobalAccess :=
  { kind := .store, size := size, path := .st, access := 2, write := true, read := false, rtype := w.rtype.toNat, scope := w.scope.toNat
    op := 0, ety := 0, uni := false, dest := 0, span := 0, okPred := none }

/-- R118: a prefetch as an access. -/
def prefetchAccess (w : AM) : GlobalAccess :=
  { kind := .prefetch, size := 1, path := .ld, access := 1, write := false, read := false, rtype := w.rtype.toNat, scope := w.scope.toNat
    op := 0, ety := 0, uni := false, dest := 0, span := 0, okPred := none }

/-- R272 to R278: an atomic, whose old value comes back, and a reduction. -/
def atomAccess (w : AMT) (red : Bool) (ok : Option Nat) : GlobalAccess :=
  { kind := if red then .red else .atom, size := atomSize w.ety.toNat, path := if red then .st else .at_, access := if red then 4 else 3, write := true
    read := true, rtype := w.rtype.toNat, scope := w.scope.toNat, op := w.code.toNat, ety := w.ety.toNat, uni := false, dest := w.rd.toNat
    span := if red then 0 else atomValueRegs w.ety.toNat, okPred := ok }

/-- R109: the effective address of a lane under a mode: base, index by the scale, offset. -/
def State.address (s : State) (u : Unit) (mode : BitVec 2) (sbase vindex scale : Nat) (off : W64) (l : Nat) : W64 :=
  let x := s.readV u vindex l
  let idx : W64 := match mode.toNat with
    | 0 => x.signExtend 64
    | 1 => x.setWidth 64
    | _ => 0
  u.uget sbase + idx * BitVec.ofNat 64 (2 ^ scale) + off

/-- The addresses of the guarded-in active lanes of a class 14 or 15 word, and of a class 16 word. -/
def State.amLanes (s : State) (u : Unit) (w : AM) : List (Nat × W64) :=
  (u.guardedLanes w.guard).map fun l => (l, s.address u w.mode w.sbase.toNat w.vindex.toNat w.scale.toNat (w.off.signExtend 64) l)

def State.amtLanes (s : State) (u : Unit) (w : AMT) : List (Nat × W64) :=
  (u.guardedLanes w.guard).map fun l => (l, s.address u w.mode w.sbase.toNat w.vindex.toNat w.scale.toNat (w.off.signExtend 64) l)

/-- Register `k` of a lane's data, and the data of a class 16 word: `n` registers of value, then those of the second value. -/
def State.Data (s : State) (u : Unit) (rd n lane : Nat) (d : BitVec 128) : Prop :=
  ∀ k, k < n → d.extractLsb' (32 * k) 32 = s.readV u (rd + k) lane

def State.AtomData (s : State) (u : Unit) (w : AMT) (lane : Nat) (d : BitVec 128) (d2 : W64) : Prop :=
  let n := atomValueRegs w.ety.toNat
  s.Data u w.rd.toNat n lane d ∧ (w.code.toNat = 7 ∨ w.code.toNat = 8 → ∀ k, k < n → d2.extractLsb' (32 * k) 32 = s.readV u (w.rd.toNat + n + k) lane)

/-- R270: the checks of a scratchpad access over its lanes, in their order; past them, with room on the counter, `k` holds. -/
def SpWord (i : Instr) (sh : Shape) (p : Path) (size : Nat) (write read : Bool) (lanes : State → Unit → List (Nat × W64)) (A : State → Unit → SpAcc → Prop) : Prop :=
  ∀ (s : State) (uid : Nat) (u0 : Unit) (tm : Team), s.Clear uid u0 sh → s.team? u0.team = some tm →
    let u := u0.touchAll sh
    let cl := clusterOf tm.core
    let xs := lanes s u
    let odd (x : Nat × W64) : Bool := decide (x.2.toNat % size ≠ 0)
    let out (x : Nat × W64) : Bool := decide (2 ^ 20 ≤ x.2.toNat) || !s.sramAllowed tm.ctx u.team cl x.2.toNat write
    let head (x : Nat × W64) : Bool := write && s.inHeader cl x.2.toNat size
    let bad (x : Nat × W64) : Bool := read && s.sramPoisoned cl x.2.toNat size
    (∀ x, xs.find? odd = some x → exec i s = .next (s.raise uid u 8 0x04 x.2)) ∧
    (xs.any odd = false → ∀ x, xs.find? out = some x → exec i s = .next (s.raise uid u 8 0x12 x.2)) ∧
    (xs.any odd = false → xs.any out = false → ∀ x, xs.find? head = some x → exec i s = .next (s.raise uid u 8 0x11 x.2)) ∧
    (xs.any odd = false → xs.any out = false → xs.any head = false → ∀ x, xs.find? bad = some x → exec i s = .next (s.raise uid u 8 0x13 x.2)) ∧
    (xs.any odd = false → xs.any out = false → xs.any head = false → xs.any bad = false →
      (u.pathFull p = true → exec i s = .next (s.waits uid u .counter)) ∧
      (u.pathFull p = false → SpQueued i sh p s uid u fun a => a.size = size ∧ a.lanes.map (fun l => (l.lane, l.addr)) = xs.map (fun x => (x.1, x.2.toNat)) ∧ A s u a))

/-- A word done with one value for a register, pending as a result of variable latency. -/
def Gives (o : Out) (uid : Nat) (u : Unit) (sh : Shape) (rd : Nat) (x : W64) (P : State → Unit → Prop) : Prop :=
  Goes o uid u sh fun t v => v.vars = u.vars ++ [⟨[⟨.u, rd, [(0, x)]⟩], 0, u.step⟩] ∧ P t v

/-- A word with a base and a length, and perhaps a result, of class 17. -/
def rangeWord (op : BitVec 6) (w : A64) (more : List Src) (res : Bool) : Shape :=
  (formA64 17 op w).shape ([.uni w.ra.toNat 1, .uni w.rb.toNat 1] ++ more) (if res then [(.u, w.rd.toNat)] else [])

/-- R302, R304, R308: a command of the copy engine whose checks all pass joins the queue and its group's batch; it waits for a full counter or a full queue. `ready` says in plain terms when the checks pass. -/
def CopyWord (i : Instr) (sh : Shape) (ready : State → Unit → Prop) (kind : State → Unit → Nat × CopyKind) : Prop :=
  ∀ (s : State) (uid : Nat) (u0 : Unit), s.Clear uid u0 sh →
    let u := u0.touchAll sh
    let k := kind s u
    let n := copyEntries k.2 k.1
    ready s u →
      (u.pathFull .cp = true → exec i s = .next (s.waits uid u .counter)) ∧
      (u.pathFull .cp = false → s.queueFull (s.unitCore u) (s.unitCtx u) = true → exec i s = .next (s.waits uid u .counter)) ∧
      (u.pathFull .cp = false → s.queueFull (s.unitCore u) (s.unitCtx u) = false →
        Goes (exec i s) uid u sh fun t v => t = { s with units := t.units, seq := s.seq + 1, copies := t.copies } ∧ s.Others t uid ∧
          (u.ops = [] → v.ops = []) ∧ v.vars = u.vars ∧ v.batch = u.batch ∧
          ∃ c, t.copies = s.copies ++ [c] ∧ c.seq = s.seq ∧ c.core = s.unitCore u ∧ c.team = u.team ∧ c.unit = uid ∧ c.batch = batchId uid u.batch ∧
            c.pc = u.pc.signExtend 64 ∧ c.size = k.1 ∧ c.kind = k.2 ∧ c.floor = u.floor ∧ c.next = 0 ∧ c.entries = n ∧ c.fault = none)

/-- R320, R352: a matrix command that is accepted gets the team's next ticket, joins its queue and leaves the ticket pending in its register. -/
def Accepts (i : Instr) (sh : Shape) (s : State) (uid : Nat) (u : Unit) (rd tile : Nat) (kind : MatrixKind) : Prop :=
  ∀ tm, s.team? u.team = some tm →
    (64 ≤ s.matrixLoad (s.unitCore u) → exec i s = .next (s.waits uid u .counter)) ∧
    (s.matrixLoad (s.unitCore u) < 64 → Gives (exec i s) uid u sh rd (BitVec.ofNat 64 (tm.mTicket + 1)) fun t _ =>
      t = { s with units := t.units, teams := t.teams } ∧ s.Others t uid ∧
      ∃ m c, t.team? u.team = some m ∧ m.mTicket = tm.mTicket + 1 ∧ m.queue = tm.queue ++ [c] ∧ m.acc = tm.acc ∧ m.latch = tm.latch ∧
        c.unit = uid ∧ c.pc = u.pc.signExtend 64 ∧ c.word = sh.raw ∧ c.ticket = tm.mTicket + 1 ∧ c.tile = tile ∧ c.mask = u.active ∧ c.kind = kind ∧
        c.next = 0 ∧ c.finished = false)

/-- R323: every active lane votes for one legal format word. -/
def State.Votes (s : State) (u : Unit) (r : Nat) (fw : BitVec 16) : Prop :=
  u.activeLanes ≠ [] ∧ (∀ l ∈ u.activeLanes, (s.readV u r l).setWidth 16 = fw) ∧ (mfmt fw).legal = true

/-- R327, R328: ranges that lie in the team's own scratchpad banks. -/
def State.OwnRanges (s : State) (u : Unit) (rs : List (Int × Nat)) : Prop :=
  ∀ r ∈ rs, s.outsideOwn u.team (s.clusterOfUnit u) r.1 r.2 = none

/-- Ranges of which none reaches a header of the cluster (R196). -/
def State.NoHeader (s : State) (u : Unit) (rs : List (Int × Nat)) : Prop :=
  ∀ r ∈ rs, r.2 ≠ 0 → s.inHeader (s.clusterOfUnit u) r.1.toNat r.2 = false

/-- R360: the operands of a sparse conversion that pass its checks: counts and shape, alignment, address ranges, and no header among the bytes it is sure to write. -/
def ConvReady (s : State) (u : Unit) (k : ConvKind) (e : Nat) (rsp : Bool) (a b : W64) (p : Nat → W64) (status : W64) : Prop :=
  (match k with
    | .isect => (p 4).toNat % 2 ^ 32 ≤ 2 ^ 22
    | .merge => (p 2).toNat % 2 ^ 32 < 2 ^ 27 ∧ (p 2).toNat / 2 ^ 32 < 2 ^ 27 ∧ b.toNat < 2 ^ 32
    | _ => b.toNat < 2 ^ 52 ∧ (convShape b).cols * e ≤ (convShape b).stride ∧ (convShape b).stride % e = 0) ∧
  (∀ x ∈ convArrays k e rsp a b p status, x.addr.toNat % x.align = 0 ∧ x.noAddress = false) ∧
  ∀ x ∈ convExtents k e a b p status, s.rowsHitHeader (s.clusterOfUnit u) x.1.toNat x.2.1 x.2.2.2 x.2.2.1 = none

/-- R363: the registers `mloop` names: A's rows in registers for up to ten steps below the budget, or its scratchpad base; B's base; the block of the count and the increments; the format words. -/
def mloopShape (w : A64) (u : Unit) : Shape :=
  let ra := w.ra.toNat
  let c := w.pb.toNat % 32
  let n := (u.uget c).toNat
  let past := if !w.pa.getLsbD 6 && decide (u.budget ≤ w.rc.toNat ∧ ra < u.budget ∧ u.budget < ra + 12 * n) then [Src.named u.budget] else []
  matrixShape 2 w
    ((if w.pa.getLsbD 6 then [Src.uni ra 1] else if n = 0 then [.named ra] else if n ≤ 10 then
        .named ra :: ((List.range (12 * n)).filter fun i => decide (ra + i < u.budget)).map fun i => .vec (ra + i) 1 0 else [.named ra]) ++
      [.uni w.rb.toNat 1] ++ (if w.pa.getLsbD 6 then [.uni c 3] else [.uni c 1, .uni (c + 2) 1]) ++ [.vec w.rc.toNat 1 0] ++ past)

/-- R132, R133, R143, R226, R236, Table 6.3: a group at team start, `first` being the number of its first thread. -/
def Unit.Begins (u : Unit) (t : Team) (g : Grid) (ti role gidx : Nat) (r : RoleDesc) (first : Nat) : Prop :=
  (u.team = ti ∧ u.role = role ∧ u.gidx = gidx ∧ u.width = r.width ∧ u.budget = r.budget ∧ u.pc = t.desc.entry.setWidth 57 ∧ u.live = true ∧
    u.active = maskBelow r.width ∧ u.fflags = 0 ∧ u.wct = 0 ∧ u.floor = g.waited ∧ u.inHandler = false ∧ u.frag = none) ∧
  (∀ l, l < r.width → u.vget 0 l = BitVec.ofNat 32 (first + l)) ∧ (∀ n l, n ≠ 0 → u.vget n l = 0) ∧ (∀ n, n < 7 → u.pmask n = 0) ∧
  u.uget 1 = BitVec.ofNat 64 (t.y * 2 ^ 32 + t.x) ∧ u.uget 2 = BitVec.ofNat 64 (role * 2 ^ 16 + t.z) ∧ u.uget 4 = BitVec.ofNat 64 t.base ∧ u.uget 5 = 0 ∧
  u.uget 6 = g.record.user ∧ ∀ i, i < 16 → u.uget (8 + i) = BitVec.ofNat 64 (fieldOf g.args (8 * i) 8)

/-- Table 13.2: the new value of each operation of class 16 from the old value and the operands, in a word of the type's width, and whether an `addlim` succeeds; the compare value of a `cas` and the addend of an `addlim` come first. -/
def AtomOperations : Prop :=
  (∀ ety ∈ [2, 6, 3, 7], ∀ old d d2 : BitVec 128,
    let w := if ety = 3 ∨ ety = 7 then 64 else 32
    old.toNat < 2 ^ w → d.toNat < 2 ^ w → d2.toNat < 2 ^ w →
    let num (x : BitVec 128) : ℤ := if ety = 2 ∨ ety = 3 then (x.setWidth w).toInt else (x.setWidth w).toNat
    let sum := BitVec.ofNat 128 ((old.toNat + d.toNat) % 2 ^ w)
    atomNew 0 ety old d d2 = (some sum, true) ∧
    atomNew 1 ety old d d2 = (some (if num old < num d then old else d), true) ∧
    atomNew 2 ety old d d2 = (some (if num old < num d then d else old), true) ∧
    atomNew 3 ety old d d2 = (some (old &&& d), true) ∧ atomNew 4 ety old d d2 = (some (old ||| d), true) ∧ atomNew 5 ety old d d2 = (some (old ^^^ d), true) ∧
    atomNew 6 ety old d d2 = (some d, true) ∧
    atomNew 7 ety old d d2 = (if old = d then some d2 else none, true) ∧
    atomNew 8 ety old d d2 = if num old + num d ≤ num d2 then (some sum, true) else (none, false)) ∧
  (∀ ety ∈ [10, 11], ∀ old d d2 : BitVec 128, old.toNat < 2 ^ (if ety = 11 then 64 else 32) → d.toNat < 2 ^ (if ety = 11 then 64 else 32) →
    let f := fpFmt (ety == 11)
    atomNew 6 ety old d d2 = (some d, true) ∧
    atomNew 9 ety old d d2 = (some (BitVec.ofNat 128 (f.add .rn old.toNat d.toNat).bits), true) ∧
    atomNew 10 ety old d d2 = (some (BitVec.ofNat 128 (f.minmax false false old.toNat d.toNat).bits), true) ∧
    atomNew 11 ety old d d2 = (some (BitVec.ofNat 128 (f.minmax true false old.toNat d.toNat).bits), true)) ∧
  ∀ ety ∈ [8, 9], ∀ old d d2 : BitVec 128, old.toNat < 2 ^ 32 → d.toNat < 2 ^ 32 →
    let f := if ety = 8 then Fmt.f16 else Fmt.bf16
    let both (op : Nat → Nat → Rounded) : Option (BitVec 128) × Bool :=
      (some (BitVec.ofNat 128 ((op (old.toNat % 65536) (d.toNat % 65536)).bits + 65536 * (op (old.toNat / 65536) (d.toNat / 65536)).bits)), true)
    atomNew 9 ety old d d2 = both (f.add .rn) ∧ atomNew 10 ety old d d2 = both (f.minmax false false) ∧ atomNew 11 ety old d d2 = both (f.minmax true false)

/-- A byte of a line as its slice holds it, and as an L1 copy does, by its address. -/
def State.sliceByte (s : State) (asid a : Nat) : Byte := (s.sliceWord asid (a / 128) (a % 128 / 4)).extractLsb' (8 * (a % 4)) 8

def L1Line.byte (c : L1Line) (a : Nat) : Byte := (sget c.data (a % 128 / 4)).extractLsb' (8 * (a % 4)) 8

/-- R113, R203, R225, R231, Table 5.4: the first part of a pending lane, of up to eight bytes or of an atomic's word, performed at a slice that no L1 owns the line of, or in an L1. -/
def PerformsPart (s : State) (uid r i : Nat) (u : Unit) (q : Req) (l : LaneReq) (b : L2Line) : Prop :=
  let core := s.unitCore u
  let n := match q.kind with
    | .load _ => min q.size 8
    | .store => min q.size 8
    | _ => q.size
  let done (t : State) (m : LaneReq) : Prop := exec (.sliceRequest uid r i .perform) s = .next t ∧ t.mem = s.mem ∧ t.hostMem = s.hostMem ∧
    ∃ v p, t.unit? uid = some v ∧ nth? v.reqs r = some p ∧ nth? p.lanes i = some m ∧ m.at_ = n ∧ m.done = decide (q.size ≤ n)
  let here (a : Nat) : Prop := l.va ≤ a ∧ a < l.va + n
  let kept (t : State) : Prop := ∀ a, a / 128 = l.va / 128 → ¬ here a → t.sliceByte l.asid a = s.sliceByte l.asid a
  let same (t : State) : Prop := ∀ a, a / 128 = l.va / 128 → t.sliceByte l.asid a = s.sliceByte l.asid a
  (q.kind = .store → s.inRegionSet l.asid l.va n = false →
    (q.rtype ≠ 1 ∨ s.useL1 core l = false → ∃ t m, done t m ∧ m.wrote = true ∧ s.now ≤ m.ctime ∧ b.lease ≤ m.ctime ∧ kept t ∧
      ∀ k, k < n → t.sliceByte l.asid (l.va + k) = l.data.extractLsb' (8 * k) 8) ∧
    (q.rtype = 1 → s.useL1 core l = true → ∃ t m x c, done t m ∧ m.wrote = true ∧ b.lease ≤ m.ctime ∧ same t ∧
      t.l2Line? l.asid (l.va / 128) = some x ∧ x.owner = some core ∧ t.l1Line? core l.asid (l.va / 128) = some c ∧ c.owned = true ∧
      (∀ k, k < n → c.byte (l.va + k) = l.data.extractLsb' (8 * k) 8) ∧ ∀ a, a / 128 = l.va / 128 → ¬ here a → c.byte a = s.sliceByte l.asid a)) ∧
  (∀ sg, q.kind = .load sg →
    (2 ≤ q.rtype ∨ s.useL1 core l = false ∨ (q.rtype = 0 ∧ s.l1Line? core l.asid (l.va / 128) = none) → ∃ t m, done t m ∧ m.wrote = l.wrote ∧ same t ∧
      m.stamp = max l.stamp b.stamp ∧ ∀ k, k < n → m.result.extractLsb' (8 * k) 8 = s.sliceByte l.asid (l.va + k)) ∧
    (q.rtype = 1 → s.useL1 core l = true → s.l1Line? core l.asid (l.va / 128) = none → s.sealedLine l.asid (l.va / 128) = false → ∃ t m x, done t m ∧ same t ∧
      t.l2Line? l.asid (l.va / 128) = some x ∧ x.owner = some core ∧ ∀ k, k < n → m.result.extractLsb' (8 * k) 8 = s.sliceByte l.asid (l.va + k)) ∧
    (∀ c, q.rtype = 0 → s.recalls = [] → s.l1Hit core { q with size := n } l = some c → ∃ t m, done t m ∧ same t ∧ t.l1 = s.l1 ∧
      m.stamp = max l.stamp c.stamp ∧ ∀ k, k < n → m.result.extractLsb' (8 * k) 8 = c.byte (l.va + k))) ∧
  (q.kind = .atom ∨ q.kind = .red → q.size = atomSize q.ety → s.inRegionSet l.asid l.va n = false →
    ∀ old : BitVec 128, old.toNat < 2 ^ (8 * n) → (∀ k, k < n → old.extractLsb' (8 * k) 8 = s.sliceByte l.asid (l.va + k)) →
      let x := atomNew q.op q.ety old l.data (l.data2.setWidth 128)
      ∃ t m, done t m ∧ m.result = old ∧ m.ok = x.2 ∧ m.wrote = x.1.isSome ∧ m.stamp = max l.stamp b.stamp ∧ (x.1 = none → same t) ∧
        ∀ y, x.1 = some y → kept t ∧ s.now ≤ m.ctime ∧ b.lease ≤ m.ctime ∧ ∀ k, k < n → t.sliceByte l.asid (l.va + k) = y.extractLsb' (8 * k) 8)

end Sys2Proof.Machine

open Sys2Proof Sys2Proof.Machine

/-- Integer add, subtract, saturate, min, max, abs and neg write their exact results. -/
def Obligations.IntegerSumsAndOrder : Prop :=
  ∀ (w : A64) (c : C16) (b : B32),
    Int2 (.add w) (formA64 0 0 w) (fun a b => a + b) ∧
    Int2 (.sub w) (formA64 0 1 w) (fun a b => a - b) ∧
    Int2 (.addSatS32 w) (formA64 0 4 w) (fun a b => satS (a.toInt + b.toInt)) ∧
    Int2 (.addSatN32 w) (formA64 0 5 w) (fun a b => satN (a.toNat + b.toNat)) ∧
    Int2 (.subSatS32 w) (formA64 0 6 w) (fun a b => satS (a.toInt - b.toInt)) ∧
    Int2 (.subSatN32 w) (formA64 0 7 w) (fun a b => satN ((a.toNat : Int) - b.toNat)) ∧
    Int2 (.minS32 w) (formA64 0 8 w) minS ∧
    Int2 (.minN32 w) (formA64 0 9 w) minN ∧
    Int2 (.maxS32 w) (formA64 0 10 w) maxS ∧
    Int2 (.maxN32 w) (formA64 0 11 w) maxN ∧
    Int1 (.absS32 w) (formA64 0 12 w) (fun a => BitVec.ofNat 32 a.toInt.natAbs) ∧
    Int1 (.negS32 w) (formA64 0 13 w) (fun a => 0 - a) ∧
    Pair2 (.addB64 w) (formA64 0 16 w) (fun a b => a + b) ∧
    Pair2 (.subB64 w) (formA64 0 17 w) (fun a b => a - b) ∧
    Pair2 (.minS64 w) (formA64 0 24 w) minS ∧
    Pair2 (.minN64 w) (formA64 0 25 w) minN ∧
    Pair2 (.maxS64 w) (formA64 0 26 w) maxS ∧
    Pair2 (.maxN64 w) (formA64 0 27 w) maxN ∧
    Int2 (.addS32C16 c) (formC16 1 0 false c) (fun a b => a + b) ∧
    Int2 (.subS32C16 c) (formC16 2 0 false c) (fun a b => a - b) ∧
    Int2 (.minS32C16 c) (formC16 9 0 false c) minS ∧
    Int2 (.maxS32C16 c) (formC16 10 0 false c) maxS ∧
    Int2 (.addS32B32 b) (formB32 0 0 false b) (fun a b => a + b) ∧
    Int2 (.addS32ImmB32 b) (formB32 1 0 true b) (fun a b => a + b) ∧
    Int2 (.subS32B32 b) (formB32 2 0 false b) (fun a b => a - b) ∧
    Int2 (.subS32ImmB32 b) (formB32 3 0 true b) (fun a b => a - b) ∧
    Int2 (.minS32B32 b) (formB32 4 0 false b) minS ∧
    Int2 (.maxS32B32 b) (formB32 5 0 false b) maxS ∧
    Int2 (.minN32B32 b) (formB32 6 0 false b) minN ∧
    Int2 (.maxN32B32 b) (formB32 7 0 false b) maxN ∧
    Int1 (.absS32B32 b) (formB32 8 0 false b) (fun a => BitVec.ofNat 32 a.toInt.natAbs) ∧
    Int2 (.addSatS32B32 b) (formB32 9 0 false b) (fun a b => satS (a.toInt + b.toInt))

/-- addc and subb give the 33-bit sum or the difference and the carry or borrow. -/
def Obligations.CarryAndBorrow : Prop :=
  (∀ (w : A64),
    Carry2 (.addc w) (formA64 0 2 w) sumCarry ∧
    Carry2 (.subb w) (formA64 0 3 w) diffBorrow) ∧
  (∀ (u : Machine.Unit) (l : Nat), l < 64 → u.arg1 7 l = true) ∧ ∀ (u : Machine.Unit) (vals : List (Nat × W64)), u.put ⟨.p, 7, vals⟩ = u

/-- Multiply words write the named half of the exact product, plus c for the mad forms. -/
def Obligations.ProductsAndMultiplyAdds : Prop :=
  ∀ (w : A64) (b : B32),
    Int2 (.mulLo w) (formA64 1 0 w) (fun a b => BitVec.ofNat 32 (a.toNat * b.toNat)) ∧
    Int2 (.mulHiS32 w) (formA64 1 1 w) highS ∧
    Int2 (.mulHiN32 w) (formA64 1 2 w) highN ∧
    Int3 (.madLo w) (formA64 1 3 w) (fun a b c => BitVec.ofNat 32 (a.toNat * b.toNat + c.toNat)) ∧
    Int3 (.madHiS32 w) (formA64 1 4 w) (fun a b c => highS a b + c) ∧
    Int3 (.madHiN32 w) (formA64 1 5 w) (fun a b c => highN a b + c) ∧
    Int2 (.mulLoS32B32 b) (formB32 10 0 false b) (fun a b => BitVec.ofNat 32 (a.toNat * b.toNat)) ∧
    Int2 (.mulHiN32B32 b) (formB32 11 0 false b) highN ∧
    Int3 (.madLoS32B32 b) (formB32Acc 12 b) (fun a b c => BitVec.ofNat 32 (a.toNat * b.toNat + c.toNat))

/-- div and rem complete on every operand, division by zero and overflow among them. -/
def Obligations.DivisionWithEdgeCases : Prop :=
  (∀ (w : A64),
    Var2 (.divS32 w) (formA64 1 6 w) quotS ∧
    Var2 (.divN32 w) (formA64 1 7 w) quotN ∧
    Var2 (.remS32 w) (formA64 1 8 w) remS ∧
    Var2 (.remN32 w) (formA64 1 9 w) remN) ∧
  (∀ w : A64, [Instr.divS32 w, .divN32 w, .remS32 w, .remN32 w].any Instr.wf = true → w.rc = 0) ∧
  quotS 0x80000000 0xFFFFFFFF = 0x80000000 ∧ remS 0x80000000 0xFFFFFFFF = 0

/-- dp4 adds four byte products to c modulo 2^32. -/
def Obligations.ByteDotProducts : Prop :=
  ∀ (w : A64) (b : B32),
    Int3 (.dp4S8 w) (formA64 1 10 w) dotS ∧
    Int3 (.dp4N8 w) (formA64 1 11 w) dotN ∧
    Int3 (.dp4S8B32 b) (formB32Acc 13 b) dotS

/-- Logical words and shifts take the low five or six bits of their amount. -/
def Obligations.LogicAndShifts : Prop :=
  ∀ (w : A64) (c : C16) (b : B32),
    Int2 (.and w) (formA64 2 0 w) (fun a b => a &&& b) ∧
    Int2 (.or w) (formA64 2 1 w) (fun a b => a ||| b) ∧
    Int2 (.xor w) (formA64 2 2 w) (fun a b => a ^^^ b) ∧
    Int2 (.andn w) (formA64 2 3 w) (fun a b => a &&& ~~~b) ∧
    Int1 (.not w) (formA64 2 4 w) (fun a => ~~~a) ∧
    Int2 (.shl w) (formA64 2 5 w) (fun a b => a <<< (b.toNat % 32)) ∧
    Int2 (.shr w) (formA64 2 6 w) (fun a b => a >>> (b.toNat % 32)) ∧
    Int2 (.sar w) (formA64 2 7 w) (fun a b => a.sshiftRight (b.toNat % 32)) ∧
    Int2 (.rol w) (formA64 2 8 w) (fun a b => a.rotateLeft (b.toNat % 32)) ∧
    PairShift (.shlB64 w) (formA64 2 24 w) (fun a n => a <<< n) ∧
    PairShift (.shrB64 w) (formA64 2 25 w) (fun a n => a >>> n) ∧
    PairShift (.sarB64 w) (formA64 2 26 w) (fun a n => a.sshiftRight n) ∧
    Int2 (.andB32C16 c) (formC16 3 0 false c) (fun a b => a &&& b) ∧
    Int2 (.orB32C16 c) (formC16 4 0 false c) (fun a b => a ||| b) ∧
    Int2 (.xorB32C16 c) (formC16 5 0 false c) (fun a b => a ^^^ b) ∧
    Int2 (.shlB32C16 c) (formC16 6 0 false c) (fun a b => a <<< (b.toNat % 32)) ∧
    Int2 (.shrB32C16 c) (formC16 7 0 false c) (fun a b => a >>> (b.toNat % 32)) ∧
    Int2 (.sarB32C16 c) (formC16 8 0 false c) (fun a b => a.sshiftRight (b.toNat % 32)) ∧
    Int2 (.andB32B32 b) (formB32 14 0 false b) (fun a b => a &&& b) ∧
    Int2 (.orB32B32 b) (formB32 15 0 false b) (fun a b => a ||| b) ∧
    Int2 (.xorB32B32 b) (formB32 16 0 false b) (fun a b => a ^^^ b) ∧
    Int2 (.andnB32B32 b) (formB32 17 0 false b) (fun a b => a &&& ~~~b) ∧
    Int2 (.andB32ImmB32 b) (formB32 18 0 true b) (fun a b => a &&& b) ∧
    Int2 (.orB32ImmB32 b) (formB32 19 0 true b) (fun a b => a ||| b) ∧
    Int1 (.notB32B32 b) (formB32 20 0 false b) (fun a => ~~~a) ∧
    Int2 (.shlB32B32 b) (formB32 21 0 false b) (fun a b => a <<< (b.toNat % 32)) ∧
    Int2 (.shrB32B32 b) (formB32 22 0 false b) (fun a b => a >>> (b.toNat % 32)) ∧
    Int2 (.sarB32B32 b) (formB32 23 0 false b) (fun a b => a.sshiftRight (b.toNat % 32)) ∧
    Int2 (.shlB32ImmB32 b) (formB32 24 0 true b) (fun a b => a <<< (b.toNat % 32)) ∧
    Int2 (.shrB32ImmB32 b) (formB32 25 0 true b) (fun a b => a >>> (b.toNat % 32)) ∧
    Int2 (.sarB32ImmB32 b) (formB32 26 0 true b) (fun a b => a.sshiftRight (b.toNat % 32))

/-- bfe gives the field of a, cut at bit 31, and bfi replaces the bits of its field in c. -/
def Obligations.FieldWords : Prop :=
  ((∃ op : W32 → W32 → W32 → W32, (∀ (w : A64), Int3 (.bfeN32 w) (formA64 2 10 w) op) ∧
    ∀ a b c k, k < 32 → (op a b c).getLsbD k = (decide (k < fieldLen b c.toNat) && a.getLsbD (fieldPos b + k))) ∧
  (∃ op : W32 → W32 → W32 → W32, (∀ (w : A64), Int3 (.bfeS32 w) (formA64 2 9 w) op) ∧
    ∀ a b c k, k < 32 → (op a b c).getLsbD k = (decide (fieldLen b c.toNat ≠ 0) && a.getLsbD (fieldPos b + min k (fieldLen b c.toNat - 1))))) ∧
  (∃ op : W32 → W32 → W32 → W32, (∀ (w : A64), Int3 (.bfi w) (formA64 2 11 w) op) ∧
    ∀ a b c k, k < 32 → (op a b c).getLsbD k =
      if fieldPos b ≤ k ∧ k < fieldPos b + fieldLen b (b.toNat / 256) then a.getLsbD (k - fieldPos b) else c.getLsbD k)

/-- brev, popc, popc.lo, clz and ctz give what R87 counts, and hcell interleaves three coordinates. -/
def Obligations.BitCountsAndMortonKeys : Prop :=
  (
  (∃ op : W32 → W32, (∀ (w : A64), Int1 (.brev w) (formA64 2 12 w) op) ∧
    ∀ a k, k < 32 → (op a).getLsbD k = a.getLsbD (31 - k)) ∧
  (∃ op : W32 → W32, (∀ (w : A64), Int1 (.popc w) (formA64 2 13 w) op) ∧ (∀ (b : B32), Int1 (.popcB32B32 b) (formB32 27 0 false b) op) ∧
    ∀ a, (op a).toNat = onesBelow a 32) ∧
  (∃ op : W32 → W32 → W32, (∀ (w : A64), Int2 (.popcLo w) (formA64 2 14 w) op) ∧ (∀ (b : B32), Int2 (.popcLoB32B32 b) (formB32 28 0 false b) op) ∧
    ∀ a b, (op a b).toNat = onesBelow a b.toNat) ∧
  (∃ op : W32 → W32, (∀ (w : A64), Int1 (.clz w) (formA64 2 15 w) op) ∧ (∀ (b : B32), Int1 (.clzB32B32 b) (formB32 29 0 false b) op) ∧
    ∀ a, (a = 0 → op a = 32) ∧ (a ≠ 0 → (op a).toNat ≤ 31 ∧ a.getLsbD (31 - (op a).toNat) = true ∧ ∀ k, 31 - (op a).toNat < k → a.getLsbD k = false)) ∧
  (∃ op : W32 → W32, (∀ (w : A64), Int1 (.ctz w) (formA64 2 16 w) op) ∧
    ∀ a, (a = 0 → op a = 32) ∧ (a ≠ 0 → (op a).toNat ≤ 31 ∧ a.getLsbD (op a).toNat = true ∧ ∀ k, k < (op a).toNat → a.getLsbD k = false))) ∧
  (∃ op : W32 → W32 → W32 → W32, (∀ (w : A64), Int3 (.hcell w) (formA64 2 17 w) op) ∧ (∀ (b : B32), Int3 (.hcellB32 b) (formB32Acc 30 b) op) ∧
    (∀ x y z k, k < 10 → (op x y z).getLsbD (3 * k) = x.getLsbD k ∧ (op x y z).getLsbD (3 * k + 1) = y.getLsbD k ∧ (op x y z).getLsbD (3 * k + 2) = z.getLsbD k) ∧
    ∀ x y z k, 30 ≤ k → (op x y z).getLsbD k = false)

/-- cmp writes the truth of its condition over the numbers its type gives its operands. -/
def Obligations.IntegerCompares : Prop :=
  (∀ (w : A64), Instr.wf (.cmp w) = true → CmpWord (.cmp w) (formA64 3 0 w)) ∧
    (∀ (b : B32), Instr.wf (.cmpEqS32B32 b) = true → CmpWord (.cmpEqS32B32 b) (formB32 32 0 false b)) ∧
    (∀ (b : B32), Instr.wf (.cmpLtS32B32 b) = true → CmpWord (.cmpLtS32B32 b) (formB32 33 2 false b)) ∧
    (∀ (b : B32), Instr.wf (.cmpLtN32B32 b) = true → CmpWord (.cmpLtN32B32 b) (formB32 34 10 false b)) ∧
    (∀ (b : B32), Instr.wf (.cmpGeS32B32 b) = true → CmpWord (.cmpGeS32B32 b) (formB32 35 5 false b))

/-- fcmp follows IEEE 754: NaN is unordered, -0 equals +0, and ordering conditions raise invalid on any NaN. -/
def Obligations.FloatCompares : Prop :=
  ∃ op : Fmt → Nat → Nat → Nat → Bool × Flags,
    (∀ (w : A64), FcmpWord (.fcmp w) (formA64 3 1 w) op) ∧
    (∀ (b : B32), FcmpWord (.fcmpLtF32B32 b) (formB32 36 2 false b) op) ∧
    (∀ (b : B32), FcmpWord (.fcmpGeF32B32 b) (formB32 37 5 false b) op) ∧
    ∀ f ∈ [Fmt.f32, Fmt.f64], ∀ cc x y, cc ≤ 5 → x < 2 ^ f.width → y < 2 ^ f.width →
      (((f.value x).isNan = true ∨ (f.value y).isNan = true) →
        (op f cc x y).1 = decide (cc = 1) ∧ (op f cc x y).2 = if 2 ≤ cc then 1 else sigFlags (f.value x) (f.value y)) ∧
      ((f.value x).isNan = false → (f.value y).isNan = false → (op f cc x y).2 = 0 ∧
        ∃ lt eq : Bool, (op f cc x y).1 = relHolds cc lt eq ∧ (lt = true ↔ (f.value x).below (f.value y)) ∧
          (eq = true ↔ ¬ (f.value x).below (f.value y) ∧ ¬ (f.value y).below (f.value x)))

/-- pand, por, pxor and pnot write a predicate; p7 reads true and takes nothing. -/
def Obligations.PredicateLogic : Prop :=
  (∀ w : A64,
    Pred2 (.pand w) (formA64 3 8 w) and ∧
    Pred2 (.por w) (formA64 3 9 w) or ∧
    Pred2 (.pxor w) (formA64 3 10 w) xor ∧
    LaneFixed (.pnot w) ((formA64 3 11 w).shape [.pred (w.ra.toNat % 8)] [(.p, w.rd.toNat % 8)]) 3 fun _ u l => resP (!u.arg1 (w.ra.toNat % 8) l)) ∧
  (∀ w : A64, [Instr.pand w, .por w, .pxor w, .pnot w].any Instr.wf = true → w.pa = 0 ∧ w.pb = 0) ∧
  (∀ (u : Machine.Unit) (vals : List (Nat × W64)), u.put ⟨.p, 7, vals⟩ = u) ∧
  ∀ (u : Machine.Unit) (l : Nat), l < 64 → u.arg1 7 l = true

/-- sel takes a or b by a predicate, mov copies a source, li loads an immediate. -/
def Obligations.SelectsMovesAndImmediates : Prop :=
  (∀ (w : A64) (c : C16) (b : B32),
    Int1 (.mov w) (formA64 3 3 w) (fun a => a) ∧
    Int1 (.movB32C16 c) (formC16 0 0 true c) (fun a => a) ∧
    Int1 (.movB32B32 b) (formB32 31 0 false b) (fun a => a)) ∧
  (∀ w : A64, LaneFixed (.sel w) ((formA64 3 2 w).shape [(formA64 3 2 w).a 1, (formA64 3 2 w).b 1, .pred (w.rc.toNat % 8)] [(.v, w.rd.toNat)]) 3 fun s u l =>
    res32 (if (u.arg1 (w.rc.toNat % 8) l = true ↔ w.rc.getLsbD 3 = false) then s.arg32 u ((formA64 3 2 w).a 1) l else s.arg32 u ((formA64 3 2 w).b 1) l)) ∧
  (∀ x : AI, LaneFixed (.li x) ((formAI 3 4 x).shape [] [(.v, x.rd.toNat)]) 3 fun _ _ _ => res32 x.imm) ∧
  ∀ w : A64, Instr.wf (.mov w) = true → w.pa ≠ 2

/-- The arithmetic words of classes 4, 5 and 6 complete with one rounded result for each lane. -/
def Obligations.FloatArithmeticCompletes : Prop :=
  ∀ (bf : BitVec 1) (rm : BitVec 3) (w : A64) (c : C16) (b : B32),
    Fp2 (.faddF32 w) (formA64 4 0 w) false Fmt.add ∧
    Fp2 (.fsubF32 w) (formA64 4 1 w) false Fmt.sub ∧
    Fp2 (.fmulF32 w) (formA64 4 2 w) false Fmt.mul ∧
    Fp2Var (.fdivF32 w) (formA64 4 3 w) false Fmt.div ∧
    Fp1Var (.fsqrtF32 w) (formA64 4 4 w) false Fmt.sqrt ∧
    Fp3 (.ffmaF32 rm w) (formA64 4 (0b010#3 ++ rm) w) false rm.toNat Fmt.fma ∧
    Fp2 (.faddF64 w) (formA64 6 0 w) true Fmt.add ∧
    Fp2 (.fsubF64 w) (formA64 6 1 w) true Fmt.sub ∧
    Fp2 (.fmulF64 w) (formA64 6 2 w) true Fmt.mul ∧
    Fp2Var (.fdivF64 w) (formA64 6 3 w) true Fmt.div ∧
    Fp1Var (.fsqrtF64 w) (formA64 6 4 w) true Fmt.sqrt ∧
    Fp3 (.ffmaF64 rm w) (formA64 6 (0b010#3 ++ rm) w) true rm.toNat Fmt.fma ∧
    Half2 (.faddX2 bf w) (formA64 5 (bf ++ 0#5) w) (halfFmt bf).add ∧
    Half2 (.fsubX2 bf w) (formA64 5 (bf ++ 1#5) w) (halfFmt bf).sub ∧
    Half2 (.fmulX2 bf w) (formA64 5 (bf ++ 2#5) w) (halfFmt bf).mul ∧
    Half3 (.ffmaX2 bf rm w) (formA64 5 (bf ++ 0b10#2 ++ rm) w) rm.toNat (halfFmt bf).fma ∧
    Fp2 (.faddF32C16 c) (formC16 11 7 false c) false Fmt.add ∧
    Fp2 (.fsubF32C16 c) (formC16 12 7 false c) false Fmt.sub ∧
    Fp2 (.fmulF32C16 c) (formC16 13 7 false c) false Fmt.mul ∧
    Fp2 (.faddF32B32 b) (formB32 38 7 false b) false Fmt.add ∧
    Fp2 (.fsubF32B32 b) (formB32 39 7 false b) false Fmt.sub ∧
    Fp2 (.fmulF32B32 b) (formB32 40 7 false b) false Fmt.mul ∧
    Fp3 (.ffmaF32B32 b) (formB32Acc 41 b) false 7 Fmt.fma ∧
    Half2 (.faddF16x2B32 b) (formB32 46 7 false b) (halfFmt 0).add ∧
    Half2 (.fmulF16x2B32 b) (formB32 47 7 false b) (halfFmt 0).mul ∧
    Half3 (.ffmaF16x2B32 b) (formB32Acc 48 b) 7 (halfFmt 0).fma ∧
    Half2 (.faddBf16x2B32 b) (formB32 49 7 false b) (halfFmt 1).add ∧
    Half2 (.fmulBf16x2B32 b) (formB32 50 7 false b) (halfFmt 1).mul ∧
    Half3 (.ffmaBf16x2B32 b) (formB32Acc 51 b) 7 (halfFmt 1).fma ∧
    Fp2 (.faddF64B32 b) (formB32 52 7 false b) true Fmt.add ∧
    Fp2 (.fmulF64B32 b) (formB32 53 7 false b) true Fmt.mul ∧
    Fp3 (.ffmaF64B32 b) (formB32Acc 54 b) true 7 Fmt.fma

/-- Sums, products and fused multiply-adds of finite values are delivered as their exact value correctly rounded. -/
def Obligations.FloatResultsAreCorrectlyRounded : Prop :=
  ∀ f ∈ laneFmts, ∀ (rm : Rm) (x y z : Nat), f.finite x → f.finite y → f.finite z →
    (f.rat x + f.rat y ≠ 0 → f.RoundsTo rm (f.rat x + f.rat y) (f.add rm x y)) ∧
    (f.rat x - f.rat y ≠ 0 → f.RoundsTo rm (f.rat x - f.rat y) (f.sub rm x y)) ∧
    (f.rat x * f.rat y ≠ 0 → f.RoundsTo rm (f.rat x * f.rat y) (f.mul rm x y)) ∧
    (f.rat x * f.rat y + f.rat z ≠ 0 → f.RoundsTo rm (f.rat x * f.rat y + f.rat z) (f.fma rm x y z)) ∧
    (f.rat x + f.rat y = 0 → f.add rm x y =
      ⟨if (x.testBit (f.e + f.m) && y.testBit (f.e + f.m)) || (decide (rm = .rd) && (x.testBit (f.e + f.m) != y.testBit (f.e + f.m)))
        then 2 ^ (f.e + f.m) else 0, 0⟩) ∧
    (f.rat x - f.rat y = 0 → f.sub rm x y =
      ⟨if (x.testBit (f.e + f.m) && !y.testBit (f.e + f.m)) || (decide (rm = .rd) && (x.testBit (f.e + f.m) == y.testBit (f.e + f.m)))
        then 2 ^ (f.e + f.m) else 0, 0⟩) ∧
    (f.rat x * f.rat y + f.rat z = 0 → f.fma rm x y z =
      let p := x.testBit (f.e + f.m) != y.testBit (f.e + f.m)
      ⟨if (p && z.testBit (f.e + f.m)) || (decide (rm = .rd) && (p != z.testBit (f.e + f.m))) then 2 ^ (f.e + f.m) else 0, 0⟩)

/-- Quotients and square roots of finite values are delivered as their exact value correctly rounded. -/
def Obligations.QuotientsAndRootsAreCorrectlyRounded : Prop :=
  ∀ f ∈ laneFmts, ∀ (rm : Rm) (x y : Nat), f.finite x → f.finite y →
    (f.rat x ≠ 0 → f.rat y ≠ 0 → f.RoundsTo rm (f.rat x / f.rat y) (f.div rm x y)) ∧
    (0 < f.rat x → f.finite (f.sqrt rm x).bits ∧ 0 ≤ f.rat (f.sqrt rm x).bits ∧
      let Low := f.rat (f.sqrt rm x).bits ^ 2 ≤ f.rat x ∧ ∀ r, f.finite r → 0 ≤ f.rat r → f.rat r ^ 2 ≤ f.rat x → f.rat r ≤ f.rat (f.sqrt rm x).bits
      let High := f.rat x ≤ f.rat (f.sqrt rm x).bits ^ 2 ∧ ∀ r, f.finite r → 0 ≤ f.rat r → f.rat x ≤ f.rat r ^ 2 → f.rat (f.sqrt rm x).bits ≤ f.rat r
      match rm with
      | .rz => Low
      | .rd => Low
      | .ru => High
      | _ => Low ∨ High)

/-- Infinities, zeros and NaNs give the special results of R94 with their flags. -/
def Obligations.FloatSpecialCases : Prop :=
  ∀ f ∈ laneFmts, ∀ (rm : Rm) (x y z : Nat) (a b : Bool), x < 2 ^ f.width → y < 2 ^ f.width → z < 2 ^ f.width →
    (f.value x = .inf a → f.value y = .inf b → (f.add rm x y = if a = b then ⟨f.infBits a, 0⟩ else ⟨f.nan, 1⟩) ∧
      (f.sub rm x y = if a = b then ⟨f.nan, 1⟩ else ⟨f.infBits a, 0⟩) ∧ f.mul rm x y = ⟨f.infBits (a != b), 0⟩ ∧ f.div rm x y = ⟨f.nan, 1⟩) ∧
    (f.value x = .inf a → f.finite y → f.rat y = 0 → f.mul rm x y = ⟨f.nan, 1⟩ ∧ f.mul rm y x = ⟨f.nan, 1⟩ ∧
      f.fma rm x y z = ⟨f.nan, 1⟩ ∧ f.fma rm y x z = ⟨f.nan, 1⟩) ∧
    (f.finite x → f.finite y → f.rat x = 0 → f.rat y = 0 → f.div rm x y = ⟨f.nan, 1⟩) ∧
    (f.finite x → f.finite y → f.rat x ≠ 0 → f.rat y = 0 →
      f.div rm x y = ⟨f.infBits (x.testBit (f.e + f.m) != y.testBit (f.e + f.m)), 2⟩) ∧
    (f.finite x → f.rat x < 0 → f.sqrt rm x = ⟨f.nan, 1⟩) ∧ (f.value x = .inf true → f.sqrt rm x = ⟨f.nan, 1⟩) ∧
    f.sqrt rm (2 ^ (f.e + f.m)) = ⟨2 ^ (f.e + f.m), 0⟩ ∧ f.sqrt rm (f.infBits false) = ⟨f.infBits false, 0⟩ ∧
    ((f.value x).isNan = true ∨ (f.value y).isNan = true →
      [f.add rm x y, f.sub rm x y, f.mul rm x y, f.div rm x y].all (fun r => r == ⟨f.nan, sigFlags (f.value x) (f.value y)⟩) = true) ∧
    ((f.value x).isNan = true → f.sqrt rm x = ⟨f.nan, sigFlags (f.value x) (f.value x)⟩) ∧
    ((f.value x).isNan = true ∨ (f.value y).isNan = true ∨ (f.value z).isNan = true →
      (∀ c, ¬ (f.value x = .inf c ∧ f.finite y ∧ f.rat y = 0) ∧ ¬ (f.value y = .inf c ∧ f.finite x ∧ f.rat x = 0)) →
      f.fma rm x y z = ⟨f.nan, sigFlags (f.value x) (f.value y) ||| sigFlags (f.value z) (f.value z)⟩) ∧
    (f.value x = .inf a → (f.value y = .inf b ∨ f.finite y ∧ f.rat y ≠ 0 ∧ y.testBit (f.e + f.m) = b) →
      (∀ c, f.value z = .inf c → (f.fma rm x y z = if (a != b) = c then ⟨f.infBits c, 0⟩ else ⟨f.nan, 1⟩) ∧
        f.fma rm y x z = if (a != b) = c then ⟨f.infBits c, 0⟩ else ⟨f.nan, 1⟩) ∧
      (f.finite z → f.fma rm x y z = ⟨f.infBits (a != b), 0⟩ ∧ f.fma rm y x z = ⟨f.infBits (a != b), 0⟩)) ∧
    (f.finite x → f.finite y → f.value z = .inf a → f.fma rm x y z = ⟨f.infBits a, 0⟩)

/-- fmin and fmax order -0 below +0 and treat NaNs as Table 4.6 states. -/
def Obligations.MinimumAndMaximum : Prop :=
  (∀ (bf : BitVec 1) (w : A64) (c : C16) (b : B32),
    Fp2 (.fminF32 w) (formA64 4 7 w) false (fun f _ x y => f.minmax false false x y) ∧
    Fp2 (.fmaxF32 w) (formA64 4 8 w) false (fun f _ x y => f.minmax true false x y) ∧
    Fp2 (.fminNanF32 w) (formA64 4 9 w) false (fun f _ x y => f.minmax false true x y) ∧
    Fp2 (.fmaxNanF32 w) (formA64 4 10 w) false (fun f _ x y => f.minmax true true x y) ∧
    Fp2 (.fminF64 w) (formA64 6 7 w) true (fun f _ x y => f.minmax false false x y) ∧
    Fp2 (.fmaxF64 w) (formA64 6 8 w) true (fun f _ x y => f.minmax true false x y) ∧
    Fp2 (.fminNanF64 w) (formA64 6 9 w) true (fun f _ x y => f.minmax false true x y) ∧
    Fp2 (.fmaxNanF64 w) (formA64 6 10 w) true (fun f _ x y => f.minmax true true x y) ∧
    Half2 (.fminX2 bf w) (formA64 5 (bf ++ 7#5) w) (fun _ x y => (halfFmt bf).minmax false false x y) ∧
    Half2 (.fmaxX2 bf w) (formA64 5 (bf ++ 8#5) w) (fun _ x y => (halfFmt bf).minmax true false x y) ∧
    Half2 (.fminNanX2 bf w) (formA64 5 (bf ++ 9#5) w) (fun _ x y => (halfFmt bf).minmax false true x y) ∧
    Half2 (.fmaxNanX2 bf w) (formA64 5 (bf ++ 10#5) w) (fun _ x y => (halfFmt bf).minmax true true x y) ∧
    Fp2 (.fminF32C16 c) (formC16 14 0 false c) false (fun f _ x y => f.minmax false false x y) ∧
    Fp2 (.fmaxF32C16 c) (formC16 15 0 false c) false (fun f _ x y => f.minmax true false x y) ∧
    Fp2 (.fminF32B32 b) (formB32 42 0 false b) false (fun f _ x y => f.minmax false false x y) ∧
    Fp2 (.fmaxF32B32 b) (formB32 43 0 false b) false (fun f _ x y => f.minmax true false x y)) ∧
  ∀ f ∈ laneFmts, ∀ (mx np : Bool) (x y : Nat), x < 2 ^ f.width → y < 2 ^ f.width →
    (f.minmax mx np x y).flags = sigFlags (f.value x) (f.value y) ∧
    ((f.value x).isNan = false → (f.value y).isNan = false → ((f.minmax mx np x y).bits = x ∨ (f.minmax mx np x y).bits = y) ∧
      if mx then ¬ f.beforeZ (f.minmax mx np x y).bits x ∧ ¬ f.beforeZ (f.minmax mx np x y).bits y
      else ¬ f.beforeZ x (f.minmax mx np x y).bits ∧ ¬ f.beforeZ y (f.minmax mx np x y).bits) ∧
    ((f.value x).isNan = true → (f.value y).isNan = false → (f.minmax mx np x y).bits = if np then f.nan else y) ∧
    ((f.value x).isNan = false → (f.value y).isNan = true → (f.minmax mx np x y).bits = if np then f.nan else x) ∧
    ((f.value x).isNan = true → (f.value y).isNan = true → (f.minmax mx np x y).bits = f.nan)

/-- fabs and fneg change only the sign bit, and fclass sets exactly the bit of the class. -/
def Obligations.SignsAndClasses : Prop :=
  (∀ (bf : BitVec 1) (w : A64) (b : B32),
    Fp1 (.fabsF32 w) (formA64 4 11 w) false (fun f _ x => f.abs x) ∧
    Fp1 (.fnegF32 w) (formA64 4 12 w) false (fun f _ x => f.neg x) ∧
    Fp1 (.fabsF64 w) (formA64 6 11 w) true (fun f _ x => f.abs x) ∧
    Fp1 (.fnegF64 w) (formA64 6 12 w) true (fun f _ x => f.neg x) ∧
    Half1 (.fabsX2 bf w) (formA64 5 (bf ++ 11#5) w) (halfFmt bf).abs ∧
    Half1 (.fnegX2 bf w) (formA64 5 (bf ++ 12#5) w) (halfFmt bf).neg ∧
    Fp1 (.fabsF32B32 b) (formB32 44 0 false b) false (fun f _ x => f.abs x) ∧
    Fp1 (.fnegF32B32 b) (formB32 45 0 false b) false (fun f _ x => f.neg x) ∧
    LaneFixed (.fclassF32 w) ((formA64 4 13 w).shape [(formA64 4 13 w).a (fpn false)] [(.v, w.rd.toNat)]) (fpLat false) (fun s u l => ([BitVec.ofNat 64 ((fpFmt false).classMask (s.argF u false ((formA64 4 13 w).a (fpn false)) l))], 0)) ∧
    LaneFixed (.fclassF64 w) ((formA64 6 13 w).shape [(formA64 6 13 w).a (fpn true)] [(.v, w.rd.toNat)]) (fpLat true) (fun s u l => ([BitVec.ofNat 64 ((fpFmt true).classMask (s.argF u true ((formA64 6 13 w).a (fpn true)) l))], 0))) ∧
  (∀ f ∈ laneFmts, ∀ x k, x < 2 ^ f.width → (f.abs x).flags = 0 ∧ (f.neg x).flags = 0 ∧
    (f.abs x).bits.testBit k = (decide (k ≠ f.e + f.m) && x.testBit k) ∧ (f.neg x).bits.testBit k = (decide (k = f.e + f.m) != x.testBit k)) ∧
  ∀ f ∈ [Fmt.f32, Fmt.f64], ∀ x, x < 2 ^ f.width → ∃ k, f.classMask x = 2 ^ k ∧ k ≤ 9 ∧
    (k = 0 ↔ f.value x = .inf true) ∧ (k = 7 ↔ f.value x = .inf false) ∧ (k = 8 ↔ f.value x = .nan true) ∧ (k = 9 ↔ f.value x = .nan false) ∧
    (k = 3 ↔ f.value x = .fin true 0 f.qmin) ∧ (k = 4 ↔ f.value x = .fin false 0 f.qmin) ∧
    (k = 1 ↔ f.finite x ∧ f.rat x ≤ -(2 : ℚ) ^ f.emin) ∧ (k = 6 ↔ f.finite x ∧ (2 : ℚ) ^ f.emin ≤ f.rat x) ∧
    (k = 2 ↔ f.finite x ∧ -(2 : ℚ) ^ f.emin < f.rat x ∧ f.rat x < 0) ∧ (k = 5 ↔ f.finite x ∧ 0 < f.rat x ∧ f.rat x < (2 : ℚ) ^ f.emin)

/-- frnd delivers an integral value under its mode, and ldexp scales by a power of two. -/
def Obligations.IntegralRoundingAndScaling : Prop :=
  (∀ (w : A64),
    Fp1 (.frndF32 w) (formA64 4 5 w) false Fmt.rnd ∧
    LaneFixed (.ldexpF32 w) ((formA64 4 6 w).shape [(formA64 4 6 w).a (fpn false), (formA64 4 6 w).b 1] ((formA64 4 6 w).d (fpn false))) (fpLat false) (fun s u l => fpRes false ((fpFmt false).ldexp (s.mode u (w.rc.toNat % 8)) (s.argF u false ((formA64 4 6 w).a (fpn false)) l) (s.arg32 u ((formA64 4 6 w).b 1) l).toInt)) ∧
    Fp1 (.frndF64 w) (formA64 6 5 w) true Fmt.rnd ∧
    LaneFixed (.ldexpF64 w) ((formA64 6 6 w).shape [(formA64 6 6 w).a (fpn true), (formA64 6 6 w).b 1] ((formA64 6 6 w).d (fpn true))) (fpLat true) (fun s u l => fpRes true ((fpFmt true).ldexp (s.mode u (w.rc.toNat % 8)) (s.argF u true ((formA64 6 6 w).a (fpn true)) l) (s.arg32 u ((formA64 6 6 w).b 1) l).toInt))) ∧
  (∀ f ∈ [Fmt.f32, Fmt.f64], ∀ (rm : Rm) (x : Nat), x < 2 ^ f.width → (f.value x).isNan = false →
    (f.rnd rm x).flags = 0 ∧ ((∃ a, f.value x = .inf a) → (f.rnd rm x).bits = x) ∧
    (f.finite x → f.finite (f.rnd rm x).bits ∧ (f.rnd rm x).bits.testBit (f.e + f.m) = x.testBit (f.e + f.m) ∧
      ((∃ k : ℤ, f.rat x = k) → (f.rnd rm x).bits = x) ∧ ∃ k : ℤ, f.rat (f.rnd rm x).bits = k ∧
        match rm with
        | .rd => k ≤ f.rat x ∧ f.rat x < k + 1
        | .ru => (k : ℚ) - 1 < f.rat x ∧ f.rat x ≤ k
        | .rz => |(k : ℚ)| ≤ |f.rat x| ∧ |f.rat x - k| < 1
        | .rn => |f.rat x - k| ≤ 1 / 2 ∧ (|f.rat x - k| = 1 / 2 → k % 2 = 0)
        | .ra => |f.rat x - k| ≤ 1 / 2 ∧ (|f.rat x - k| = 1 / 2 → |f.rat x| < |(k : ℚ)|))) ∧
  ∀ f ∈ [Fmt.f32, Fmt.f64], ∀ (rm : Rm) (x : Nat) (n : ℤ), f.finite x → f.rat x ≠ 0 → f.RoundsTo rm (f.rat x * (2 : ℚ) ^ n) (f.ldexp rm x n)

/-- cvt rounds once to a float format and clamps to an integer type, and q4x.enc and q4x.dec code eight values. It rests on the model's choices of log entries 104 and 105. -/
def Obligations.Conversions : Prop :=
  (∀ (w : A64) (b : B32),
    CvtWord (.cvt w) (formA64 7 0 w) w.rb.toNat w.pb.toNat (convert w.rb.toNat w.pb.toNat) ∧
    CvtWord (.cvtF32S32B32 b) (formB32 55 7 false b) 10 2 (convert 10 2) ∧
    CvtWord (.cvtRzS32F32B32 b) (formB32 56 1 false b) 2 10 (convert 2 10) ∧
    LaneFixed (.q4xEnc w) ((formA64 7 1 w).shape [(formA64 7 1 w).a 8, (formA64 7 1 w).b 1] [(.v, w.rd.toNat)]) 5 (fun s u l =>
      let r := q4xEncode ((List.range 8).map fun k => (s.srcWord u ((formA64 7 1 w).a 8) l k).toNat) ((s.arg32 u ((formA64 7 1 w).b 1) l).toNat % 65536)
        (s.mode u (w.rc.toNat % 8))
      ([BitVec.ofNat 64 r.1], r.2)) ∧
    LaneFixed (.q4xDec w) ((formA64 7 2 w).shape [(formA64 7 2 w).a 1, (formA64 7 2 w).b 1] ((formA64 7 2 w).d 8)) 5 (fun s u l =>
      let r := q4xDecode (s.arg32 u ((formA64 7 2 w).a 1) l).toNat ((s.arg32 u ((formA64 7 2 w).b 1) l).toNat % 65536) (s.mode u (w.rc.toNat % 8))
      (r.1.map (BitVec.ofNat 64), r.2))) ∧
  (∀ t x : Nat, t ≤ 13 → x < 2 ^ tyBits t → (tyBits t = 64 → place t x = BitVec.ofNat 64 x) ∧
    (tyBits t < 64 → (place t x).setWidth 32 = if t ≤ 3 then BitVec.ofInt 32 (intValue t x) else BitVec.ofNat 32 x)) ∧
  (∀ (dst src : Nat) (d f : Fmt) (rm : Rm) (sat : Bool) (x : Nat), tyFmt dst = some d → tyFmt src = some f → x < 2 ^ f.width →
    let r := convert dst src rm sat x
    ((f.value x).isNan = true → r = ⟨d.nan, sigFlags (f.value x) (f.value x)⟩) ∧
    (∀ n, f.value x = .inf n → r = if f.width < d.width then ⟨d.infBits n, 0⟩ else if sat then ⟨d.signBits n + d.maxBits, 0⟩
      else ⟨d.infBits n, if d = .e4m3 then 1 else 0⟩) ∧
    (f.finite x → f.rat x = 0 → r = ⟨d.signBits (x.testBit (f.e + f.m)), 0⟩) ∧
    (f.finite x → f.rat x ≠ 0 → d.Rounds rm sat (f.rat x) r)) ∧
  (∀ (dst src : Nat) (f : Fmt) (rm : Rm) (sat : Bool) (x : Nat), dst ≤ 7 → tyFmt src = some f → x < 2 ^ f.width →
    let r := convert dst src rm sat x
    let lo := intLo (decide (dst ≤ 3)) (tyBits dst)
    let hi := intHi (decide (dst ≤ 3)) (tyBits dst)
    ((f.value x).isNan = true → r = ⟨0, 1⟩) ∧
    (∀ n, f.value x = .inf n → r = ⟨wrapInt (tyBits dst) (if n then lo else hi), 1⟩) ∧
    (f.finite x → ∃ k : ℤ, RoundsInt rm (f.rat x) k ∧
      r = ⟨wrapInt (tyBits dst) (max lo (min hi k)), if k < lo ∨ hi < k then 1 else if f.rat x = k then 0 else 16⟩)) ∧
  (∀ (dst src : Nat) (d : Fmt) (rm : Rm) (sat : Bool) (x : Nat), tyFmt dst = some d → src ≤ 7 → x < 2 ^ tyBits src →
    (intValue src x = 0 → convert dst src rm sat x = ⟨0, 0⟩) ∧
    (intValue src x ≠ 0 → d.Rounds rm sat (intValue src x) (convert dst src rm sat x))) ∧
  (∀ (dst src : Nat) (rm : Rm) (sat : Bool) (x : Nat), dst ≤ 7 → src ≤ 7 → x < 2 ^ tyBits src →
    let r := convert dst src rm sat x
    r.flags = 0 ∧ r.bits < 2 ^ tyBits dst ∧ (r.bits : ℤ) = (if sat = true ∧ tyBits dst ≤ tyBits src
      then max (intLo (decide (dst ≤ 3)) (tyBits dst)) (min (intHi (decide (dst ≤ 3)) (tyBits dst)) (intValue src x)) else intValue src x) % 2 ^ tyBits dst) ∧
  (∀ (xs : List Nat) (sw : Nat) (rm : Rm), xs.length = 8 → (∀ x ∈ xs, x < 2 ^ 32) → sw < 65536 →
    (sw / 256 = 255 → q4xEncode xs sw rm = (0, 0)) ∧
    (sw / 256 ≠ 255 → Q4xEncodes (nth 0 xs) (sw / 256) (sw / 16 % 16) rm (q4xEncode xs sw rm))) ∧
  ∀ (x sw : Nat) (rm : Rm), x < 2 ^ 32 → sw < 65536 → Q4xDecodes x (sw / 256) (sw / 16 % 16) rm (q4xDecode x sw rm)

/-- Class 8 words complete, with the special results of Table 4.7 and the exact cases of R98. -/
def Obligations.Transcendentals : Prop :=
  (∀ (w : A64) (b : B32),
    TransWord (.frcp w) (formA64 8 0 w) (transc 0) ∧
    TransWord (.frsq w) (formA64 8 1 w) (transc 1) ∧
    TransWord (.fexp2 w) (formA64 8 2 w) (transc 2) ∧
    TransWord (.flog2 w) (formA64 8 3 w) (transc 3) ∧
    TransWord (.fsin w) (formA64 8 4 w) (transc 4) ∧
    TransWord (.fcos w) (formA64 8 5 w) (transc 5) ∧
    TransWord (.ftanh w) (formA64 8 6 w) (transc 6) ∧
    TransWord (.frcpF32B32 b) (formB32 57 0 false b) (transc 0) ∧
    TransWord (.frsqF32B32 b) (formB32 58 0 false b) (transc 1) ∧
    TransWord (.fexp2F32B32 b) (formB32 59 0 false b) (transc 2) ∧
    TransWord (.flog2F32B32 b) (formB32 60 0 false b) (transc 3)) ∧
  (transc 0 0x00000000 = ⟨0x7F800000, 2⟩ ∧ transc 0 0x80000000 = ⟨0xFF800000, 2⟩ ∧ transc 0 0x7F800000 = ⟨0, 0⟩ ∧ transc 0 0xFF800000 = ⟨0x80000000, 0⟩) ∧
  (transc 1 0x00000000 = ⟨0x7F800000, 2⟩ ∧ transc 1 0x80000000 = ⟨0xFF800000, 2⟩ ∧ transc 1 0x7F800000 = ⟨0, 0⟩ ∧ transc 1 0xFF800000 = ⟨0x7FC00000, 1⟩) ∧
  (transc 2 0x00000000 = ⟨0x3F800000, 0⟩ ∧ transc 2 0x80000000 = ⟨0x3F800000, 0⟩ ∧ transc 2 0x7F800000 = ⟨0x7F800000, 0⟩ ∧ transc 2 0xFF800000 = ⟨0, 0⟩) ∧
  (transc 3 0x00000000 = ⟨0xFF800000, 2⟩ ∧ transc 3 0x80000000 = ⟨0xFF800000, 2⟩ ∧ transc 3 0x7F800000 = ⟨0x7F800000, 0⟩ ∧ transc 3 0xFF800000 = ⟨0x7FC00000, 1⟩) ∧
  (transc 4 0x00000000 = ⟨0, 0⟩ ∧ transc 4 0x80000000 = ⟨0x80000000, 0⟩ ∧ transc 4 0x7F800000 = ⟨0x7FC00000, 1⟩ ∧ transc 4 0xFF800000 = ⟨0x7FC00000, 1⟩) ∧
  (transc 5 0x00000000 = ⟨0x3F800000, 0⟩ ∧ transc 5 0x80000000 = ⟨0x3F800000, 0⟩ ∧ transc 5 0x7F800000 = ⟨0x7FC00000, 1⟩ ∧ transc 5 0xFF800000 = ⟨0x7FC00000, 1⟩) ∧
  (transc 6 0x00000000 = ⟨0, 0⟩ ∧ transc 6 0x80000000 = ⟨0x80000000, 0⟩ ∧ transc 6 0x7F800000 = ⟨0x3F800000, 0⟩ ∧ transc 6 0xFF800000 = ⟨0xBF800000, 0⟩) ∧
  (∀ x : W32, Fmt.f32.finite x.toNat → Fmt.f32.rat x.toNat < 0 → transc 1 x = ⟨0x7FC00000, 1⟩ ∧ transc 3 x = ⟨0x7FC00000, 1⟩) ∧
  (∀ (x : W32) (k : Nat), (Fmt.f32.value x.toNat).isNan = true → k ≤ 6 → transc k x = ⟨0x7FC00000, sigFlags (Fmt.f32.value x.toNat) (.inf false)⟩) ∧
  (∀ x : W32, Fmt.f32.finite x.toNat → ∀ k : ℤ, -127 ≤ k → k ≤ 127 → |Fmt.f32.rat x.toNat| = (2 : ℚ) ^ k →
    Fmt.f32.finite (transc 0 x).bits ∧ Fmt.f32.rat (transc 0 x).bits = (Fmt.f32.rat x.toNat)⁻¹ ∧ (transc 0 x).flags = 0) ∧
  (∀ x : W32, Fmt.f32.finite x.toNat → ∀ k : ℤ, Fmt.f32.rat x.toNat = (2 : ℚ) ^ (2 * k) →
    Fmt.f32.finite (transc 1 x).bits ∧ Fmt.f32.rat (transc 1 x).bits = (2 : ℚ) ^ (-k) ∧ (transc 1 x).flags = 0) ∧
  (∀ x : W32, Fmt.f32.finite x.toNat → ∀ k : ℤ, -149 ≤ k → k ≤ 127 → Fmt.f32.rat x.toNat = (k : ℚ) →
    Fmt.f32.finite (transc 2 x).bits ∧ Fmt.f32.rat (transc 2 x).bits = (2 : ℚ) ^ k ∧ (transc 2 x).flags = 0) ∧
  ∀ x : W32, Fmt.f32.finite x.toNat → ∀ k : ℤ, Fmt.f32.rat x.toNat = (2 : ℚ) ^ k →
    Fmt.f32.finite (transc 3 x).bits ∧ Fmt.f32.rat (transc 3 x).bits = (k : ℚ) ∧ (transc 3 x).flags = 0 ∧ (k = 0 → (transc 3 x).bits = 0)

/-- A scalar-pipe word computes once for the group, whatever its guard and mask, and writes with L = 2. -/
def Obligations.ScalarPipe : Prop :=
  (∀ (w : A64) (b : B32) (x : AI),
    Pipe2 (.sAdd w) (formA64 11 0 w) (fun a b => a + b) ∧
    Pipe2 (.sSub w) (formA64 11 1 w) (fun a b => a - b) ∧
    Pipe2 (.sMul w) (formA64 11 2 w) (fun a b => a * b) ∧
    Pipe2 (.sAnd w) (formA64 11 3 w) (fun a b => a &&& b) ∧
    Pipe2 (.sOr w) (formA64 11 4 w) (fun a b => a ||| b) ∧
    Pipe2 (.sXor w) (formA64 11 5 w) (fun a b => a ^^^ b) ∧
    Pipe2 (.sShl w) (formA64 11 6 w) (fun a b => a <<< (b.toNat % 64)) ∧
    Pipe2 (.sShr w) (formA64 11 7 w) (fun a b => a >>> (b.toNat % 64)) ∧
    Pipe2 (.sSar w) (formA64 11 8 w) (fun a b => a.sshiftRight (b.toNat % 64)) ∧
    Pipe1 (.sMov w) (formA64 11 10 w) (fun a => a) ∧
    Pipe2 (.sAddB32 b) (formB32 61 0 false b) (fun a b => a + b) ∧
    Pipe2 (.sAddImmB32 b) (formB32 62 0 true b) (fun a b => a + b) ∧
    Pipe1 (.sMovB32 b) (formB32 63 0 false b) (fun a => a) ∧
    Pipe (.sLi x) (formAI 11 9 x) [] (fun _ _ => x.imm.signExtend 64)) ∧
  (∀ w : A64, Instr.wf (.sCmp w) = true →
    let f := formA64 11 11 w
    Completes (.sCmp w) (f.pipe [f.ua, f.ub] [(.p, w.rd.toNat % 8)]) fun s uid u =>
      let ty := w.rc.toNat / 8
      let v (x : W64) : Int := match ty with
        | 0 => (x.setWidth 32).toInt
        | 1 => (x.setWidth 32).toNat
        | 2 => x.toInt
        | _ => x.toNat
      let a := v (s.arg64 u f.ua 0)
      let b := v (s.arg64 u f.ub 0)
      let r : W64 := if relHolds (w.rc.toNat % 8) (decide (a < b)) (decide (a = b)) then 1 else 0
      s.retire uid (u.writeFixed 2 [⟨.p, w.rd.toNat % 8, u.activeLanes.map fun l => (l, r)⟩] 0) (f.pipe [f.ua, f.ub] [(.p, w.rd.toNat % 8)])) ∧
  (∀ (w : A64) (s : State) (uid : Nat) (u : Machine.Unit),
    let f := formA64 11 12 w
    let p := w.rc.toNat % 8
    let sh := f.pipe [f.ua, f.ub, .pred p] [(.u, w.rd.toNat)]
    let t := u.active &&& (if w.rc.getLsbD 3 then ~~~(u.pmask p) else u.pmask p)
    s.Clear uid u sh →
      (t = u.active → t ≠ 0 → exec (.sSel w) s = .next (s.retire uid ((u.touchAll sh).writeFixed 2 [⟨.u, w.rd.toNat, [(0, s.arg64 u f.ua 0)]⟩] 0) sh)) ∧
      (t = 0 → exec (.sSel w) s = .next (s.retire uid ((u.touchAll sh).writeFixed 2 [⟨.u, w.rd.toNat, [(0, s.arg64 u f.ub 0)]⟩] 0) sh)) ∧
      (t ≠ 0 → t ≠ u.active → exec (.sSel w) s = .next (s.raise uid (u.touchAll sh) 8 0x0D t))) ∧
  (∀ w : A64,
    let sh := (formA64 11 14 w).pipe [.lane w.ra.toNat w.rb.toNat] [(.u, w.rd.toNat)]
    Completes (.sRdl w) sh fun s uid u => s.retire uid (u.writeVar [⟨.u, w.rd.toNat, [(0, (s.readV u w.ra.toNat w.rb.toNat).setWidth 64)]⟩] 0) sh) ∧
  (∀ (u : Machine.Unit) (vals : List (Nat × W64)), u.put ⟨.u, 0, vals⟩ = u) ∧ ∀ u : Machine.Unit, u.uget 0 = 0

/-- A read sees the last producer in program order whose distance is at least its latency, and the old value without one. -/
def Obligations.LatencyWindows : Prop :=
  ∀ (u : Machine.Unit) (a b r l : Nat), a ≤ b → u.frag = none → swf u.v = true → swf u.p = true → swf u.u = true →
    (∀ e ∈ u.win, ∀ v ∈ e.vals, v.1 < 64 ∧ (e.kind = .u → v.1 = 0)) → r < 128 → l < 64 →
    let x := (u.landAt a).landAt b
    sget x.v (r * 64 + l) = ((u.seen .v r l b).map (BitVec.setWidth 32)).getD (sget u.v (r * 64 + l)) ∧
    (r ≠ 0 → x.uget r = (u.seen .u r 0 b).getD (u.uget r)) ∧
    (r < 7 → (x.pmask r).getLsbD l = ((u.seen .p r l b).map fun v => v != 0).getD ((u.pmask r).getLsbD l))

/-- A trap saves cause, address and value, completes every window and goes to tvec. -/
def Obligations.TrapEntry : Prop :=
  (∀ (s : State) (uid len cause : Nat) (u : Machine.Unit) (tm : Team) (tval : W64), (s.unit? uid).isSome = true → s.Handles u tm →
    s.raise uid u len cause tval = s.trapped uid u tm.desc.tvec cause
      (if cause = 0x0F ∨ cause = 0x10 then (u.pc + BitVec.ofNat 57 len).signExtend 64 else u.pc.signExtend 64) tval) ∧
  (∀ (s : State) (uid len cause : Nat) (u : Machine.Unit) (tval : W64), u.drained = false → s.abortPending u = false →
    s.raise uid u len cause tval = s.setUnit uid { u with wait := .drain }) ∧
  (∀ (s : State) (uid cause : Nat) (u : Machine.Unit) (tvec tepc tval : W64), (s.unit? uid).isSome = true →
    ∃ v, (s.trapped uid u tvec cause tepc tval).unit? uid = some v ∧ v.active = u.active ∧ v.win = [] ∧ v.levels = u.levels) ∧
  (∀ (s : State) (uid : Nat) (u : Machine.Unit) (tm : Team) (x : AI), s.Clear uid u ((formAI 9 7 x).shape [] []) → s.Handles u tm →
    exec (.trap x) s = .next (s.trapped uid u tm.desc.tvec 0x10 ((u.pc + 8).signExtend 64) (x.imm.setWidth 64))) ∧
  (∀ (s : State) (uid : Nat) (u : Machine.Unit) (tm : Team) (w : A64), s.Clear uid u ((formA64 9 8 w).shape [] []) → s.Handles u tm →
    exec (.brk w) s = .next (s.trapped uid u tm.desc.tvec 0x0F ((u.pc + 8).signExtend 64) 0)) ∧
  ∀ (s : State) (uid n : Nat) (u : Machine.Unit) (tm : Team) (raw : BitVec 64), s.Issues uid u → s.Handles u tm →
    exec (.illegalEncoding n raw) s = .next (s.trapped uid u tm.desc.tvec 0x01 (u.pc.signExtend 64) raw)

/-- A trap in a handler, without a vector or in a fragment terminates the team. -/
def Obligations.TrapWithoutHandlerEndsTheTeam : Prop :=
  ∀ (s : State) (uid cause : Nat) (u : Machine.Unit) (tm : Team) (tval next : W64), s.unit? uid = some u → s.team? u.team = some tm →
    tm.terminated = false → tm.life ≠ .exited → (u.inHandler = true ∨ tm.desc.tvec = 0 ∨ u.frag.isSome = true) →
    ∃ m, (s.takeTrap uid cause tval next).team? u.team = some m ∧ m.terminated = true ∧
      ∀ k v, (s.takeTrap uid cause tval next).unit? k = some v → v.team = u.team →
        v.live = false ∧ ∃ o, s.unit? k = some o ∧ v.inHandler = o.inHandler

/-- tret goes to tepc and clears in_handler, and traps outside a handler. -/
def Obligations.TretReturns : Prop :=
  ∀ (s : State) (uid : Nat) (u : Machine.Unit) (w : A64), s.Clear uid u ((formA64 9 9 w).shape [] []) →
    (u.inHandler = false → exec (.tret w) s = .next (s.raise uid u 8 0x01 (bitsA64 9 9 w))) ∧
    (u.inHandler = true → ∃ v, exec (.tret w) s = .next (s.setUnit uid v) ∧ v.pc = u.tepc.setWidth 57 ∧ v.inHandler = false ∧
      v.tcause = u.tcause ∧ v.tepc = u.tepc ∧ v.tval = u.tval ∧ v.active = u.active ∧ v.win = [] ∧ v.step = u.step + 1 + w.stall.toNat ∧
      v.fflags = u.raised ∧ v.mflags = u.mflags ∧ v.levels = u.levels ∧ v.synced = u.synced)

/-- Every word that the machine issues is checked in the order of R48 before it acts: lane patterns, the role, register bounds, uniform operands of a diverged group, pending registers, a fragment's cache and stale reads. It rests on the model's choices of log entries 59 and 126. -/
def Obligations.ChecksBeforeAWord : Prop :=
  ∀ (w : A64) (c : C16) (b : B32) (x : AI) (m : AM) (t : AMT) (bf : BitVec 1) (rm : BitVec 3),
    (∀ y ∈ ([
      (.absS32 w, formA64 0 12 w), (.negS32 w, formA64 0 13 w), (.absS32B32 b, formB32 8 0 false b), (.not w, formA64 2 4 w), (.notB32B32 b, formB32 20 0 false b), (.brev
      w, formA64 2 12 w), (.popc w, formA64 2 13 w), (.popcB32B32 b, formB32 27 0 false b), (.clz w, formA64 2 15 w), (.clzB32B32 b, formB32 29 0 false b), (.ctz w,
      formA64 2 16 w), (.mov w, formA64 3 3 w), (.movB32C16 c, formC16 0 0 true c), (.movB32B32 b, formB32 31 0 false b), (.fabsX2 bf w, formA64 5 (bf ++ 11#5) w),
      (.fnegX2 bf w, formA64 5 (bf ++ 12#5) w), (.frcp w, formA64 8 0 w), (.frsq w, formA64 8 1 w), (.fexp2 w, formA64 8 2 w), (.flog2 w, formA64 8 3 w), (.fsin w,
      formA64 8 4 w), (.fcos w, formA64 8 5 w), (.ftanh w, formA64 8 6 w), (.frcpF32B32 b, formB32 57 0 false b), (.frsqF32B32 b, formB32 58 0 false b), (.fexp2F32B32 b,
      formB32 59 0 false b), (.flog2F32B32 b, formB32 60 0 false b)] : List (Instr × Form)), Checked y.1 fun _ _ _ => y.2.shape [y.2.a 1] [(.v, y.2.w.rd.toNat)]) ∧
    (∀ y ∈ ([
      (.add w, formA64 0 0 w), (.sub w, formA64 0 1 w), (.addSatS32 w, formA64 0 4 w), (.addSatN32 w, formA64 0 5 w), (.subSatS32 w, formA64 0 6 w), (.subSatN32 w,
      formA64 0 7 w), (.minS32 w, formA64 0 8 w), (.minN32 w, formA64 0 9 w), (.maxS32 w, formA64 0 10 w), (.maxN32 w, formA64 0 11 w), (.addS32C16 c, formC16 1 0 false
      c), (.subS32C16 c, formC16 2 0 false c), (.minS32C16 c, formC16 9 0 false c), (.maxS32C16 c, formC16 10 0 false c), (.addS32B32 b, formB32 0 0 false b),
      (.addS32ImmB32 b, formB32 1 0 true b), (.subS32B32 b, formB32 2 0 false b), (.subS32ImmB32 b, formB32 3 0 true b), (.minS32B32 b, formB32 4 0 false b), (.maxS32B32
      b, formB32 5 0 false b), (.minN32B32 b, formB32 6 0 false b), (.maxN32B32 b, formB32 7 0 false b), (.addSatS32B32 b, formB32 9 0 false b), (.mulLo w, formA64 1 0
      w), (.mulHiS32 w, formA64 1 1 w), (.mulHiN32 w, formA64 1 2 w), (.mulLoS32B32 b, formB32 10 0 false b), (.mulHiN32B32 b, formB32 11 0 false b), (.divS32 w, formA64
      1 6 w), (.divN32 w, formA64 1 7 w), (.remS32 w, formA64 1 8 w), (.remN32 w, formA64 1 9 w), (.and w, formA64 2 0 w), (.or w, formA64 2 1 w), (.xor w, formA64 2 2
      w), (.andn w, formA64 2 3 w), (.shl w, formA64 2 5 w), (.shr w, formA64 2 6 w), (.sar w, formA64 2 7 w), (.rol w, formA64 2 8 w), (.andB32C16 c, formC16 3 0 false
      c), (.orB32C16 c, formC16 4 0 false c), (.xorB32C16 c, formC16 5 0 false c), (.shlB32C16 c, formC16 6 0 false c), (.shrB32C16 c, formC16 7 0 false c), (.sarB32C16
      c, formC16 8 0 false c), (.andB32B32 b, formB32 14 0 false b), (.orB32B32 b, formB32 15 0 false b), (.xorB32B32 b, formB32 16 0 false b), (.andnB32B32 b, formB32 17
      0 false b), (.andB32ImmB32 b, formB32 18 0 true b), (.orB32ImmB32 b, formB32 19 0 true b), (.shlB32B32 b, formB32 21 0 false b), (.shrB32B32 b, formB32 22 0 false
      b), (.sarB32B32 b, formB32 23 0 false b), (.shlB32ImmB32 b, formB32 24 0 true b), (.shrB32ImmB32 b, formB32 25 0 true b), (.sarB32ImmB32 b, formB32 26 0 true b),
      (.popcLo w, formA64 2 14 w), (.popcLoB32B32 b, formB32 28 0 false b), (.faddX2 bf w, formA64 5 (bf ++ 0#5) w), (.fsubX2 bf w, formA64 5 (bf ++ 1#5) w), (.fmulX2 bf
      w, formA64 5 (bf ++ 2#5) w), (.faddF16x2B32 b, formB32 46 7 false b), (.fmulF16x2B32 b, formB32 47 7 false b), (.faddBf16x2B32 b, formB32 49 7 false b),
      (.fmulBf16x2B32 b, formB32 50 7 false b), (.fminX2 bf w, formA64 5 (bf ++ 7#5) w), (.fmaxX2 bf w, formA64 5 (bf ++ 8#5) w), (.fminNanX2 bf w, formA64 5 (bf ++ 9#5)
      w), (.fmaxNanX2 bf w, formA64 5 (bf ++ 10#5) w)] : List (Instr × Form)), Checked y.1 fun _ _ _ => y.2.shape [y.2.a 1, y.2.b 1] [(.v, y.2.w.rd.toNat)]) ∧
    (∀ y ∈ ([
      (.madLo w, formA64 1 3 w), (.madHiS32 w, formA64 1 4 w), (.madHiN32 w, formA64 1 5 w), (.madLoS32B32 b, formB32Acc 12 b), (.dp4S8 w, formA64 1 10 w), (.dp4N8 w,
      formA64 1 11 w), (.dp4S8B32 b, formB32Acc 13 b), (.bfeN32 w, formA64 2 10 w), (.bfeS32 w, formA64 2 9 w), (.bfi w, formA64 2 11 w), (.hcell w, formA64 2 17 w),
      (.hcellB32 b, formB32Acc 30 b), (.ffmaX2 bf rm w, formA64 5 (bf ++ 0b10#2 ++ rm) w), (.ffmaF16x2B32 b, formB32Acc 48 b), (.ffmaBf16x2B32 b, formB32Acc 51 b)] : List (Instr × Form)), Checked y.1 fun _ _ _ => y.2.shape [y.2.a 1, y.2.b 1, y.2.c 1] [(.v, y.2.w.rd.toNat)]) ∧
    (∀ y ∈ ([
      (.addB64 w, formA64 0 16 w), (.subB64 w, formA64 0 17 w), (.minS64 w, formA64 0 24 w), (.minN64 w, formA64 0 25 w), (.maxS64 w, formA64 0 26 w), (.maxN64 w, formA64
      0 27 w)] : List (Instr × Form)), Checked y.1 fun _ _ _ => y.2.shape [y.2.a 2, y.2.b 2] (y.2.d 2)) ∧
    (∀ y ∈ ([
      (.shlB64 w, formA64 2 24 w), (.shrB64 w, formA64 2 25 w), (.sarB64 w, formA64 2 26 w)] : List (Instr × Form)), Checked y.1 fun _ _ _ => y.2.shape [y.2.a 2, y.2.b 1] (y.2.d 2)) ∧
    (∀ y ∈ ([
      (.addc w, formA64 0 2 w), (.subb w, formA64 0 3 w)] : List (Instr × Form)), Checked y.1 fun _ _ _ => y.2.shape [y.2.a 1, y.2.b 1, .pred (y.2.w.rc.toNat % 8)] [(.v, y.2.w.rd.toNat), (.p, y.2.w.rc.toNat / 8 % 8)]) ∧
    (∀ y ∈ ([
      (.pand w, formA64 3 8 w), (.por w, formA64 3 9 w), (.pxor w, formA64 3 10 w)] : List (Instr × Form)), Checked y.1 fun _ _ _ => y.2.shape [.pred (y.2.w.ra.toNat % 8), .pred (y.2.w.rb.toNat % 8)] [(.p, y.2.w.rd.toNat % 8)]) ∧
    (∀ y ∈ ([
      (.fcmp w, formA64 3 1 w), (.fcmpLtF32B32 b, formB32 36 2 false b), (.fcmpGeF32B32 b, formB32 37 5 false b)] : List (Instr × Form)), Checked y.1 fun _ _ _ => y.2.shape [y.2.a (fpn (y.2.w.rc.toNat / 8 == 1)), y.2.b (fpn (y.2.w.rc.toNat / 8 == 1))] [(.p, y.2.w.rd.toNat % 8)]) ∧
    (∀ y ∈ ([
      (.fsqrtF32 w, formA64 4 4 w), (.fabsF32 w, formA64 4 11 w), (.fnegF32 w, formA64 4 12 w), (.fabsF32B32 b, formB32 44 0 false b), (.fnegF32B32 b, formB32 45 0 false
      b), (.frndF32 w, formA64 4 5 w)] : List (Instr × Form)), Checked y.1 fun _ _ _ => y.2.shape [y.2.a 1] (y.2.d 1)) ∧
    (∀ y ∈ ([
      (.faddF32 w, formA64 4 0 w), (.fsubF32 w, formA64 4 1 w), (.fmulF32 w, formA64 4 2 w), (.fdivF32 w, formA64 4 3 w), (.faddF32C16 c, formC16 11 7 false c),
      (.fsubF32C16 c, formC16 12 7 false c), (.fmulF32C16 c, formC16 13 7 false c), (.faddF32B32 b, formB32 38 7 false b), (.fsubF32B32 b, formB32 39 7 false b),
      (.fmulF32B32 b, formB32 40 7 false b), (.fminF32 w, formA64 4 7 w), (.fmaxF32 w, formA64 4 8 w), (.fminNanF32 w, formA64 4 9 w), (.fmaxNanF32 w, formA64 4 10 w),
      (.fminF32C16 c, formC16 14 0 false c), (.fmaxF32C16 c, formC16 15 0 false c), (.fminF32B32 b, formB32 42 0 false b), (.fmaxF32B32 b, formB32 43 0 false b)] : List (Instr × Form)), Checked y.1 fun _ _ _ => y.2.shape [y.2.a 1, y.2.b 1] (y.2.d 1)) ∧
    (∀ y ∈ ([
      (.ffmaF32 rm w, formA64 4 (0b010#3 ++ rm) w), (.ffmaF32B32 b, formB32Acc 41 b)] : List (Instr × Form)), Checked y.1 fun _ _ _ => y.2.shape [y.2.a 1, y.2.b 1, y.2.c 1] (y.2.d 1)) ∧
    (∀ y ∈ ([
      (.fsqrtF64 w, formA64 6 4 w), (.fabsF64 w, formA64 6 11 w), (.fnegF64 w, formA64 6 12 w), (.frndF64 w, formA64 6 5 w)] : List (Instr × Form)), Checked y.1 fun _ _ _ => y.2.shape [y.2.a 2] (y.2.d 2)) ∧
    (∀ y ∈ ([
      (.faddF64 w, formA64 6 0 w), (.fsubF64 w, formA64 6 1 w), (.fmulF64 w, formA64 6 2 w), (.fdivF64 w, formA64 6 3 w), (.faddF64B32 b, formB32 52 7 false b),
      (.fmulF64B32 b, formB32 53 7 false b), (.fminF64 w, formA64 6 7 w), (.fmaxF64 w, formA64 6 8 w), (.fminNanF64 w, formA64 6 9 w), (.fmaxNanF64 w, formA64 6 10 w)] : List (Instr × Form)), Checked y.1 fun _ _ _ => y.2.shape [y.2.a 2, y.2.b 2] (y.2.d 2)) ∧
    (∀ y ∈ ([
      (.ffmaF64 rm w, formA64 6 (0b010#3 ++ rm) w), (.ffmaF64B32 b, formB32Acc 54 b)] : List (Instr × Form)), Checked y.1 fun _ _ _ => y.2.shape [y.2.a 2, y.2.b 2, y.2.c 2] (y.2.d 2)) ∧
    (∀ y ∈ ([
      (.sMov w, formA64 11 10 w), (.sMovB32 b, formB32 63 0 false b)] : List (Instr × Form)), Checked y.1 fun _ _ _ => y.2.pipe [y.2.ua] [(.u, y.2.w.rd.toNat)]) ∧
    (∀ y ∈ ([
      (.sAdd w, formA64 11 0 w), (.sSub w, formA64 11 1 w), (.sMul w, formA64 11 2 w), (.sAnd w, formA64 11 3 w), (.sOr w, formA64 11 4 w), (.sXor w, formA64 11 5 w),
      (.sShl w, formA64 11 6 w), (.sShr w, formA64 11 7 w), (.sSar w, formA64 11 8 w), (.sAddB32 b, formB32 61 0 false b), (.sAddImmB32 b, formB32 62 0 true b)] : List (Instr × Form)), Checked y.1 fun _ _ _ => y.2.pipe [y.2.ua, y.2.ub] [(.u, y.2.w.rd.toNat)]) ∧
    (∀ y ∈ ([
      (.cmp w, formA64 3 0 w), (.cmpEqS32B32 b, formB32 32 0 false b), (.cmpLtS32B32 b, formB32 33 2 false b), (.cmpLtN32B32 b, formB32 34 10 false b), (.cmpGeS32B32 b,
      formB32 35 5 false b)] : List (Instr × Form)), Checked y.1 fun _ _ _ => y.2.shape [y.2.a (if 2 ≤ y.2.w.rc.toNat / 8 then 2 else 1), y.2.b (if 2 ≤ y.2.w.rc.toNat / 8 then 2 else 1)] [(.p, y.2.w.rd.toNat % 8)]) ∧
    (∀ y ∈ ([
      (.sel w, (formA64 3 2 w).shape [(formA64 3 2 w).a 1, (formA64 3 2 w).b 1, .pred (w.rc.toNat % 8)] [(.v, w.rd.toNat)]),
      (.li x, (formAI 3 4 x).shape [] [(.v, x.rd.toNat)]),
      (.pnot w, (formA64 3 11 w).shape [.pred (w.ra.toNat % 8)] [(.p, w.rd.toNat % 8)]),
      (.ldexpF32 w, (formA64 4 6 w).shape [(formA64 4 6 w).a 1, (formA64 4 6 w).b 1] ((formA64 4 6 w).d 1)),
      (.ldexpF64 w, (formA64 6 6 w).shape [(formA64 6 6 w).a 2, (formA64 6 6 w).b 1] ((formA64 6 6 w).d 2)),
      (.fclassF32 w, (formA64 4 13 w).shape [(formA64 4 13 w).a 1] [(.v, w.rd.toNat)]),
      (.fclassF64 w, (formA64 6 13 w).shape [(formA64 6 13 w).a 2] [(.v, w.rd.toNat)]),
      (.cvt w, (formA64 7 0 w).shape [.vec w.ra.toNat (cvtSpan w.pb.toNat) 0] ((formA64 7 0 w).d (cvtSpan w.rb.toNat))),
      (.cvtF32S32B32 b, (formB32 55 7 false b).shape [.vec (formB32 55 7 false b).w.ra.toNat (cvtSpan 2) 0] ((formB32 55 7 false b).d (cvtSpan 10))),
      (.cvtRzS32F32B32 b, (formB32 56 1 false b).shape [.vec (formB32 56 1 false b).w.ra.toNat (cvtSpan 10) 0] ((formB32 56 1 false b).d (cvtSpan 2))),
      (.q4xEnc w, (formA64 7 1 w).shape [(formA64 7 1 w).a 8, (formA64 7 1 w).b 1] [(.v, w.rd.toNat)]),
      (.q4xDec w, (formA64 7 2 w).shape [(formA64 7 2 w).a 1, (formA64 7 2 w).b 1] ((formA64 7 2 w).d 8)),
      (.br x, (formAI 9 0 x).shape [] []),
      (.brInd w, (formA64 9 1 w).shape [.uni w.ra.toNat 1] []),
      (.call x, (formAI 9 2 x).shape [] [(.u, x.rd.toNat)]),
      (.ret w, (formA64 9 3 w).shape [.uni w.ra.toNat 1] []),
      (.exit w, (formA64 9 4 w).shape [] []),
      (.nop w, (formA64 9 5 w).shape [] []),
      (.yield w, (formA64 9 6 w).shape [] []),
      (.trap x, (formAI 9 7 x).shape [] []),
      (.brk w, (formA64 9 8 w).shape [] []),
      (.tret w, (formA64 9 9 w).shape [] []),
      (.movSr w, (formA64 10 0 w).shape [] (spanRegs .v w.rd.toNat (if 16 ≤ w.rb.toNat then 2 else 1))),
      (.csrRd x, csrShape (formAI 10 1 x) [] [(.u, x.rd.toNat)]),
      (.csrWr x, csrShape (formAI 10 2 x) [.uni x.rd.toNat 1] []),
      (.rget w, (formA64 10 3 w).shape [srcOf w.pa w.ra 1] [(.v, w.rd.toNat)]),
      (.rput w, (formA64 10 4 w).shape [srcOf w.pa w.ra 1, .settled w.rd.toNat] []),
      (.sLi x, (formAI 11 9 x).pipe [] [(.u, x.rd.toNat)]),
      (.sCmp w, (formA64 11 11 w).pipe [(formA64 11 11 w).ua, (formA64 11 11 w).ub] [(.p, w.rd.toNat % 8)]),
      (.sSel w, (formA64 11 12 w).pipe [(formA64 11 12 w).ua, (formA64 11 12 w).ub, .pred (w.rc.toNat % 8)] [(.u, w.rd.toNat)]),
      (.sRdl w, (formA64 11 14 w).pipe [.lane w.ra.toNat w.rb.toNat] [(.u, w.rd.toNat)]),
      (.sLd m, { (formA64 11 13 m.toA64).shape [.uni m.sbase.toNat 1] [(.u, m.rd.toNat)] with pipe := true }),
      (.shfl w, (formA64 12 0 w).shape [.vec w.ra.toNat 1 0, srcOf w.pb w.rb 1] [(.v, w.rd.toNat)]),
      (.voteAny w, (formA64 12 1 w).shape [.pred (w.ra.toNat % 8)] [(.p, w.rd.toNat % 8)]),
      (.voteAll w, (formA64 12 2 w).shape [.pred (w.ra.toNat % 8)] [(.p, w.rd.toNat % 8)]),
      (.voteBallot w, (formA64 12 3 w).shape [.pred (w.ra.toNat % 8)] ((formA64 12 3 w).d 2)),
      (.matchEq w, (formA64 12 4 w).shape [.vec w.ra.toNat (if w.rc.getLsbD 0 then 2 else 1) 0] ((formA64 12 4 w).d 2)),
      (.redLane w, (formA64 12 5 w).shape [.vec w.ra.toNat 1 0] [(.v, w.rd.toNat)]),
      (.scanLane w, (formA64 12 6 w).shape [.vec w.ra.toNat 1 0] [(.v, w.rd.toNat)]),
      (.segred w, (formA64 12 7 w).shape [.vec w.ra.toNat 1 0, .pred (w.rb.toNat % 8)] [(.v, w.rd.toNat)]),
      (.lsync w, (formA64 12 8 w).shape [srcOf w.pa w.ra 2] []),
      (.topkIns w, (formA64 12 9 w).shape [.vec w.ra.toNat 1 0, .vec w.rb.toNat 1 0, .vec w.rd.toNat (2 * 2 ^ (w.rc.toNat % 4)) 0] ((formA64 12 9 w).d (2 * 2 ^ (w.rc.toNat % 4)))),
      (.brDiv x, (formAI 13 0 x).shape [.pred (x.rd.toNat % 8)] []),
      (.join w, (formA64 13 1 w).shape [] []),
      (.barInit w, barShape 2 w true),
      (.barArr w, barShape 3 w true),
      (.barWait w, barShape 4 w (!w.rc.getLsbD 1)),
      (.barSync w, barShape 5 w false),
      (.stgAcq w, barShape 6 w (!w.rc.getLsbD 1)),
      (.stgRel w, barShape 7 w false),
      (.ld m, (formA64 14 (m.mode ++ m.code) m.toA64).shape (if m.mode = 2 then [Src.base m.sbase.toNat] else [.base m.sbase.toNat, .vec m.vindex.toNat 1 0]) (spanRegs .v m.rd.toNat (regsOf (accessBytes m.code.toNat)))),
      (.st m, (formA64 14 (m.mode ++ m.code) m.toA64).shape ((if m.mode = 2 then [Src.base m.sbase.toNat] else [.base m.sbase.toNat, .vec m.vindex.toNat 1 0]) ++ [.vec m.rd.toNat (regsOf (accessBytes m.code.toNat)) 0]) []),
      (.prefetch m, (formA64 14 (m.mode ++ m.code) m.toA64).shape (if m.mode = 2 then [Src.base m.sbase.toNat] else [.base m.sbase.toNat, .vec m.vindex.toNat 1 0]) []),
      (.ldSp m, (formA64 15 (m.mode ++ m.code) m.toA64).shape (if m.mode = 2 then [Src.base m.sbase.toNat] else [.base m.sbase.toNat, .vec m.vindex.toNat 1 0]) (spanRegs .v m.rd.toNat (regsOf (accessBytes m.code.toNat)))),
      (.stSp m, (formA64 15 (m.mode ++ m.code) m.toA64).shape ((if m.mode = 2 then [Src.base m.sbase.toNat] else [.base m.sbase.toNat, .vec m.vindex.toNat 1 0]) ++ [.vec m.rd.toNat (regsOf (accessBytes m.code.toNat)) 0]) []),
      (.atom t, (formA64 16 (0#2 ++ t.code) t.toA64).shape ((if t.mode = 2 then [Src.base t.sbase.toNat] else [.base t.sbase.toNat, .vec t.vindex.toNat 1 0]) ++ [.vec t.rd.toNat (atomDataRegs t.code.toNat t.ety.toNat) 0]) (spanRegs .v t.rd.toNat (atomValueRegs t.ety.toNat))),
      (.atomCas t, (formA64 16 (0#2 ++ t.code) t.toA64).shape ((if t.mode = 2 then [Src.base t.sbase.toNat] else [.base t.sbase.toNat, .vec t.vindex.toNat 1 0]) ++ [.vec t.rd.toNat (atomDataRegs t.code.toNat t.ety.toNat) 0]) (spanRegs .v t.rd.toNat (atomValueRegs t.ety.toNat))),
      (.atomAddlim t, (formA64 16 (0#2 ++ t.code) t.toA64).shape ((if t.mode = 2 then [Src.base t.sbase.toNat] else [.base t.sbase.toNat, .vec t.vindex.toNat 1 0]) ++ [.vec t.rd.toNat (atomDataRegs t.code.toNat t.ety.toNat) 0]) (spanRegs .v t.rd.toNat (atomValueRegs t.ety.toNat) ++ [(.p, (t.guard.extractLsb' 0 3).toNat)])),
      (.atomSp t, (formA64 16 (1#2 ++ t.code) t.toA64).shape ((if t.mode = 2 then [Src.base t.sbase.toNat] else [.base t.sbase.toNat, .vec t.vindex.toNat 1 0]) ++ [.vec t.rd.toNat (atomDataRegs t.code.toNat t.ety.toNat) 0]) (spanRegs .v t.rd.toNat (atomValueRegs t.ety.toNat) ++ (if t.code.toNat = 8 then [(.p, (t.guard.extractLsb' 0 3).toNat)] else []))),
      (.red t, (formA64 16 (2#2 ++ t.code) t.toA64).shape ((if t.mode = 2 then [Src.base t.sbase.toNat] else [.base t.sbase.toNat, .vec t.vindex.toNat 1 0]) ++ [.vec t.rd.toNat (atomDataRegs t.code.toNat t.ety.toNat) 0]) []),
      (.waitCnt w, (formA64 17 0 w).shape (if w.rc.getLsbD 3 then [.uni w.ra.toNat 1] else []) []),
      (.waitWct w, (formA64 17 1 w).shape [] []),
      (.waitTl w, (formA64 17 2 w).shape [.uni w.ra.toNat 1, .uni w.rb.toNat 1] [(.p, w.rd.toNat % 8)]),
      (.inval w, rangeWord 3 w [] false),
      (.wb w, rangeWord 4 w [] false),
      (.seal w, rangeWord 5 w [] true),
      (.unseal w, rangeWord 6 w [] true),
      (.l2Pin w, rangeWord 7 w [.uni w.rc.toNat 1] true),
      (.l2Unpin w, rangeWord 8 w [] false),
      (.bankCfgCache w, (formA64 17 9 w).shape [.uni w.ra.toNat 1] [(.u, w.rd.toNat)]),
      (.bankCfgSp w, (formA64 17 9 w).shape [.uni w.ra.toNat 1] [(.u, w.rd.toNat)]),
      (.bankCfgFifo w, (formA64 17 9 w).shape [.uni w.ra.toNat 1] [(.u, w.rd.toNat)]),
      (.bankCfgQuery w, (formA64 17 9 w).shape [.uni w.ra.toNat 1] [(.u, w.rd.toNat)]),
      (.farBegin x, { (formAI 18 0 x).shape [] [] with named := [x.rd.toNat] }),
      (.farEnd w, (formA64 18 1 w).shape [] [(.u, w.rd.toNat)]),
      (.farStat w, (formA64 18 3 w).shape [] [(.u, w.rd.toNat)]),
      (.subOpen w, (formA64 19 0 w).shape [.uni w.ra.toNat 1, .uni w.rb.toNat 1, .uni w.rc.toNat 1] [(.u, w.rd.toNat)]),
      (.subClose w, (formA64 19 1 w).shape [] [(.u, w.rd.toNat)]),
      (.subFlush w, { (formA64 19 2 w).shape [] [] with pipe := true }),
      (.msgSend w, (formA64 19 3 w).shape [srcOf w.pa w.ra 1, .vec w.rb.toNat 2 0] []),
      (.msgWait w, (formA64 19 4 w).shape (if w.rc.getLsbD 0 then [.uni w.ra.toNat 1, .uni w.rb.toNat 1] else [.uni w.ra.toNat 1]) []),
      (.msgPop w, (formA64 19 5 w).shape (if w.rc.getLsbD 0 then [.uni w.ra.toNat 1, .uni w.rb.toNat 1] else [.uni w.ra.toNat 1]) []),
      (.cp w, copyShape 0 w ([.vec w.ra.toNat 1 0] ++ (if w.pa.toNat / 4 % 4 = 1 then [] else [.uni w.rb.toNat 1]) ++ [.vec w.rd.toNat 1 0]) []),
      (.cpCommit w, copyShape 1 w ([.uni w.ra.toNat 1] ++ (if w.pa.getLsbD 1 then [] else [.uni w.rb.toNat 1]) ++ [.uni w.rc.toNat 1]) []),
      (.cpTile w, copyShape 2 w [.uni w.ra.toNat 1, .uni w.rb.toNat 2, .uni w.rd.toNat 1] []),
      (.cpZero w, copyShape 3 w [.uni w.ra.toNat 1, .uni w.rb.toNat 1] []),
      (.cpGather w, copyShape 4 w [.vec w.ra.toNat 1 0, .uni (w.pa.toNat % 32) 1, .vec w.rb.toNat 1 0, .uni (w.pb.toNat % 32) 1, .vec w.rd.toNat 1 0] [(.u, w.rc.toNat)]),
      (.cpScatter w, copyShape 5 w [.vec w.ra.toNat 1 0, .uni (w.pa.toNat % 32) 1, .vec w.rb.toNat 1 0, .uni (w.pb.toNat % 32) 1, .vec w.rd.toNat 1 0] [(.u, w.rc.toNat)]),
      (.cpUnpack w, copyShape 6 w [.uni w.ra.toNat 1, .uni w.rb.toNat 1, .uni (w.pb.toNat % 32) (if w.pa.toNat % 4 = 0 then 2 else 3), .uni w.rc.toNat 1] []),
      (.cpPack w, copyShape 7 w [.uni w.ra.toNat 1, .uni w.rb.toNat 1, .uni (w.pb.toNat % 32) 2, .uni w.rc.toNat 1] []),
      (.cpIsect w, copyShape 8 w [.uni w.ra.toNat 1, .uni w.rb.toNat 1, .uni (w.pb.toNat % 32) 5, .uni w.rc.toNat 1] []),
      (.cpMerge w, copyShape 9 w [.uni w.ra.toNat 1, .uni w.rb.toNat 1, .uni (w.pb.toNat % 32) 3, .uni w.rc.toNat 1] []),
      (.maccZero w, matrixShape 3 w []),
      (.maccLd w, matrixShape 4 w [.uni w.ra.toNat 1, .uni w.rb.toNat 1, .uni w.rc.toNat 1]),
      (.maccSt w, matrixShape 5 w [.uni w.ra.toNat 1, .uni w.rb.toNat 1, .uni w.rc.toNat 1]),
      (.mhad w, matrixShape 6 w [.uni w.ra.toNat 1, .uni w.rb.toNat 1, .uni (w.pb.toNat % 32) 1, .uni w.rc.toNat 1]),
      (.lqPush w, (formA64 22 0 w).shape [.uni w.ra.toNat 1] [(.u, w.rd.toNat)]),
      (.lqPoll w, (formA64 22 1 w).shape [] [(.u, w.rd.toNat)])] : List (Instr × Shape)), Checked y.1 fun _ _ _ => y.2) ∧
    Checked (.mma w) (fun s uid u => matrixShape 0 w [if s.latchHeld uid u then .named w.ra.toNat else .vec w.ra.toNat 12 0, .uni w.rb.toNat 1, .vec w.rc.toNat 1 0]) ∧
    Checked (.mmaReuse w) (fun s uid u => matrixShape 1 w [if s.latchHeld uid u then .named w.ra.toNat else .vec w.ra.toNat 12 0, .uni w.rb.toNat 1, .vec w.rc.toNat 1 0]) ∧
    Checked (.mloop w) (fun _ _ u => mloopShape w u) ∧
    Checked (.farAbort w) (fun s _ _ => { (formA64 18 2 w).shape [] [] with named := [s.regionStatusReg] })

/-- br, br.ind, call and ret follow R103. -/
def Obligations.ConditionalTransfers : Prop :=
  ∀ (x : AI) (w : A64),
    Transfer (.br x) ((formAI 9 0 x).shape [] []) none (fun u => u.pc.signExtend 64 + 2 * x.imm.signExtend 64) ∧
    Transfer (.brInd w) ((formA64 9 1 w).shape [.uni w.ra.toNat 1] []) none (fun u => u.uget w.ra.toNat) ∧
    Transfer (.call x) ((formAI 9 2 x).shape [] [(.u, x.rd.toNat)]) (some x.rd.toNat) (fun u => u.pc.signExtend 64 + 2 * x.imm.signExtend 64) ∧
    Transfer (.ret w) ((formA64 9 3 w).shape [.uni w.ra.toNat 1] []) none (fun u => u.uget w.ra.toNat) ∧
    (∀ (u : Machine.Unit) (f : FragInfo), u.frag = some f → u.active = 1#64 <<< f.lane → ∀ g, u.guarded g = 0 ∨ u.guarded g = u.active)

/-- exit retires lanes, and nop and yield only take their steps. -/
def Obligations.ExitNopYield : Prop :=
  ∀ (s : State) (uid : Nat) (u : Machine.Unit) (w : A64),
    (s.Clear uid u ((formA64 9 5 w).shape [] []) → exec (.nop w) s = .next (s.setUnit uid { u with
      pc := u.pc + 8, step := u.step + 1 + w.stall.toNat, wait := .none, lastIssue := s.tick })) ∧
    (s.Clear uid u ((formA64 9 6 w).shape [] []) → exec (.yield w) s = .next (s.setUnit uid { u with
      pc := u.pc + 8, step := u.step + 1 + w.stall.toNat, wait := .none, lastIssue := s.tick })) ∧
    (s.Clear uid u ((formA64 9 4 w).shape [] []) →
      let t := u.guarded w.guard
      let go := u.advance 8 w.stall.toNat s.tick
      (t = 0 → exec (.exit w) s = .next (s.setUnit uid go)) ∧
      (t ≠ 0 → u.frag = none → u.active &&& ~~~t ≠ 0 → u.live = true → ∃ v, exec (.exit w) s = .next (s.setUnit uid v) ∧
        v.active = u.active &&& ~~~t ∧ v.launched = u.launched &&& ~~~t ∧ v.pc = u.pc + 8 ∧ v.levels = u.levels ∧ v.ops = u.ops ∧ v.live = true ∧
        ∀ r ∈ v.vars, ∀ x ∈ r.writes, x.kind = .v ∨ x.kind = .p → ∀ y ∈ x.vals, t.getLsbD y.1 = false) ∧
      (t ≠ 0 → u.frag = none → u.region = none → u.active = t → u.launched &&& ~~~t = 0 → ∃ v, exec (.exit w) s = .next (s.setUnit uid v) ∧
        v.live = false ∧ v.levels = [] ∧ v.active = 0 ∧ v.launched = 0 ∧ v.ops = u.ops ∧ v.wct = u.wct ∧
        (v.reqs = u.reqs.filter fun r => match r.kind with
          | .load _ => false
          | .prefetch => false
          | _ => true) ∧
        v.spq = u.spq.filter fun a => match a.kind with
          | .load _ => false
          | _ => true) ∧
      (∀ rid, t ≠ 0 → u.frag = none → u.region = some rid → u.active = t → u.launched &&& ~~~t = 0 →
        ∃ r v, exec (.exit w) s = .next r ∧ (s.unit? uid).isSome = true ∧ r.unit? uid = some v ∧ v.live = false ∧ v.region = none ∧ v.levels = [] ∧
          (∀ y ∈ r.regions, y.id ≠ rid) ∧ (∀ q ∈ v.reqs, q.region = true → ∀ l ∈ q.lanes, l.done = true) ∧
          (s.deferred = [] → (∃ y ∈ s.regions, y.id = rid ∧ y.pending = none) →
            (∀ y ∈ r.versions, y.region ≠ rid) ∧ (∀ y ∈ r.readers, y.region ≠ rid) ∧ (∀ e ∈ r.edges, e.src ≠ rid ∧ e.dst ≠ rid) ∧ r.mem = s.mem)) ∧
      (∀ f p, t ≠ 0 → u.frag = some f → f.parent ≠ uid → s.unit? f.parent = some p →
        ∃ r x g h, exec (.exit w) s = .next r ∧ (s.unit? uid).isSome = true ∧ r.unit? uid = some x ∧ x.frag = some g ∧ u.landAll.frag = some h ∧
          r.unit? f.parent = some { p with launched := p.launched &&& ~~~t } ∧ (∀ k, k ≠ uid → k ≠ f.parent → r.unit? k = s.unit? k) ∧
          g = { h with exited := true, cache := [], back := h.back ++ ((h.cache.filter fun c => c.2).map fun c => (c.1, sget u.landAll.v (c.1 * 64 + h.lane))).reverse } ∧
          x.active = u.active &&& ~~~t ∧ x.launched = u.launched &&& ~~~t ∧ x.pc = u.pc + 8 ∧ x.win = [] ∧ x.v = u.landAll.v ∧
          x.reqs = u.reqs ∧ x.spq = u.spq ∧ x.ops = u.ops ∧ x.live = u.live ∧
          ∀ y ∈ x.vars, ∀ z ∈ y.writes, z.kind = .v ∨ z.kind = .p → ∀ q ∈ z.vals, t.getLsbD q.1 = false))

/-- br.div splits a group and join resolves the innermost level. -/
def Obligations.DivergenceAndJoins : Prop :=
  (∀ (s : State) (uid : Nat) (u : Machine.Unit) (x : AI),
    let sh := (formAI 13 0 x).shape [.pred (x.rd.toNat % 8)] []
    let v := u.touchAll sh
    let t := v.active &&& (if x.rd.getLsbD 3 then ~~~v.pmask (x.rd.toNat % 8) else v.pmask (x.rd.toNat % 8))
    let n := v.active &&& ~~~t
    let target := v.pc + 2 * (x.imm.extractLsb' 16 16).signExtend 57
    let joinPc := v.pc + 2 * (x.imm.extractLsb' 0 16).signExtend 57
    let go := v.advance 8 sh.stall s.tick
    let small := popLow t 64 ≤ popLow n 64
    s.Clear uid u sh →
      (t = 0 → exec (.brDiv x) s = .next (s.setUnit uid go)) ∧
      (t ≠ 0 → n = 0 → exec (.brDiv x) s = .next (s.setUnit uid { go with pc := target })) ∧
      (t ≠ 0 → n ≠ 0 → 16 ≤ v.levels.length → exec (.brDiv x) s = .next (s.raise uid v 8 0x0E (v.pc.signExtend 64))) ∧
      (t ≠ 0 → n ≠ 0 → v.levels.length < 16 → s.exportCtr v (if small then t else n) = none →
        exec (.brDiv x) s = .next (s.setUnit uid { go with
          active := t, pc := target, levels := { joinPc := joinPc, mask := v.active, kind := .kept n (v.pc + 8) false } :: v.levels })) ∧
      (∀ c, t ≠ 0 → n ≠ 0 → v.levels.length < 16 → s.exportCtr v (if small then t else n) = some c → v.joinCtr.length = 4 → v.frag = none →
        ∃ r g, exec (.brDiv x) s = .next r ∧ r.unit? uid = some g ∧ g.active = (if small then n else t) ∧ g.pc = (if small then v.pc + 8 else target) ∧
          g.levels = { joinPc := joinPc, mask := v.active, kind := .exported c (if small then t else n) [] false } :: v.levels ∧
          nth 0 g.joinCtr c = popLow (if small then t else n) 64 ∧ r.units.length = s.units.length + (lanesOf (if small then t else n)).length ∧
          ∀ k f, k < (lanesOf (if small then t else n)).length → r.unit? (s.units.length + k) = some f →
            f.active = 1#64 <<< nth 0 (lanesOf (if small then t else n)) k ∧ f.pc = (if small then target else v.pc + 8) ∧
            ∃ h, f.frag = some h ∧ h.parent = uid ∧ h.ctr = c ∧ h.launched = false ∧ h.joinPc = joinPc)) ∧
  ∀ (s : State) (uid : Nat) (u : Machine.Unit) (w : A64),
    let sh := (formA64 13 1 w).shape [] []
    s.Clear uid u sh → u.frag = none → s.abortPending u = false →
      (u.levels.any (fun lv => lv.joinPc == u.pc) = false → exec (.join w) s = .next (s.setUnit uid (u.advance 8 w.stall.toNat s.tick))) ∧
      (∀ lv rest, u.levels = lv :: rest → lv.joinPc ≠ u.pc → rest.any (fun lv => lv.joinPc == u.pc) = true →
        exec (.join w) s = .next (s.raise uid u 8 0x16 (lv.joinPc.signExtend 64))) ∧
      (∀ m second spc rest, u.levels = ⟨u.pc, m, .kept second spc false⟩ :: rest → second &&& u.launched ≠ 0 →
        exec (.join w) s = .next (s.setUnit uid { u with
          active := second &&& u.launched, pc := spc, levels := ⟨u.pc, m, .kept second spc true⟩ :: rest
          step := u.step + 1 + w.stall.toNat, wait := .none, lastIssue := s.tick })) ∧
      (∀ m second spc rest, u.levels = ⟨u.pc, m, .kept second spc true⟩ :: rest → m &&& u.launched ≠ 0 →
        exec (.join w) s = .next (s.setUnit uid { u with
          active := m &&& u.launched, pc := u.pc + 8, levels := rest, step := u.step + 1 + w.stall.toNat, wait := .none, lastIssue := s.tick })) ∧
      (∀ m second spc rest, u.levels = ⟨u.pc, m, .kept second spc false⟩ :: rest → second &&& u.launched = 0 → m &&& u.launched ≠ 0 →
        exec (.join w) s = .next (s.setUnit uid { u with
          active := m &&& u.launched, pc := u.pc + 8, levels := rest, step := u.step + 1 + w.stall.toNat, wait := .none, lastIssue := s.tick })) ∧
      (∀ m c lanes old rest, u.levels = ⟨u.pc, m, .exported c lanes old false⟩ :: rest →
        exec (.join w) s = .next (s.setUnit uid { u with wait := .join })) ∧
      (∀ m c lanes old rest, u.levels = ⟨u.pc, m, .exported c lanes old true⟩ :: rest → m &&& u.launched ≠ 0 → u.joinCtr.length = 4 → c < 4 →
        ∃ v, exec (.join w) s = .next (s.setUnit uid v) ∧ v = { u with
          active := m &&& u.launched, pc := u.pc + 8, levels := rest, joinCtr := v.joinCtr, step := u.step + 1 + w.stall.toNat, wait := .none, lastIssue := s.tick } ∧
          nth 1 v.joinCtr c = 0 ∧ ∀ k, k ≠ c → nth 0 v.joinCtr k = nth 0 u.joinCtr k)

/-- mov.sr, rget and rput read and write what their numbers name. It rests on the model's choices of log entry 60. -/
def Obligations.SpecialRegistersAndRelativeAccess : Prop :=
  (∀ w : A64, let sh := (formA64 10 0 w).shape [] (spanRegs .v w.rd.toNat (if 16 ≤ w.rb.toNat then 2 else 1))
    ∀ (s : State) (uid : Nat) (u : Machine.Unit), s.Clear uid u sh →
      ∃ t x, exec (.movSr w) s = .next t ∧ (s.unit? uid).isSome = true ∧ t.unit? uid = some x ∧ x.pc = (u.touchAll sh).pc + 8 ∧
        x.vars = (u.touchAll sh).vars ++ [⟨laneWrites sh.dsts ((u.touchAll sh).rows w.guard fun l =>
          (if 16 ≤ w.rb.toNat then (res64 (s.special (u.touchAll sh) w.rb.toNat l)).1 else [s.special (u.touchAll sh) w.rb.toNat l], 0)), 0, u.step⟩] ∧
        (u.frag = none → (w.rb.toNat = 16 → x.lastTime = s.timeFor u) ∧ ∀ tm, w.rb.toNat = 17 → s.team? u.team = some tm → x.lastCycle = s.cycleFor u tm.core)) ∧
  (∀ (s : State) (u : Machine.Unit) (tm : Team) (l : Nat), s.team? u.team = some tm →
    s.special u 0 l = BitVec.ofNat 64 l ∧ s.special u 1 l = BitVec.ofNat 64 u.gidx ∧ s.special u 2 l = BitVec.ofNat 64 u.width ∧
    s.special u 3 l = BitVec.ofNat 64 tm.linear ∧ s.special u 5 l = BitVec.ofNat 64 u.role ∧ s.special u 6 l = BitVec.ofNat 64 tm.core ∧
    (∀ g, nth? s.grids tm.grid = some g → s.special u 4 l = BitVec.ofNat 64 g.number) ∧
    s.special u 7 l = BitVec.ofNat 64 (tm.core / 2) ∧ s.special u 8 l = BitVec.ofNat 64 (tm.core / 64) ∧ s.special u 9 l = BitVec.ofNat 64 (s.deviceId % 2 ^ 12) ∧
    (∃ t, s.special u 16 l = BitVec.ofNat 64 t ∧ (s.groupOf u).lastTime ≤ t ∧ (s.inStep = true → (s.groupOf u).lastTime ≤ s.now + 20 → t ≤ s.now + 20 ∧ s.now ≤ t + 20)) ∧
    (∃ t, s.special u 17 l = BitVec.ofNat 64 t ∧ (sget s.cycles tm.core).toNat ≤ t ∧ (s.groupOf u).lastCycle < t) ∧
    (u.frag = none → s.special u 18 l = u.active) ∧ ∀ f, u.frag = some f → s.special u 18 l = f.lanes) ∧
  (∀ (w : A64) (s : State) (uid : Nat) (u0 : Machine.Unit) (f : FragInfo), u0.frag = some f → f.lane < 64 →
    let x := srcOf w.pa w.ra 1
    let sg := (formA64 10 3 w).shape [x] [(.v, w.rd.toNat)]
    let sp := (formA64 10 4 w).shape [x, .settled w.rd.toNat] []
    ∀ y ∈ [(sg, Instr.rget w), (sp, .rput w)], s.Clear uid u0 y.1 →
      let u := u0.touchAll y.1
      let v := u.landVectors
      let n (l : Nat) : Int := (w.rb.toNat : Int) + (s.arg32 u x l).toInt
      let bad (l : Nat) : Bool := decide (n l < 0 ∨ (u.budget : Int) ≤ n l)
      let away (l : Nat) : Bool := !(v.frag.elim false fun g => g.cache.any fun c => c.1 == (n l).toNat)
      let ps := u.guardedLanes w.guard
      (∀ l, ps.find? bad = some l → exec y.2 s = .next (s.raise uid u 8 0x05 (BitVec.ofInt 64 (n l)))) ∧
      (ps.find? bad = none → (∃ r ∈ u.pendingRegs, r.1 = .v) → exec y.2 s = .next (s.waits uid u .scoreboard)) ∧
      (ps.find? bad = none → (∀ r ∈ u.pendingRegs, r.1 ≠ .v) →
        (∀ r, y.1.pulls v = some r → exec y.2 s = .next (s.waits uid v (.pull r))) ∧
        (∀ l, y.1.pulls v = none → ps.find? away = some l → exec y.2 s = .next (s.waits uid v (.pull (n l).toNat))) ∧
        (y.1.pulls v = none → ps.find? away = none →
          (y.2 = .rget w → exec y.2 s = .next (s.retire uid (v.writeVar [⟨.v, w.rd.toNat, ps.map fun l => (l, (v.vget (n l).toNat l).setWidth 64)⟩] 0) sg)) ∧
          (y.2 = .rput w → swf v.v = true → (s.unit? uid).isSome = true → ∃ t z, exec y.2 s = .next t ∧ t.unit? uid = some z ∧ z.pc = u.pc + 8 ∧
            ∀ l, ps = [l] → l < 64 → z.vget (n l).toNat l = v.vget w.rd.toNat l)))) ∧
  (∀ (w : A64) (s : State) (uid : Nat) (u : Machine.Unit), u.frag = none →
    let x := srcOf w.pa w.ra 1
    let n (l : Nat) : Int := (w.rb.toNat : Int) + (s.arg32 u x l).toInt
    let bad (l : Nat) : Bool := decide (n l < 0 ∨ (u.budget : Int) ≤ n l)
    let sg := (formA64 10 3 w).shape [x] [(.v, w.rd.toNat)]
    let sp := (formA64 10 4 w).shape [x, .settled w.rd.toNat] []
    (s.Clear uid u sg → ∀ l, (u.guardedLanes w.guard).find? bad = some l → exec (.rget w) s = .next (s.raise uid u 8 0x05 (BitVec.ofInt 64 (n l)))) ∧
    (s.Clear uid u sp → ∀ l, (u.guardedLanes w.guard).find? bad = some l → exec (.rput w) s = .next (s.raise uid u 8 0x05 (BitVec.ofInt 64 (n l)))) ∧
    (s.Clear uid u sg → (u.guardedLanes w.guard).find? bad = none → (∀ r ∈ u.pendingRegs, r.1 ≠ .v) →
      exec (.rget w) s = .next (s.retire uid (u.landVectors.writeVar
        [⟨.v, w.rd.toNat, (u.guardedLanes w.guard).map fun l => (l, (u.landVectors.vget (n l).toNat l).setWidth 64)⟩] 0) sg)) ∧
    (s.Clear uid u sp → (u.guardedLanes w.guard).find? bad = none → (∀ r ∈ u.pendingRegs, r.1 ≠ .v) → swf u.v = true →
      (∀ e ∈ u.win, e.kind = .v → ∀ v ∈ e.vals, v.1 < 64) → u.width ≤ 64 → u.budget ≤ 128 →
      ∃ t y, exec (.rput w) s = .next t ∧ (s.unit? uid).isSome = true ∧ t.unit? uid = some y ∧ y.pc = u.pc + 8 ∧
        (∀ l ∈ u.guardedLanes w.guard, y.vget (n l).toNat l = u.landVectors.vget w.rd.toNat l) ∧
        ∀ r l, r < 128 → l < 64 → (l ∉ u.guardedLanes w.guard ∨ (n l).toNat ≠ r) → sget y.v (r * 64 + l) = sget u.landVectors.v (r * 64 + l)))

/-- csr.rd and csr.wr read and write the CSRs of Table 21.2 in any group and fragment, and trap as R31 says. It rests on the model's choices of log entry 125. -/
def Obligations.ControlRegisters : Prop :=
  (∀ (s : State) (uid : Nat) (u : Machine.Unit) (tm : Team) (x : AI), s.team? u.team = some tm →
    let n := x.imm.toNat % 4096
    let sh := csrShape (formAI 10 1 x) [] [(.u, x.rd.toNat)]
    s.Clear uid u sh →
      (n ∉ csrNumbers → exec (.csrRd x) s = .next (s.raise uid u 8 0x03 (BitVec.ofNat 64 n))) ∧
      (n ∈ csrNumbers → n ≠ 1 → ∃ v, s.CsrIs u tm n v ∧ exec (.csrRd x) s = .next (s.retire uid (u.writeVar [⟨.u, x.rd.toNat, [(0, v)]⟩] 0) sh)) ∧
      (n = 1 → u.flagsPending = true → exec (.csrRd x) s = .next (s.waits uid u .scoreboard)) ∧
      (n = 1 → u.flagsPending = false → ∃ (t : State) (v : Machine.Unit) (m : Flags), exec (.csrRd x) s = .next t ∧ t = { s with units := t.units, free := s.free + 1 } ∧
        (s.unit? uid).isSome = true ∧ t.unit? uid = some v ∧ m &&& ~~~u.unordered = 0 ∧ v.fflags = u.raised ||| m ∧ v.pc = u.pc + 8 ∧ v.wait = .none ∧
        v.vars = u.vars ++ [⟨[⟨.u, x.rd.toNat, [(0, (u.raised ||| m).setWidth 64)]⟩], 0, u.step⟩] ∧ ∀ k, k ≠ uid → t.unit? k = s.unit? k)) ∧
  ∀ (s : State) (uid : Nat) (u : Machine.Unit) (tm : Team) (x : AI), s.team? u.team = some tm →
    let n := x.imm.toNat % 4096
    let sh := csrShape (formAI 10 2 x) [.uni x.rd.toNat 1] []
    let y := u.uget x.rd.toNat
    s.Clear uid u sh →
      (n ∉ csrNumbersRW → exec (.csrWr x) s = .next (s.raise uid u 8 0x03 (BitVec.ofNat 64 n))) ∧
      (n ∈ csrNumbersRW → ¬ CsrTakes n y → exec (.csrWr x) s = .next (s.raise uid u 8 0x01 (bitsA64 10 2 x.toA64))) ∧
      (n = 1 → u.flagsPending = true → exec (.csrWr x) s = .next (s.waits uid u .scoreboard)) ∧
      (n ∈ csrNumbersRW → CsrTakes n y → (n = 1 → u.flagsPending = false) →
        ∃ (t : State) (v : Machine.Unit) (m : Team), exec (.csrWr x) s = .next t ∧ (s.unit? uid).isSome = true ∧ t.unit? uid = some v ∧
          v.pc = u.pc + 8 ∧ v.wait = .none ∧ t = { s with units := t.units, teams := t.teams, free := t.free } ∧ t.team? u.team = some m ∧
          (n = 1 → v.fflags = y.setWidth 5 ∧ ∀ e ∈ v.win, e.kind ≠ .fl) ∧ (n ≠ 1 → t.CsrIs v m n y ∧ v.fflags = u.fflags ∧ v.win = u.win) ∧
          (∀ k ∈ csrNumbers, k ≠ 1 → k ≠ n → ∀ z, s.CsrIs u tm k z → t.CsrIs v m k z) ∧
          v.v = u.v ∧ v.p = u.p ∧ v.u = u.u ∧ v.vars = u.vars ∧ v.active = u.active ∧ v.inHandler = u.inHandler ∧
          (∀ k, k ≠ u.team → t.team? k = s.team? k) ∧
          (∀ k, k ≠ uid → (∀ f, u.frag = some f → f.parent ≠ k) → t.unit? k = s.unit? k) ∧
          ∀ f p, u.frag = some f → f.parent ≠ uid → s.unit? f.parent = some p → ∃ q, t.unit? f.parent = some q ∧ q = { p with
            fflags := if n = 1 then y.setWidth 5 else p.fflags, tcause := if n = 0x011 then y.setWidth 8 else p.tcause
            tepc := if n = 0x012 then y else p.tepc, tval := if n = 0x013 then y else p.tval })

/-- Class 12 words give every participant the result over all participants, once all threads of a fragment have met, and reductions follow Table 8.3. It rests on the model's choices of log entry 99. -/
def Obligations.CrossLaneWords : Prop :=
  (∀ w : A64,
    let b := srcOf w.pb w.rb 1
    let sh := (formA64 12 0 w).shape [.vec w.ra.toNat 1 0, b] [(.v, w.rd.toNat)]
    let take (s : State) (u : Machine.Unit) (l : Nat) : LaneRes :=
      let j := (s.arg32 u b l).toNat % 64
      let k := shflFrom (w.rc.toNat % 4) j l
      res32 (s.readV u w.ra.toNat (if 0 ≤ k ∧ k < u.width then k.toNat else l))
    (∀ (s : State) (uid : Nat) (u : Machine.Unit), s.Clear uid u sh → u.frag = none →
      exec (.shfl w) s = .next (s.varDone uid u sh ((u.guardedLanes w.guard).map fun l => (l, take s u l)))) ∧
    Rendezvous (.shfl w) sh (fun s u _ l => take s u l) ∧
    (∀ x ∈ crossWords w fun _ u p l => u.arg1 p l, Cross x.1 x.2.1 x.2.2) ∧
    (∀ x ∈ crossWords w fun s u p l => s.metPred u p l, Rendezvous x.1 x.2.1 x.2.2)) ∧
  (∀ (rm : Rm) (n32 : Bool),
    (∀ x ∈ [((0 : Nat), (0 : W32)), (1, if n32 then 0xFFFFFFFF else 0x7FFFFFFF), (2, if n32 then 0 else 0x80000000), (3, 0xFFFFFFFF), (4, 0), (5, 0), (9, 0),
      (10, 0x7F800000), (11, 0xFF800000)], reduceSet rm x.1 n32 [] = (x.2, 0)) ∧
    ∀ xs : List W32, xs ≠ [] →
      (∀ op, op ≤ 5 → ReducesInt op n32 xs (reduceSet rm op n32 xs).1 ∧ (reduceSet rm op n32 xs).2 = 0) ∧
      ReducesSum rm xs (reduceSet rm 9 n32 xs) ∧ ReducesOrder false xs (reduceSet rm 10 n32 xs) ∧ ReducesOrder true xs (reduceSet rm 11 n32 xs)) ∧
  (∀ (rm : Rm) (op : Nat) (n32 : Bool) (xs ys : List W32), op ≤ 5 → xs.Perm ys → reduceSet rm op n32 xs = reduceSet rm op n32 ys) ∧
  ∀ m : W64, maskOf (lanesOf m) = m

/-- lsync passes one mask of active lanes or of waiting threads of a fragment, and traps on others; topk.ins inserts into a list. It rests on the model's choices of log entry 99. -/
def Obligations.LaneSynchronisationAndTopLists : Prop :=
  (∀ (s : State) (uid : Nat) (u : Machine.Unit) (w : A64),
    let x := srcOf w.pa w.ra 2
    let sh := (formA64 12 8 w).shape [x] []
    let ps := u.guardedLanes w.guard
    s.Clear uid u sh → u.frag = none →
      (∀ m, (∀ l ∈ ps, s.arg64 u x l = m) → m &&& ~~~u.active = 0 → exec (.lsync w) s = .next (s.retire uid u sh)) ∧
      (∀ m, ps ≠ [] → (∀ l ∈ ps, s.arg64 u x l = m) → m &&& ~~~u.active ≠ 0 → exec (.lsync w) s = .next (s.raise uid u 8 0x0A m)) ∧
      (∀ l pre k post, ps = l :: pre ++ k :: post → (∀ j ∈ pre, s.arg64 u x j = s.arg64 u x l) → s.arg64 u x k ≠ s.arg64 u x l →
        exec (.lsync w) s = .next (s.raise uid u 8 0x0A (s.arg64 u x k)))) ∧
  (∀ (s : State) (uid : Nat) (u0 : Machine.Unit) (f0 : FragInfo) (w : A64),
    let x := srcOf w.pa w.ra 2
    let sh := (formA64 12 8 w).shape [x] []
    s.Clear uid u0 sh → u0.frag = some f0 →
      let u := u0.touchAll sh
      let m := match u.wait with
        | .lsync was _ => was
        | _ => s.arg64 u x f0.lane
      let fellow (k : Nat) (y : Machine.Unit) (g : FragInfo) : Prop :=
        k ≠ uid ∧ s.unit? k = some y ∧ y.frag = some g ∧ g.parent = f0.parent ∧ g.ctr = f0.ctr ∧ y.live = true ∧ g.joined = false ∧ g.exited = false
      let differs (y : Machine.Unit) (g : FragInfo) : Prop :=
        ∃ m' st, y.wait = .lsync m' st ∧ m' ≠ m ∧ (m &&& m' ≠ 0 ∨ m.getLsbD g.lane = true ∨ m'.getLsbD f0.lane = true)
      (u.guardedLanes w.guard = [] → exec (.lsync w) s = .next (s.retire uid u sh)) ∧
      (u.guardedLanes w.guard ≠ [] → (m &&& ~~~f0.lanes ≠ 0 ∨ ∃ k y g, fellow k y g ∧ differs y g) → exec (.lsync w) s = .next (s.raise uid u 8 0x0A m)) ∧
      (u.guardedLanes w.guard ≠ [] → m &&& ~~~f0.lanes = 0 → (∀ k y g, fellow k y g → ¬ differs y g) →
        (∃ k y g, fellow k y g ∧ m.getLsbD g.lane = true ∧ y.wait ≠ .rendezvous ∧ ∀ m' st, y.wait ≠ .lsync m' st) →
          exec (.lsync w) s = .next (s.waits uid u (.lsync m sh.stall))) ∧
      (u.guardedLanes w.guard ≠ [] → m &&& ~~~f0.lanes = 0 → (∀ k y g, fellow k y g → ¬ differs y g) →
        (∀ k y g, fellow k y g → m.getLsbD g.lane = true → ∃ st, y.wait = .lsync m st) → s.abortPending u = false → u.spq = [] →
        (∀ k y g, fellow k y g → y.spq = []) → (∀ p, s.unit? f0.parent = some p → p.spq = []) →
          ∃ (t : State) (v : Machine.Unit), exec (.lsync w) s = .next t ∧ t = { s with units := t.units } ∧ t.unit? uid = some v ∧ v.pc = u.pc + 8 ∧
            v.wait = .none ∧ u.SameFiles v ∧
            (∀ k y g, fellow k y g → m.getLsbD g.lane = true → ∃ z, t.unit? k = some z ∧ z.pc = y.pc + 8 ∧ z.wait = .none ∧ y.SameFiles z) ∧
            ∀ k, k ≠ uid → (∀ y st, s.unit? k = some y → y.wait ≠ .lsync m st) → t.unit? k = s.unit? k)) ∧
  (∀ w : A64,
    let n := 2 ^ (w.rc.toNat % 4)
    let sh := (formA64 12 9 w).shape [.vec w.ra.toNat 1 0, .vec w.rb.toNat 1 0, .vec w.rd.toNat (2 * n) 0] ((formA64 12 9 w).d (2 * n))
    LaneVar (.topkIns w) sh fun s u l =>
      ((topkInsert n (s.readV u w.ra.toNat l) (s.readV u w.rb.toNat l) ((List.range (2 * n)).map fun i => s.readV u (w.rd.toNat + i) l)).map
        (BitVec.setWidth 64), 0)) ∧
  ∀ (n : Nat) (score idx : W32) (xs : List W32), xs.length = 2 * n →
    let r := topkInsert n score idx xs
    let beats (j : Nat) : Prop := (Fmt.f32.value (nth 0 xs (2 * j)).toNat).below (Fmt.f32.value score.toNat)
    r.length = 2 * n ∧ ((∀ j, j < n → ¬ beats j) → r = xs) ∧
    (∀ p, p < n → beats p → (∀ j, j < p → ¬ beats j) → ∀ j, j < n → (nth 0 r (2 * j), nth 0 r (2 * j + 1)) =
      if j < p then (nth 0 xs (2 * j), nth 0 xs (2 * j + 1)) else if j = p then (score, idx) else (nth 0 xs (2 * (j - 1)), nth 0 xs (2 * (j - 1) + 1))) ∧
    ((∀ i, i + 1 < n → ¬ (Fmt.f32.value (nth 0 xs (2 * i)).toNat).below (Fmt.f32.value (nth 0 xs (2 * (i + 1))).toNat)) →
      (∀ i, i < n → (Fmt.f32.value (nth 0 xs (2 * i)).toNat).isNan = false) →
      ∀ i, i + 1 < n → ¬ (Fmt.f32.value (nth 0 r (2 * i)).toNat).below (Fmt.f32.value (nth 0 r (2 * (i + 1))).toNat))

/-- A lane operation or a scalar-pipe word leaves memory, every other unit and every register but its destinations as they were. -/
def Obligations.FrameOfLaneWords : Prop :=
  ∀ (i : Instr) (sh : Shape) (s : State) (uid : Nat) (u : Machine.Unit), s.Clear uid u sh →
    ((∃ lat f, LaneFixed i sh lat f) ∨ (∃ f, LaneVar i sh f) ∨ (u.frag = none ∧ ∃ f, Cross i sh f) ∨
      ∃ f srcs op, sh = f.pipe srcs [(.u, f.w.rd.toNat)] ∧ Pipe i f srcs op) →
      ∃ t v, exec i s = .next t ∧ t = { s with units := t.units } ∧ s.Others t uid ∧ t.unit? uid = some v ∧ (u.touchAll sh).SameRegs v ∧
        (∀ a, sget t.mem a = sget s.mem a ∧ sget t.sram a = sget s.sram a ∧ sget t.hostMem a = sget s.hostMem a) ∧
        v.pc = u.pc + BitVec.ofNat 57 sh.len ∧ v.step = u.step + 1 + sh.stall ∧
        (∃ ws, v.win = u.win ++ ws ∧ ∀ e ∈ ws, e.kind = .fl ∨ (e.kind, e.idx) ∈ sh.dsts) ∧
        (∃ rs, v.vars = u.vars ++ rs ∧ ∀ r ∈ rs, ∀ x ∈ r.writes, (x.kind, x.idx) ∈ sh.dsts) ∧
        ∀ r, r < 128 → v.dirty.getLsbD r = (u.dirty.getLsbD r || sh.dsts.any fun d => d.1 == .v && d.2 == r)

/-- Barrier and stage words check their addresses in order, arrive, wait on phases and toggle. -/
def Obligations.BarriersAndStageWords : Prop :=
  (∀ w : A64,
    BarWord (.barInit w) (barShape 2 w true) false true true (fun s u => s.laneBars u w) (fun s uid u =>
      SpQueued (.barInit w) (barShape 2 w true) .sp s uid u fun a => a.kind = .barInit ∧ a.size = 8 ∧
        a.lanes.map (fun l => (l.lane, l.addr, l.data.toNat)) = (u.guardedLanes w.guard).map fun l =>
          (l, (s.arg32 u (srcOf w.pa w.ra 1) l).toNat % 2 ^ 20,
            (if w.rc.getLsbD 0 then 2 ^ 63 else 0) + (s.arg32 u (srcOf w.pb w.rb 1) l).toNat % 2 ^ 31 * 2 ^ 32)) ∧
    BarWord (.barArr w) (barShape 3 w true) false false true (fun s u => s.laneBars u w) (fun s uid u =>
      SpQueued (.barArr w) (barShape 3 w true) .sp s uid u fun a => a.kind = .arrive ∧
        a.lanes.map (fun l => (l.lane, l.data2.toNat, l.data.toNat)) = (u.guardedLanes w.guard).map fun l =>
          (l, (s.arg32 u (srcOf w.pa w.ra 1) l).toNat, (s.arg32 u (srcOf w.pb w.rb 1) l).toNat % 2 ^ 31)) ∧
    PhaseWord (.barWait w) 4 w 63 Wait.barrier ∧
    PhaseWord (.stgAcq w) 6 w 0 Wait.stage ∧
    BarWord (.barSync w) (barShape 5 w false) true true true (fun s u => [s.firstBar u w]) (fun s uid u =>
      let a := s.firstBar u w
      let word := BitVec.ofNat 64 (s.sramBytes a.cluster a.sram 8)
      let after := arriveWord (lanesOf u.active).length word
      (s.Queued u → exec (.barSync w) s = .next (s.waits uid u .scoreboard)) ∧
      (¬ s.Queued u → ∀ sram phase, u.synced = some (sram, phase) →
        ((BitVec.ofNat 64 (s.sramBytes a.cluster sram 8)).msb = phase → exec (.barSync w) s = .next (s.waits uid u (.barrier sram))) ∧
        ((BitVec.ofNat 64 (s.sramBytes a.cluster sram 8)).msb ≠ phase → Goes (exec (.barSync w) s) uid u (barShape 5 w false) fun t v =>
          s.OnlyUnit t uid ∧ v.synced = none)) ∧
      (¬ s.Queued u → u.synced = none → s.MemoryOk → ∃ t v, exec (.barSync w) s = .next t ∧ t.unit? uid = some v ∧
        t.sramBytes a.cluster a.sram 8 = after.toNat ∧ t.mem = s.mem ∧
        (∀ k, (k < sramKey a.cluster a.sram ∨ sramKey a.cluster a.sram + 8 ≤ k) → sget t.sram k = sget s.sram k) ∧ s.Others t uid ∧ u.SameFiles v ∧
        (after.msb ≠ word.msb → v.pc = u.pc + 8 ∧ v.wait = .none ∧ v.synced = none) ∧
        (after.msb = word.msb → v.pc = u.pc ∧ v.wait = .barrier a.sram ∧ v.synced = some (a.sram, word.msb)))) ∧
    BarWord (.stgRel w) (barShape 7 w false) true false true (fun s u => [s.firstBar u w]) (fun s uid u =>
      let a := s.firstBar u w
      (s.Queued u → exec (.stgRel w) s = .next (s.waits uid u .scoreboard)) ∧
      (¬ s.Queued u → u.count .sp ≠ 0 ∨ s.groupOpsAhead u .sp = true → exec (.stgRel w) s = .next (s.waits uid u .counter)) ∧
      (¬ s.Queued u → u.count .sp = 0 → s.groupOpsAhead u .sp = false → s.ownWord u.team a = false → ∀ tm, s.team? u.team = some tm →
        Goes (exec (.stgRel w) s) uid u (barShape 7 w false) fun t v => t.mem = s.mem ∧ t.sram = s.sram ∧ s.Others t uid ∧
          v.ops = u.ops ++ [⟨s.seq, .sp, false⟩] ∧ t.signals = (s.flushPubs u.team).signals ++
            [⟨tm.ctx, u.team, some (uid, s.seq), .toggle, a.cluster, a.sram, a.bits.setWidth 64, none, false⟩]) ∧
      (¬ s.Queued u → u.count .sp = 0 → s.groupOpsAhead u .sp = false → s.ownWord u.team a = true → s.MemoryOk → ∀ tm, s.team? u.team = some tm →
        Goes (exec (.stgRel w) s) uid u (barShape 7 w false) fun t _ => t.mem = s.mem ∧ s.Others t uid ∧
          t.sramBytes a.cluster a.sram 8 = (BitVec.ofNat 64 (s.sramBytes a.cluster a.sram 8) ^^^ 1).toNat ∧
          ∀ k, (k < sramKey a.cluster a.sram ∨ sramKey a.cluster a.sram + 8 ≤ k) → sget t.sram k = sget s.sram k))) ∧
  ∀ (n : Nat) (x : W64), 0 < n → n < 2 ^ 31 →
    let y := arriveWord n x
    let arrived := x.toNat % 2 ^ 32 + n
    y.toNat / 2 ^ 32 % 2 ^ 31 = x.toNat / 2 ^ 32 % 2 ^ 31 ∧
    (x.toNat / 2 ^ 32 % 2 ^ 31 ≤ arrived → y.msb = !x.msb ∧ y.toNat % 2 ^ 32 = 0) ∧
    (arrived < x.toNat / 2 ^ 32 % 2 ^ 31 → y.msb = x.msb ∧ y.toNat % 2 ^ 32 = arrived)

/-- Global loads, stores, atomics and reductions check their lanes in order and send one request. It rests on the model's choices of log entries 62 and 76. -/
def Obligations.GlobalAccesses : Prop :=
  (∀ w : AM,
    let size := accessBytes w.code.toNat
    let n := regsOf size
    let ix : List Src := if w.mode = 2 then [.base w.sbase.toNat] else [.base w.sbase.toNat, .vec w.vindex.toNat 1 0]
    GlobalWord (.ld w) ((formA64 14 (w.mode ++ w.code) w.toA64).shape ix (spanRegs .v w.rd.toNat n)) (loadAccess w size n false) (fun s u => s.amLanes u w)
      (fun _ _ q => q.kind = .load (codeSigned w.code.toNat) ∧ q.uni = false ∧ q.dest = w.rd.toNat ∧ q.span = n ∧ q.okPred = none ∧
        q.rtype = w.rtype.toNat ∧ q.scope = w.scope.toNat) ∧
    GlobalWord (.st w) ((formA64 14 (w.mode ++ w.code) w.toA64).shape (ix ++ [.vec w.rd.toNat n 0]) []) (storeAccess w size) (fun s u => s.amLanes u w)
      (fun s u q => q.kind = .store ∧ q.span = 0 ∧ q.okPred = none ∧ q.rtype = w.rtype.toNat ∧ q.scope = w.scope.toNat ∧
        ∀ l ∈ q.lanes, s.Data u w.rd.toNat n l.lane l.data) ∧
    GlobalWord (.sLd w) { (formA64 11 13 w.toA64).shape [.uni w.sbase.toNat 1] [(.u, w.rd.toNat)] with pipe := true } (loadAccess w 8 1 true)
      (fun s u => [(0, s.address u w.mode w.sbase.toNat w.vindex.toNat w.scale.toNat (w.off.signExtend 64) 0)])
      (fun _ _ q => q.kind = .load false ∧ q.uni = true ∧ q.dest = w.rd.toNat ∧ q.span = 1 ∧ q.okPred = none) ∧
    (let sh := (formA64 14 (w.mode ++ w.code) w.toA64).shape ix []
     ∀ (s : State) (uid : Nat) (u0 : Machine.Unit), s.Clear uid u0 sh →
      let u := u0.touchAll sh
      let go (x : Nat × W64) : Bool := u.region.isNone && canonical x.2 && (match s.place u (prefetchAccess w) x.2 with
        | .ok t => t.attr.device.isNone && t.attr.host.isNone
        | .error _ => false)
      Goes (exec (.prefetch w) s) uid u sh fun t v => s.OnlyUnit t uid ∧ v.ops = u.ops ∧ v.vars = u.vars ∧ v.spq = u.spq ∧
        ((s.amLanes u w).filter go = [] → v.reqs = u.reqs) ∧
        ((s.amLanes u w).filter go ≠ [] → ∃ q, v.reqs = u.reqs ++ [q] ∧ q.kind = .prefetch ∧ q.span = 0 ∧
          q.lanes.map (fun l => (l.lane, l.ea)) = (s.amLanes u w).filter go))) ∧
  (∀ w : AMT,
    let ety := w.ety.toNat
    let n := atomValueRegs ety
    let ix : List Src := (if w.mode = 2 then [.base w.sbase.toNat] else [.base w.sbase.toNat, .vec w.vindex.toNat 1 0]) ++
      [.vec w.rd.toNat (atomDataRegs w.code.toNat ety) 0]
    (∀ x ∈ [(Instr.atom w, ([] : List (RegKind × Nat)), (none : Option Nat)), (.atomCas w, [], none),
        (.atomAddlim w, [(.p, (w.guard.extractLsb' 0 3).toNat)], some (w.guard.extractLsb' 0 3).toNat)],
      GlobalWord x.1 ((formA64 16 (0#2 ++ w.code) w.toA64).shape ix (spanRegs .v w.rd.toNat n ++ x.2.1)) (atomAccess w false x.2.2)
        (fun s u => s.amtLanes u w)
        (fun s u q => q.kind = .atom ∧ q.op = w.code.toNat ∧ q.ety = ety ∧ q.uni = false ∧ q.dest = w.rd.toNat ∧ q.span = n ∧ q.okPred = x.2.2 ∧
          q.rtype = w.rtype.toNat ∧ q.scope = w.scope.toNat ∧ ∀ l ∈ q.lanes, s.AtomData u w l.lane l.data l.data2)) ∧
    GlobalWord (.red w) ((formA64 16 (2#2 ++ w.code) w.toA64).shape ix []) (atomAccess w true none) (fun s u => s.amtLanes u w)
      (fun s u q => q.kind = .red ∧ q.op = w.code.toNat ∧ q.ety = ety ∧ q.span = 0 ∧ q.okPred = none ∧
        ∀ l ∈ q.lanes, s.AtomData u w l.lane l.data l.data2)) ∧
  AtomOperations

/-- Scratchpad accesses check their lanes in order, queue, and are performed in program order at the bank. -/
def Obligations.Scratchpad : Prop :=
  (∀ w : AM,
    let size := accessBytes w.code.toNat
    let n := regsOf size
    let ix : List Src := if w.mode = 2 then [.base w.sbase.toNat] else [.base w.sbase.toNat, .vec w.vindex.toNat 1 0]
    SpWord (.ldSp w) ((formA64 15 (w.mode ++ w.code) w.toA64).shape ix (spanRegs .v w.rd.toNat n)) .sp size false true (fun s u => s.amLanes u w)
      (fun _ _ a => a.kind = .load (codeSigned w.code.toNat) ∧ a.dest = w.rd.toNat ∧ a.span = n ∧ a.okPred = none) ∧
    SpWord (.stSp w) ((formA64 15 (w.mode ++ w.code) w.toA64).shape (ix ++ [.vec w.rd.toNat n 0]) []) .sp size true false (fun s u => s.amLanes u w)
      (fun s u a => a.kind = .store ∧ a.span = 0 ∧ a.okPred = none ∧ ∀ l ∈ a.lanes, s.Data u w.rd.toNat n l.lane l.data)) ∧
  (∀ w : AMT,
    let op := w.code.toNat
    let ety := w.ety.toNat
    let n := atomValueRegs ety
    let ix : List Src := if w.mode = 2 then [.base w.sbase.toNat] else [.base w.sbase.toNat, .vec w.vindex.toNat 1 0]
    let ok := if op = 8 then some (w.guard.extractLsb' 0 3).toNat else none
    SpWord (.atomSp w) ((formA64 16 (1#2 ++ w.code) w.toA64).shape (ix ++ [.vec w.rd.toNat (atomDataRegs op ety) 0])
        (spanRegs .v w.rd.toNat n ++ (if op = 8 then [(.p, (w.guard.extractLsb' 0 3).toNat)] else []))) .at_ (atomSize ety) true true (fun s u => s.amtLanes u w)
      (fun s u a => a.kind = .atom op ety ∧ a.dest = w.rd.toNat ∧ a.span = n ∧ a.okPred = ok ∧ ∀ l ∈ a.lanes, s.AtomData u w l.lane l.data l.data2)) ∧
  (∀ (s : State) (uid : Nat), (∀ u, s.unit? uid = some u → u.spq = []) → exec (.spAccessPerformed uid) s = .next s) ∧
  (∀ (s : State) (uid : Nat) (u : Machine.Unit) (a : SpAcc) (rest : List SpAcc), s.unit? uid = some u → u.spq = a :: rest → s.spWaits uid u a = true →
    exec (.spAccessPerformed uid) s = .next s) ∧
  (∀ (s : State) (uid : Nat) (u : Machine.Unit) (a : SpAcc) (rest : List SpAcc) (l : SpLane), s.unit? uid = some u → u.spq = a :: rest → s.MemoryOk →
    s.spWaits uid u a = false → s.teamEnded u = false → a.kind = .arrive → a.size = 8 → a.lanes = [l] → l.at_ = 0 → 0 < l.data.toNat →
      let w := barAddr a.cluster (l.data2.setWidth 32)
      s.ownWord u.team w = true → s.inHeader w.cluster w.sram 8 = false →
        ∃ t v, exec (.spAccessPerformed uid) s = .next t ∧ t.unit? uid = some v ∧ v.spq = rest ∧ t.mem = s.mem ∧
          t.sramBytes w.cluster w.sram 8 = (arriveWord l.data.toNat (BitVec.ofNat 64 (s.sramBytes w.cluster w.sram 8))).toNat ∧
          ∀ b, (b < sramKey w.cluster w.sram ∨ sramKey w.cluster w.sram + 8 ≤ b) → sget t.sram b = sget s.sram b) ∧
  ∀ (s : State) (uid : Nat) (u : Machine.Unit) (a : SpAcc) (rest : List SpAcc), s.unit? uid = some u → u.spq = a :: rest → s.MemoryOk →
    s.spWaits uid u a = false → s.teamEnded u = false → a.kind ≠ .arrive → 0 < a.size → (∀ l ∈ a.lanes, l.at_ = 0 ∧ l.result = 0) →
    (a.lanes.map fun l => l.lane).Nodup →
    ∃ t v, exec (.spAccessPerformed uid) s = .next t ∧ t.unit? uid = some v ∧ t.mem = s.mem ∧ t.hostMem = s.hostMem ∧
      (v.spq = rest ∨ ∃ b, v.spq = b :: rest ∧ b.seq = a.seq ∧ b.kind = a.kind ∧ ∃ l ∈ b.lanes, 0 < l.at_) ∧
      (∀ l, a.lanes = [l] → v.spq = rest) ∧
      (∀ sg, a.kind = .load sg → t.sram = s.sram ∧
        (v.spq = rest → u.live = true → u.frag = none → swf u.v = true →
          ∀ l ∈ a.lanes, l.lane < 64 → u.launched.getLsbD l.lane = true → ∀ k, k < a.span → a.span ≤ 4 →
            (a.size = 1 → a.span = 1 → sget v.v (a.dest * 64 + l.lane) =
              if sg then (BitVec.ofNat 8 (s.sramBytes a.cluster l.addr 1)).signExtend 32 else BitVec.ofNat 32 (s.sramBytes a.cluster l.addr 1)) ∧
            (a.size = 2 → a.span = 1 → sget v.v (a.dest * 64 + l.lane) =
              if sg then (BitVec.ofNat 16 (s.sramBytes a.cluster l.addr 2)).signExtend 32 else BitVec.ofNat 32 (s.sramBytes a.cluster l.addr 2)) ∧
            (a.size = 4 * a.span → sget v.v ((a.dest + k) * 64 + l.lane) = BitVec.ofNat 32 (s.sramBytes a.cluster (l.addr + 4 * k) 4)))) ∧
      (a.kind = .store ∨ a.kind = .barInit →
        (∀ b, (∀ l ∈ a.lanes, b < sramKey a.cluster l.addr ∨ sramKey a.cluster l.addr + a.size ≤ b) → sget t.sram b = sget s.sram b) ∧
        (v.spq = rest → ∀ pre l post, a.lanes = pre ++ l :: post → (∀ m ∈ post, m.addr + a.size ≤ l.addr ∨ l.addr + a.size ≤ m.addr) →
          t.sramBytes a.cluster l.addr a.size = l.data.toNat % 2 ^ (8 * a.size))) ∧
      (∀ op ety l, a.kind = .atom op ety → a.lanes = [l] → a.size = atomSize ety →
        let old := BitVec.ofNat 128 (s.sramBytes a.cluster l.addr (atomSize ety))
        let r := atomNew op ety old l.data (l.data2.setWidth 128)
        (∀ b, (b < sramKey a.cluster l.addr ∨ sramKey a.cluster l.addr + atomSize ety ≤ b) → sget t.sram b = sget s.sram b) ∧
        t.sramBytes a.cluster l.addr (atomSize ety) = (match r.1 with
          | some x => x.toNat % 2 ^ (8 * atomSize ety)
          | none => old.toNat) ∧
        (u.live = true → u.frag = none → swf u.v = true → a.size = 4 * a.span → l.lane < 64 → u.launched.getLsbD l.lane = true → ∀ k, k < a.span →
          sget v.v ((a.dest + k) * 64 + l.lane) = old.extractLsb' (32 * k) 32))

/-- wait.cnt, wait.wct and wait.tl go on when their condition holds, and acquire what they wait for. It rests on the model's choices of log entry 68. -/
def Obligations.Waits : Prop :=
  (∀ (w : A64) (s : State) (uid : Nat) (u0 : Machine.Unit),
    let reg := w.rc.getLsbD 3
    let sh := (formA64 17 0 w).shape (if reg then [.uni w.ra.toNat 1] else []) []
    s.Clear uid u0 sh →
      let u := u0.touchAll sh
      let path := nth Path.msg [.ld, .st, .at_, .sp, .cp] (w.rc.toNat % 8)
      let n := if reg then (u.uget w.ra.toNat).toNat else w.rb.toNat
      s.abortPending u = false →
        (n < u.count path → exec (.waitCnt w) s = .next (s.waits uid u .counter)) ∧
        (u.count path ≤ n → Goes (exec (.waitCnt w) s) uid u sh fun t v => t = { s with units := t.units } ∧ s.Others t uid ∧ v.ops = u.ops ∧
          v.floor = if path = .ld ∨ path = .at_ then max u.floor u.stamp else u.floor)) ∧
  (∀ (w : A64) (s : State) (uid : Nat) (u0 : Machine.Unit),
    let sh := (formA64 17 1 w).shape [] []
    s.Clear uid u0 sh →
      let u := u0.touchAll sh
      s.abortPending u = false →
        (u.count .st ≠ 0 ∨ u.count .at_ ≠ 0 → exec (.waitWct w) s = .next (s.waits uid u .counter)) ∧
        (u.count .st = 0 → u.count .at_ = 0 → s.passed (s.unitClock u) u.wct = false → exec (.waitWct w) s = .next (s.waits uid u .wct)) ∧
        (u.count .st = 0 → u.count .at_ = 0 → s.passed (s.unitClock u) u.wct = true → Goes (exec (.waitWct w) s) uid u sh fun t v =>
          t = { s with units := t.units } ∧ s.Others t uid ∧ v.floor = max u.floor u.wct)) ∧
  (∀ (s : State) (k x : Nat), s.inStep = true → (s.passed k x = true → x + 20 < s.now) ∧ (x + 60 < s.now → s.passed k x = true)) ∧
  (∀ (s : State) (k : Nat), s.inStep = true → s.clock k ≤ s.now + 20 ∧ s.now ≤ s.clock k + 20) ∧
  (∀ (s : State) (k : Nat), agentClock s.ref k ≤ s.ref + 2 ∧ s.ref ≤ agentClock s.ref k + 2 ∧
    (s.inStep = false ∨ (s.ref ≤ s.now + 18 ∧ s.now ≤ s.ref + 18) → s.clock k = agentClock s.ref k)) ∧
  (∀ (s : State) (ns k : Nat), s.inStep = false ∨ (s.ref ≤ s.now + 18 ∧ s.now ≤ s.ref + 18) → s.clock k ≤ (s.elapse ns).clock k) ∧
  ∀ (w : A64) (s : State) (uid : Nat) (u : Machine.Unit),
    let p := w.rd.toNat % 8
    let sh := (formA64 17 2 w).shape [.uni w.ra.toNat 1, .uni w.rb.toNat 1] [(.p, p)]
    let a := u.uget w.ra.toNat
    let n := (u.uget w.rb.toNat).toNat % 2 ^ 63
    let res (b : Bool) : VarResult := ⟨[⟨.p, p, u.activeLanes.map fun l => (l, if b then 1 else 0)⟩], 0, u.step⟩
    s.Clear uid u sh → s.abortPending u = false →
      (a.toNat % 8 ≠ 0 → exec (.waitTl w) s = .next (s.raise uid u 8 0x04 a)) ∧
      (∀ tm, s.team? u.team = some tm → w.rc.getLsbD 0 = true → a.toNat % 8 = 0 → a.toNat < 2 ^ 20 →
        s.sramAllowed tm.ctx u.team (clusterOf tm.core) a.toNat false = true → s.sramPoisoned (clusterOf tm.core) a.toNat 8 = false →
          let word := BitVec.ofNat 64 (s.sramBytes (clusterOf tm.core) a.toNat 8)
          let stamp := (sget s.spStamp (sramKey (clusterOf tm.core) a.toNat / 8)).toNat
          (word.msb = true → Goes (exec (.waitTl w) s) uid u sh fun t v => s.OnlyUnit t uid ∧ v.vars = u.vars ++ [res true] ∧ v.floor = u.floor) ∧
          (word.msb = false → n ≤ word.toNat → a.toNat ≠ tm.base → Goes (exec (.waitTl w) s) uid u sh fun t v => s.OnlyUnit t uid ∧
            v.vars = u.vars ++ [res false] ∧ v.floor = max u.floor (max stamp u.stamp) ∧ v.mflags = u.mflags) ∧
          (word.msb = false → n ≤ word.toNat → a.toNat = tm.base → ∃ t v, exec (.waitTl w) s = .next t ∧ t.unit? uid = some v ∧ s.OnlyUnit t uid ∧
            v.pc = u.pc + 8 ∧ v.wait = .none ∧ v.vars = u.vars ++ [res false] ∧ v.floor = max u.floor (max stamp u.stamp) ∧
            v.mflags = (u.mflags.filter fun x => decide (n < x.1)) ∧
            v.fflags = (u.mflags.filter fun x => decide (x.1 ≤ n)).foldl (fun (m : Flags) (x : Nat × Flags) => m ||| x.2) u.fflags) ∧
          (word.msb = false → word.toNat < n → exec (.waitTl w) s = .next (s.waits uid u (.timeline a)))) ∧
      (∀ x, w.rc.getLsbD 0 = false → a.toNat % 8 = 0 → canonical a = true → s.place u.plain (homeAccess 8 false) a = .ok x →
        s.consumesPoison (s.unitCore u) (s.request u.plain (homeAccess 8 false) []) (laneReq u.floor 0 a x 0 0) = false →
          (s.homeBusy uid u x 8 = true → exec (.waitTl w) s = .next (s.waits uid u .counter)) ∧
          (s.homeBusy uid u x 8 = false →
            let r := s.readHome uid u x 8
            let word : W64 := r.2.1.setWidth 64
            (word.msb = true → Goes (exec (.waitTl w) s) uid u sh fun t v => t = { r.1 with units := t.units } ∧ r.1.Others t uid ∧
              v.vars = u.vars ++ [res true] ∧ v.floor = u.floor) ∧
            (word.msb = false → n ≤ word.toNat → Goes (exec (.waitTl w) s) uid u sh fun t v => t = { r.1 with units := t.units } ∧ r.1.Others t uid ∧
              v.vars = u.vars ++ [res false] ∧ v.floor = max u.floor (max r.2.2 u.stamp)) ∧
            (word.msb = false → word.toNat < n → exec (.waitTl w) s = .next (r.1.waits uid (r.1.withReqs uid u) (.timeline a)))))

/-- Cache maintenance, sealing, pinning and bank modes act on the lines and banks their ranges name. It rests on the model's choices of log entries 69, 70, 103 and 132. -/
def Obligations.CacheAndBanks : Prop :=
  (∀ (base len : W64) (line : Nat), lineMeets base len line = true ↔ ∃ i j : Nat, i < len.toNat ∧ j < 128 ∧
    base + BitVec.ofNat 64 i = (BitVec.ofNat 57 (line * 128)).signExtend 64 + BitVec.ofNat 64 j) ∧
  ∀ (w : A64) (s : State) (uid : Nat) (u : Machine.Unit),
    let base := u.uget w.ra.toNat
    let len := u.uget w.rb.toNat
    let rd := w.rd.toNat
    let core := s.unitCore u
    let asid := s.unitAsid u
    (s.Clear uid u (rangeWord 3 w [] false) → Goes (exec (.inval w) s) uid u (rangeWord 3 w [] false) fun t _ =>
      t.mem = s.mem ∧ t.l2 = s.l2 ∧ s.Others t uid ∧
      t.l1 = s.l1.filter fun l => !(l.core == core && l.asid == asid && lineMeets base len l.line && !l.owned && !s.sealedLine l.asid l.line)) ∧
    (s.Clear uid u (rangeWord 4 w [] false) → (∀ l ∈ s.l1, l.owned = true → ∃ b, s.l2Line? l.asid l.line = some b ∧ b.owner = some l.core) →
      Goes (exec (.wb w) s) uid u (rangeWord 4 w [] false) fun t _ => t.mem = s.mem ∧ s.Others t uid ∧
        ∀ l ∈ t.l1, ¬ (l.core = core ∧ l.asid = asid ∧ lineMeets base len l.line = true)) ∧
    (∀ c, s.unitCtx u = some c →
      (s.Clear uid u (rangeWord 5 w [] true) →
        let sh := rangeWord 5 w [] true
        (∀ q, u.wait ≠ .sealing q) →
          (16 ≤ c.sealed.length → Gives (exec (.seal w) s) uid u sh rd 1 fun t _ => s.OnlyUnit t uid) ∧
          (c.sealed.length < 16 → sealRange base len = none → Gives (exec (.seal w) s) uid u sh rd 2 fun t _ => s.OnlyUnit t uid) ∧
          (∀ r, c.sealed.length < 16 → sealRange base len = some r →
            ((∃ x ∈ c.sealed, r.1 < x.1 + x.2 ∧ x.1 < r.1 + r.2) → Gives (exec (.seal w) s) uid u sh rd 3 fun t _ => s.OnlyUnit t uid) ∧
            ((∀ x ∈ c.sealed, ¬ (r.1 < x.1 + x.2 ∧ x.1 < r.1 + r.2)) → s.storesIn (s.rangeNames asid r) s.seq = true → ∃ t v, exec (.seal w) s = .next t ∧
              t.unit? uid = some v ∧ v.wait = .sealing s.seq ∧ v.pc = u.pc) ∧
            ((∀ x ∈ c.sealed, ¬ (r.1 < x.1 + x.2 ∧ x.1 < r.1 + r.2)) → s.storesIn (s.rangeNames asid r) s.seq = false → Gives (exec (.seal w) s) uid u sh rd 0 fun t _ =>
              (s.deferred = [] → t.mem = s.mem) ∧ s.Others t uid ∧ t.ctx? c.slot = some { c with sealed := c.sealed ++ [r], marks := c.marks ++ (s.rangeMarks asid r).map Prod.fst } ∧
              ∀ l ∈ t.l1, l.asid = asid → lineIn r.1 r.2 l.line = false))) ∧
      (s.Clear uid u (rangeWord 5 w [] true) → ∀ q r, u.wait = .sealing q → sealRange base len = some r → s.storesIn (s.rangeNames asid r) q = false →
        Gives (exec (.seal w) s) uid u (rangeWord 5 w [] true) rd 0 fun t _ => s.Others t uid ∧ ∀ l ∈ t.l1, l.asid = asid → lineIn r.1 r.2 l.line = false) ∧
      (s.Clear uid u (rangeWord 6 w [] true) →
        let sh := rangeWord 6 w [] true
        (∀ r, sealRange base len = some r → r ∈ c.sealed → Gives (exec (.unseal w) s) uid u sh rd 0 fun t v => s.Others t uid ∧
          t.ctx? c.slot = some { c with sealed := c.sealed.filter fun y => y != r, marks := c.marks.filter fun m => m.1 != r.1 } ∧ u.wct ≤ v.wct ∧ s.now ≤ v.wct ∧
          (∀ l ∈ t.l1, l.asid = asid → lineIn r.1 r.2 l.line = false) ∧
          ∀ b ∈ t.l2, b.asid = asid → s.pinned b = true ∨ lineIn r.1 r.2 b.line = false) ∧
        ((∀ r, sealRange base len = some r → r ∉ c.sealed) → Gives (exec (.unseal w) s) uid u sh rd 1 fun t _ => s.OnlyUnit t uid)) ∧
      (s.Clear uid u (rangeWord 7 w [.uni w.rc.toNat 1] true) → ∃ n, Gives (exec (.l2Pin w) s) uid u (rangeWord 7 w [.uni w.rc.toNat 1] true) rd (BitVec.ofNat 64 n)
        fun t _ => t.sram = s.sram ∧ t.hostMem = s.hostMem ∧ s.Others t uid ∧ n ≤ (rangeLines base len).length ∧
          ∀ a x, rangeLines base len = [a] → canonical a = true → s.translate c.entry.asid (va57 a) false = .ok x → s.uncached x = false → s.pinnedBeside x < 8 →
            n = 1 ∧ ∃ b, t.l2Line? x.asid (x.va / 128) = some b ∧ b.pinCtx = c.slot ∧
              s.clock (sliceClock x.home) + min (max (u.uget w.rc.toNat).toNat 64) (2 ^ 30) ≤ b.pin) ∧
      (s.Clear uid u (rangeWord 8 w [] false) → Goes (exec (.l2Unpin w) s) uid u (rangeWord 8 w [] false) fun t _ => t.mem = s.mem ∧ t.l1 = s.l1 ∧ s.Others t uid ∧
        (∀ b ∈ t.l2, b.asid = c.entry.asid → b.pinCtx = c.slot → lineMeets base len b.line = true → b.pin = 0) ∧
        ∀ b ∈ t.l2, ∃ b0 ∈ s.l2, b = b0 ∨ (b = { b0 with pin := 0 } ∧ b0.pinCtx = c.slot))) ∧
    (∀ tm, s.team? u.team = some tm →
      let sh := (formA64 17 9 w).shape [.uni w.ra.toNat 1] [(.u, rd)]
      let idxs := (List.range w.rb.toNat).map fun i => base.toNat / 1024 + i
      s.Clear uid u sh →
        (∀ x ∈ [(Instr.bankCfgCache w, BankMode.cache), (.bankCfgSp w, .sp), (.bankCfgFifo w, .fifo)],
          (u.count .sp ≠ 0 → exec x.1 s = .next (s.waits uid u .counter)) ∧
          (u.count .sp = 0 → tm.bankStatus base w.rb.toNat x.2 ≠ 0 →
            Gives (exec x.1 s) uid u sh rd (BitVec.ofNat 64 (tm.bankStatus base w.rb.toNat x.2)) fun t _ => s.OnlyUnit t uid) ∧
          (u.count .sp = 0 → tm.bankStatus base w.rb.toNat x.2 = 0 → s.accessesBanks (clusterOf tm.core) idxs = false → tm.queue = [] →
            Gives (exec x.1 s) uid u sh rd 0 fun t _ => s.Others t uid ∧ ∃ m, t.team? u.team = some m ∧
              m = { tm with banks := tm.banks.map fun b => if idxs.contains b.idx then { b with mode := x.2 } else b }) ∧
          ((base.toNat % 1024 ≠ 0 ∨ ∃ i ∈ idxs, ∀ b ∈ tm.banks, b.idx ≠ i) → tm.bankStatus base w.rb.toNat x.2 = 1) ∧
          (base.toNat % 1024 = 0 → (∀ i ∈ idxs, ∃ b ∈ tm.banks, b.idx = i) → tm.base / 1024 ∈ idxs → tm.bankStatus base w.rb.toNat x.2 = 2)) ∧
        (tm.banks.length ≤ base.toNat → Gives (exec (.bankCfgQuery w) s) uid u sh rd (1#64 <<< 63) fun t _ => s.OnlyUnit t uid) ∧
        ∀ b, nth? tm.banks base.toNat = some b → Gives (exec (.bankCfgQuery w) s) uid u sh rd
          (BitVec.ofNat 64 ((match b.mode with
            | .cache => 0
            | .sp => 1
            | .fifo => 2) * 2 ^ 32 + b.idx * 1024)) fun t _ => s.OnlyUnit t uid)

/-- `far.begin`, `far.end`, `far.abort` and `far.stat`, and the steps by which a region commits, times out and is aborted. It rests on the model's choices of log entry 98. -/
def Obligations.Regions : Prop :=
  (∀ (x : AI) (w : A64) (s : State) (uid : Nat) (u : Machine.Unit), s.abortPending u = false →
    (let sh := { (formAI 18 0 x).shape [] [] with named := [x.rd.toNat] }
     s.Clear uid u sh →
      let die := dieOf (s.unitCore u)
      (∀ n r, u.region = some n → s.regions.find? (fun y => y.id == n) = some r → exec (.farBegin x) s = .next (s.raise uid u 8 0x14 (r.handler.signExtend 64))) ∧
      (u.region = none → 256 ≤ (s.regions.filter fun r => r.die == die).length → exec (.farBegin x) s = .next (s.waits uid u .counter)) ∧
      (u.region = none → (s.regions.filter fun r => r.die == die).length < 256 → Goes (exec (.farBegin x) s) uid u sh fun t v =>
        t.mem = s.mem ∧ s.Others t uid ∧ v.region = some s.regionCount ∧ t.regionCount = s.regionCount + 1 ∧
        t.regions = s.regions ++ [⟨s.regionCount, uid, die, (u.pc.signExtend 64 + 2 * x.imm.signExtend 64).setWidth 57, x.rd.toNat, s.now, none, [], []⟩])) ∧
    (let sh := (formA64 18 1 w).shape [] [(.u, w.rd.toNat)]
     s.Clear uid u sh →
      (u.region = none → Gives (exec (.farEnd w) s) uid u sh w.rd.toNat 0 fun t _ => s.OnlyUnit t uid) ∧
      (u.region.isSome = true → (u.count .ld ≠ 0 ∨ u.count .st ≠ 0 ∨ u.count .at_ ≠ 0) → exec (.farEnd w) s = .next (s.waits uid u .counter)) ∧
      (u.region.isSome = true → u.count .ld = 0 → u.count .st = 0 → u.count .at_ = 0 →
        exec (.farEnd w) s = .next (s.waits uid u (.farEnd w.rd.toNat (u.pc + 8) (u.step + 1 + w.stall.toNat))))) ∧
    (let sh := (formA64 18 3 w).shape [] [(.u, w.rd.toNat)]
     s.Clear uid u sh →
      (u.region = none → Gives (exec (.farStat w) s) uid u sh w.rd.toNat 0 fun t _ => s.OnlyUnit t uid) ∧
      ∀ n r, u.region = some n → s.regions.find? (fun y => y.id == n) = some r → r.pending = none → ∃ y : Nat,
        Gives (exec (.farStat w) s) uid u sh w.rd.toNat (BitVec.ofNat 64 y) (fun t _ => s.OnlyUnit t uid) ∧
        y = 1 + 2 ^ 8 * (s.edges.filter fun e => e.stalled.isNone && e.dst == r.id).length +
          2 ^ 12 * depthOf (s.edges.filter fun e => e.stalled.isNone) 6 r.id + 2 ^ 32 * r.linesWritten.length + 2 ^ 40 * r.linesRead.length)) ∧
  (∀ (w : A64) (s : State) (uid : Nat) (u : Machine.Unit),
    let sh := { (formA64 18 2 w).shape [] [] with named := [s.regionStatusReg] }
    s.Clear uid u sh →
      (u.region = none → Goes (exec (.farAbort w) s) uid u sh fun t _ => s.OnlyUnit t uid) ∧
      ∀ n r, u.region = some n → r ∈ s.regions → r.id = n → r.pending = none → Goes (exec (.farAbort w) s) uid u sh fun t _ =>
        (s.deferred = [] → t.mem = s.mem) ∧ s.Others t uid ∧ (∀ y ∈ t.regions, y.id = n → y.pending.isSome = true) ∧ (∃ y ∈ t.regions, y.id = n ∧ y.pending = some 6) ∧
        ∀ v ∈ t.versions, v.region ≠ n) ∧
  (∀ (s : State) (r : Nat) (reg : Region) (u : Machine.Unit) (rd step : Nat) (pc : BitVec 57), s.openRegion? r = some reg → s.unit? reg.unit = some u →
    u.wait = .farEnd rd pc step →
      ((∃ e ∈ s.edges, e.dst = r ∧ e.stalled = none) → exec (.regionCommit r) s = .next s) ∧
      ((∀ e ∈ s.edges, e.stalled = none → e.dst ≠ r ∧ (e.src = r → e.delivered = true)) → ∃ t v, exec (.regionCommit r) s = .next t ∧ t.unit? reg.unit = some v ∧
        v.pc = pc ∧ v.step = step ∧ v.wait = .none ∧ v.region = none ∧ u.wct ≤ v.wct ∧ t.sram = s.sram ∧
        (s.deferred = [] → (∀ y ∈ s.versions, y.region = r → (s.l2Line? y.asid (y.word / 32)).isSome = true) → t.mem = s.mem) ∧
        (rd ≠ 0 → swf u.u = true → sget v.u rd = 0) ∧ (∀ y ∈ t.regions, y.id ≠ r) ∧ (∀ y ∈ t.versions, y.region ≠ r) ∧
        (∀ e ∈ t.edges, e.src ≠ r ∧ e.dst ≠ r) ∧
        ∀ y, (s.versions.filter fun v => v.region == r) = [y] → s.deferred = [] → (∀ b ∈ s.l2, swf b.data = true) → t.sliceWord y.asid (y.word / 32) (y.word % 32) = y.value)) ∧
  (∀ (s : State) (uid n st : Nat) (u : Machine.Unit) (r : Region), s.unit? uid = some u → u.live = true → u.claimed = false → u.region = some n →
    s.regions.find? (fun y => y.id == n) = some r → r.pending = some st →
      ∃ t v, exec (.abortTaken uid) s = .next t ∧ t.unit? uid = some v ∧ v.pc = r.handler ∧ v.active = u.launched ∧ v.levels = [] ∧ v.region = none ∧
        v.wait = .none ∧ v.push = none ∧ v.step = u.step + 1 ∧ v.inHandler = u.inHandler ∧ t.mem = s.mem ∧ (∀ y ∈ t.regions, y.id ≠ r.id) ∧
        (r.statusReg ≠ 0 → swf u.u = true → sget v.u r.statusReg = BitVec.ofNat 64 st)) ∧
  (∀ (s : State) (r : Nat) (reg : Region) (u : Machine.Unit) (tm : Team) (c : Context), s.openRegion? r = some reg → s.unit? reg.unit = some u →
    s.team? u.team = some tm → s.ctx? tm.ctx = some c →
      (s.now ≤ reg.opened + c.entry.farto * 1000 → exec (.regionTimeout r) s = .next s) ∧
      (reg.opened + c.entry.farto * 1000 < s.now → ∃ t, exec (.regionTimeout r) s = .next t ∧ t.units = s.units ∧ (s.deferred = [] → t.mem = s.mem) ∧
        (∀ y ∈ t.versions, y.region ≠ r) ∧ ∃ y ∈ t.regions, y.id = r ∧ y.pending = some 4)) ∧
  ∀ (s : State) (k : Nat) (e : Edge), nth? s.edges k = some e →
    (e.delivered = true → exec (.regionEdge k) s = .next s) ∧
    (e.delivered = false → exec (.regionEdge k) s = .next { s with edges := modNth (fun _ => { e with delivered := true }) s.edges k })

/-- Subscriptions open, close and flush, and ring messages are sent, awaited and popped. It rests on the model's choices of log entries 69 and 127. -/
def Obligations.SubscriptionsAndMessages : Prop :=
  (∀ (w : A64) (s : State) (uid : Nat) (u : Machine.Unit) (tm : Team), s.team? u.team = some tm →
    (let sh := (formA64 19 0 w).shape [.uni w.ra.toNat 1, .uni w.rb.toNat 1, .uni w.rc.toNat 1] [(.u, w.rd.toNat)]
     let a := subArgs (u.uget w.ra.toNat) (u.uget w.rb.toNat) (u.uget w.rc.toNat)
     let st := s.subStatus u.team tm.core a
     (a.len = 0 ∨ 65536 < a.len ∨ a.len % 128 ≠ 0 ∨ a.loc % 128 ≠ 0 ∨ a.remote % 128 ≠ 0 ∨ s.spRange (clusterOf tm.core) a.loc a.len ≠ some u.team → st.1 = 5) ∧
     (st.1 ≠ 5 → (∃ y ∈ s.subs, y.core = tm.core ∧ y.sid = a.sid) → st.1 = 1) ∧
     (st.1 ≠ 5 → st.1 ≠ 1 → s.spRange a.cluster a.remote a.len = none → st.1 = 4) ∧
     (s.Clear uid u sh →
      (st.1 ≠ 0 → Gives (exec (.subOpen w) s) uid u sh w.rd.toNat (BitVec.ofNat 64 st.1) fun t _ => s.OnlyUnit t uid) ∧
      (st.1 = 0 → Gives (exec (.subOpen w) s) uid u sh w.rd.toNat 0 fun t _ => t = { s with units := t.units, subs := t.subs, pubs := t.pubs, signals := t.signals } ∧ s.Others t uid ∧
        (∀ p, s.team? st.2 = some p → t.signals = s.signals ++ ((s.pubOf p.core a.remote a.len).elim [] fun e => s.updatesOf e e.bufs)) ∧
        (∃ y, t.subs = s.subs ++ [y] ∧ y.core = tm.core ∧ y.sid = a.sid ∧ y.team = u.team ∧ y.loc = a.loc ∧ y.len = a.len ∧
          y.remoteCluster = a.cluster ∧ y.remote = a.remote ∧ y.lost = false) ∧
        ∃ e ∈ t.pubs, e.base = a.remote ∧ e.len = a.len ∧ (tm.core, a.sid) ∈ e.subs ∧ e.bufs = []))) ∧
    (let sh := (formA64 19 1 w).shape [] [(.u, w.rd.toNat)]
     s.Clear uid u sh →
      ((∀ y ∈ s.subs, ¬ (y.core = tm.core ∧ y.sid = w.rb.toNat ∧ y.team = u.team)) →
        Gives (exec (.subClose w) s) uid u sh w.rd.toNat 1 fun t _ => s.OnlyUnit t uid) ∧
      ((∃ y ∈ s.subs, y.core = tm.core ∧ y.sid = w.rb.toNat ∧ y.team = u.team) →
        Gives (exec (.subClose w) s) uid u sh w.rd.toNat 0 fun t _ => (∀ y ∈ t.subs, ¬ (y.core = tm.core ∧ y.sid = w.rb.toNat)) ∧
          ∀ g ∈ t.signals, ∀ bs, g.kind ≠ .update tm.core w.rb.toNat bs)) ∧
    (let sh := { (formA64 19 2 w).shape [] [] with pipe := true }
     s.Clear uid u sh →
      (u.pathFull .sp = true → exec (.subFlush w) s = .next (s.waits uid u .counter)) ∧
      (u.pathFull .sp = false → Goes (exec (.subFlush w) s) uid u sh fun t v =>
        t = { s with units := t.units, seq := s.seq + 1, pubs := t.pubs, signals := t.signals } ∧ s.Others t uid ∧
        (∀ e ∈ t.pubs, e.team = u.team → e.bufs = []) ∧
        ∃ gs, t.signals = s.signals ++ gs ∧ (∀ g ∈ gs, g.src = some (uid, s.seq)) ∧
          (gs.map fun g => (g.team, g.kind, g.cluster, g.sram)) = ((s.pubs.flatMap fun e => if e.team = u.team then s.updatesOf e e.bufs else []).map
            fun g => (g.team, g.kind, g.cluster, g.sram)) ∧
          (gs ≠ [] → v.ops = u.ops ++ [⟨s.seq, .sp, false⟩]) ∧ (gs = [] → u.ops = [] → v.ops = [])))) ∧
  (∀ (w : A64) (s : State) (uid : Nat) (u0 : Machine.Unit) (homes : List (Nat × W64 × Xlate)),
    let xa := srcOf w.pa w.ra 1
    let xt := Src.vec w.rb.toNat 2 0
    let sh := (formA64 19 3 w).shape [xa, xt] []
    s.Clear uid u0 sh →
      let u := u0.touchAll sh
      let len := 16 * (w.rc.toNat % 16 + 1)
      let ms := (u.guardedLanes w.guard).map fun l => (⟨l, (s.arg32 u xa l).toNat, s.arg64 u xt l⟩ : MsgLane)
      s.abortPending u = false →
        (∀ m, ms.find? (fun m => decide (m.src % 16 ≠ 0)) = some m → (∀ x ∈ ms, x.isGlobal = false) →
          exec (.msgSend w) s = .next (s.raise uid u 8 0x04 (BitVec.ofNat 64 m.src))) ∧
        ((∀ m ∈ ms, m.src % 16 = 0 ∧ (m.isGlobal = true → m.header.toNat % 16 = 0) ∧ s.ownSource u.team (s.clusterOfUnit u) m.src len = true) →
          locateAll (fun y => s.locate (s.unitAsid u) (va57 y) true) ((ms.filter fun m => m.isGlobal).map fun m => (m.lane, m.header)) = .ok homes →
            (u.pathFull .msg = true → exec (.msgSend w) s = .next (s.waits uid u .counter)) ∧
            (u.pathFull .msg = false → s.Queued u → exec (.msgSend w) s = .next (s.waits uid u .scoreboard)) ∧
            (u.pathFull .msg = false → ¬ s.Queued u → s.retryFull (s.clusterOfUnit u) = false → Goes (exec (.msgSend w) s) uid u sh fun t v =>
              t = { s with units := t.units, seq := s.seq + 1, msgs := t.msgs } ∧ s.Others t uid ∧
              ∃ ns, t.msgs = s.msgs ++ ns ∧ ns.length = ms.length ∧ (ns ≠ [] → v.ops = u.ops ++ [⟨s.seq, .msg, false⟩]) ∧
                ∀ k m n, nth? ms k = some m → nth? ns k = some n → n.src = uid ∧ n.seq = s.seq ∧ n.floor = u.floor ∧ n.tries = 0 ∧ n.phase = .flying ∧
                  n.bytes = bytesOf len (s.sramBytes (s.clusterOfUnit u) m.src len) ∧ n.dest.isSome = m.isGlobal ∧
                  (m.isGlobal = false → n.sram = m.target.toNat % 2 ^ 20 ∧ n.cluster = m.target.toNat / 2 ^ 20 % 2 ^ 7)))) ∧
  ∀ (w : A64) (s : State) (uid : Nat) (u : Machine.Unit),
    let reg := w.rc.getLsbD 0
    let srcs : List Src := if reg then [.uni w.ra.toNat 1, .uni w.rb.toNat 1] else [.uni w.ra.toNat 1]
    let a := u.uget w.ra.toNat
    let n := if reg then (u.uget w.rb.toNat).toNat else w.rb.toNat
    let cl := s.clusterOfUnit u
    s.abortPending u = false →
      (∀ x ∈ [((formA64 19 4 w).shape srcs [], Instr.msgWait w), ((formA64 19 5 w).shape srcs [], .msgPop w)], s.Clear uid u x.1 →
        (s.Queued u → exec x.2 s = .next (s.waits uid u .scoreboard)) ∧
        (¬ s.Queued u → w.rc.getLsbD 1 = false → (2 ^ 20 ≤ a.toNat ∨ s.fifoRing cl a.toNat = none) → exec x.2 s = .next (s.raise uid u 8 0x12 a))) ∧
      (∀ r, ¬ s.Queued u → w.rc.getLsbD 1 = false → a.toNat < 2 ^ 20 → s.fifoRing cl a.toNat = some (u.team, r) →
        (s.Clear uid u ((formA64 19 4 w).shape srcs []) →
          (r.unread < min n r.count → exec (.msgWait w) s = .next (s.waits uid u (.msgWait a))) ∧
          (min n r.count ≤ r.unread → Goes (exec (.msgWait w) s) uid u ((formA64 19 4 w).shape srcs []) fun t v => s.OnlyUnit t uid ∧ v.floor = u.floor)) ∧
        (s.Clear uid u ((formA64 19 5 w).shape srcs []) → s.MemoryOk → Goes (exec (.msgPop w) s) uid u ((formA64 19 5 w).shape srcs []) fun t _ =>
          t.mem = s.mem ∧ s.Others t uid ∧ t.sramBytes cl a.toNat 4 = (r.head + min n r.unread) % 2 ^ 32 ∧
          ∀ b, (b < sramKey cl a.toNat ∨ sramKey cl a.toNat + 4 ≤ b) → sget t.sram b = sget s.sram b)) ∧
      ∀ s1 r x st, ¬ s.Queued u → w.rc.getLsbD 1 = true → s.ownGlobalRing uid u a = .ring s1 r (some x) st →
        (s.Clear uid u ((formA64 19 4 w).shape srcs []) → min n r.count ≤ r.unread → Goes (exec (.msgWait w) s) uid u ((formA64 19 4 w).shape srcs []) fun t v =>
          t = { s1 with units := t.units } ∧ v.floor = max u.floor st) ∧
        (s.Clear uid u ((formA64 19 4 w).shape srcs []) → r.unread < min n r.count → ∃ t v, exec (.msgWait w) s = .next t ∧ t.unit? uid = some v ∧
          v.pc = u.pc ∧ v.wait = .msgWait a) ∧
        (s.Clear uid u ((formA64 19 5 w).shape srcs []) → s1.inRegionSet x.asid x.va 4 = false → Goes (exec (.msgPop w) s) uid u ((formA64 19 5 w).shape srcs []) fun t v =>
          t = { (s1.writeAt (some (s.unitCore u)) x 4 (BitVec.ofNat 128 ((r.head + min n r.unread) % 2 ^ 32)) u.floor).1 with units := t.units } ∧ v.floor = u.floor)

/-- R355, R357, R358: `cp`, `cp.tile` and `cp.zero`. -/
def CopyWords.Elements : Prop :=
  (∀ w : A64,
    let n := sizeOfCode (w.pa.toNat % 4)
    (let sh := copyShape 0 w ([.vec w.ra.toNat 1 0] ++ (if w.pa.toNat / 4 % 4 = 1 then [] else [.uni w.rb.toNat 1]) ++ [.vec w.rd.toNat 1 0]) []
     CopyWord (.cp w) sh (fun s u => ∀ e ∈ s.cpElems u w, e.1.addr.toNat % n = 0 ∧ e.2.addr.toNat % n = 0 ∧ e.1.noAddress = false ∧ e.2.noAddress = false ∧
        (e.2.global = false → s.inHeader (s.clusterOfUnit u) e.2.addr.toNat n = false)) (fun s u => (n, .lanes (s.cpElems u w))) ∧
     (∀ (s : State) (uid : Nat) (u0 : Machine.Unit), s.Clear uid u0 sh → ∀ e, (s.cpElems (u0.touchAll sh) w).find? (fun e => e.1.misaligned n || e.2.misaligned n) = some e →
        exec (.cp w) s = .next (s.raise uid (u0.touchAll sh) 8 0x04 (if e.1.addr.toNat % n ≠ 0 then e.1.addr else e.2.addr))) ∧
     ∀ (s : State) (u : Machine.Unit), s.cpElems u w = (u.guardedLanes w.guard).map fun l =>
        let x := s.readV u w.ra.toNat l
        let d : W64 := (s.readV u w.rd.toNat l).setWidth 64
        let g : W64 := u.uget w.rb.toNat + (if w.pa.getLsbD 4 then x.setWidth 64 else x.signExtend 64) * BitVec.ofNat 64 (2 ^ (w.pa.toNat / 32 % 4))
        if w.pa.toNat / 4 % 4 = 0 then (⟨true, g⟩, ⟨false, d⟩) else if w.pa.toNat / 4 % 4 = 1 then (⟨false, x.setWidth 64⟩, ⟨false, d⟩) else (⟨false, d⟩, ⟨true, g⟩)) ∧
    (let sh := copyShape 2 w [.uni w.ra.toNat 1, .uni w.rb.toNat 2, .uni w.rd.toNat 1] []
     CopyWord (.cpTile w) sh (fun s u =>
        let a := u.tileArgs w
        a.spare = 0 ∧ a.src.toNat % n = 0 ∧ a.dst.toNat % n = 0 ∧ a.sstride % n = 0 ∧ a.dstride % n = 0 ∧ (⟨a.srcG, a.src⟩ : CopyEnd).noAddress = false ∧
        (⟨a.dstG, a.dst⟩ : CopyEnd).noAddress = false ∧ (a.dstG = false → s.rowsHitHeader (s.clusterOfUnit u) a.dst.toNat a.dstride (a.len * n) a.rows = none))
      fun _ u =>
        let a := u.tileArgs w
        (n, .tile a.srcG a.dstG a.src a.dst a.sstride a.dstride a.len a.rows)) ∧
    (let sh := copyShape 3 w [.uni w.ra.toNat 1, .uni w.rb.toNat 1] []
     CopyWord (.cpZero w) sh (fun s u => (u.uget w.rb.toNat).toNat < 2 ^ 20 ∧ (u.uget w.ra.toNat).toNat % 16 = 0 ∧ (u.uget w.rb.toNat).toNat % 16 = 0 ∧
        (u.uget w.ra.toNat).toNat < 2 ^ 20 ∧ (u.uget w.rb.toNat ≠ 0 → s.inHeader (s.clusterOfUnit u) (u.uget w.ra.toNat).toNat (u.uget w.rb.toNat).toNat = false))
      (fun _ u => (1, .zero (u.uget w.ra.toNat).toNat (u.uget w.rb.toNat).toNat)) ∧
     ∀ (s : State) (uid : Nat) (u0 : Machine.Unit), s.Clear uid u0 sh → 2 ^ 20 ≤ (u0.uget w.rb.toNat).toNat →
      exec (.cpZero w) s = .next (s.raise uid (u0.touchAll sh) 8 0x0C (u0.uget w.rb.toNat))))

/-- R360: the sparse conversions. -/
def CopyWords.Conversions : Prop :=
  (∀ w : A64,
    let e := 2 ^ (w.pa.toNat / 4 % 4)
    let rsp := w.pa.getLsbD 4
    let blk := w.pb.toNat % 32
    let k := if w.pa.toNat % 4 = 0 then ConvKind.unpackBitmap else if w.pa.toNat % 4 = 1 then .unpackCsr else .unpackCoo
    (let sh := copyShape 6 w [.uni w.ra.toNat 1, .uni w.rb.toNat 1, .uni blk (if w.pa.toNat % 4 = 0 then 2 else 3), .uni w.rc.toNat 1] []
     CopyWord (.cpUnpack w) sh (fun s u => ConvReady s u (k) e rsp (u.uget w.ra.toNat) (u.uget w.rb.toNat) (fun i => u.uget (blk + i)) (u.uget w.rc.toNat))
      fun _ u => (e, .conv (k) rsp (u.uget w.ra.toNat) (u.uget w.rb.toNat) ((List.range (if w.pa.toNat % 4 = 0 then 2 else 3)).map fun i => u.uget (blk + i)) (u.uget w.rc.toNat).toNat)) ∧
    (let sh := copyShape 7 w [.uni w.ra.toNat 1, .uni w.rb.toNat 1, .uni blk (2), .uni w.rc.toNat 1] []
     CopyWord (.cpPack w) sh (fun s u => ConvReady s u (.pack) e rsp (u.uget w.ra.toNat) (u.uget w.rb.toNat) (fun i => u.uget (blk + i)) (u.uget w.rc.toNat))
      fun _ u => (e, .conv (.pack) rsp (u.uget w.ra.toNat) (u.uget w.rb.toNat) ((List.range (2)).map fun i => u.uget (blk + i)) (u.uget w.rc.toNat).toNat)) ∧
    (let sh := copyShape 8 w [.uni w.ra.toNat 1, .uni w.rb.toNat 1, .uni blk (5), .uni w.rc.toNat 1] []
     CopyWord (.cpIsect w) sh (fun s u => ConvReady s u (.isect) e rsp (u.uget w.ra.toNat) (u.uget w.rb.toNat) (fun i => u.uget (blk + i)) (u.uget w.rc.toNat))
      fun _ u => (e, .conv (.isect) rsp (u.uget w.ra.toNat) (u.uget w.rb.toNat) ((List.range (5)).map fun i => u.uget (blk + i)) (u.uget w.rc.toNat).toNat)) ∧
    (let sh := copyShape 9 w [.uni w.ra.toNat 1, .uni w.rb.toNat 1, .uni blk (3), .uni w.rc.toNat 1] []
     CopyWord (.cpMerge w) sh (fun s u => ConvReady s u (.merge) e rsp (u.uget w.ra.toNat) (u.uget w.rb.toNat) (fun i => u.uget (blk + i)) (u.uget w.rc.toNat))
      fun _ u => (e, .conv (.merge) rsp (u.uget w.ra.toNat) (u.uget w.rb.toNat) ((List.range (3)).map fun i => u.uget (blk + i)) (u.uget w.rc.toNat).toNat)))

/-- R356: `cp.commit`. -/
def CopyWords.Commit : Prop :=
  (∀ (w : A64) (s : State) (uid : Nat) (u : Machine.Unit),
    let sh := copyShape 1 w ([.uni w.ra.toNat 1] ++ (if w.pa.getLsbD 1 then [] else [.uni w.rb.toNat 1]) ++ [.uni w.rc.toNat 1]) []
    let ctr := u.uget w.ra.toNat
    let stage : W32 := (u.uget w.rc.toNat).setWidth 32
    let g := barAddr (s.clusterOfUnit u) stage
    s.Clear uid u sh → u.pathFull .cp = false → s.queueFull (s.unitCore u) (s.unitCtx u) = false →
      (w.ra ≠ 0 → ctr.toNat % 8 = 0 ∧ (⟨!w.pa.getLsbD 0, ctr⟩ : CopyEnd).noAddress = false ∧ (w.pa.getLsbD 0 = true → s.inHeader (s.clusterOfUnit u) ctr.toNat 8 = false)) →
      (w.rc ≠ 0 → g.sram % 8 = 0 ∧ (g.cluster = s.clusterOfUnit u → s.inHeader g.cluster g.sram 8 = false)) →
      (∀ b ∈ s.batches, b.id ≠ batchId uid u.batch) →
        Goes (exec (.cpCommit w) s) uid u sh fun t v => t = { s with units := t.units, seq := s.seq + 1, batches := t.batches } ∧ s.Others t uid ∧
          v.batch = u.batch + 1 ∧ ∃ b, t.batches = s.batches ++ [b] ∧ b.id = batchId uid u.batch ∧ b.closed = true ∧
            b.tl = (if w.ra ≠ 0 then some (!w.pa.getLsbD 0, ctr) else none) ∧ b.stage = (if w.rc ≠ 0 then some stage else none) ∧
            b.inc.toNat = (if w.pa.getLsbD 1 then w.pb.toNat else (u.uget w.rb.toNat).toNat % 2 ^ 63))

/-- R359: `cp.gather` and `cp.scatter`. -/
def CopyWords.Indexed : Prop :=
  ∀ (w : A64) (x : BitVec 6 × Bool × Instr), x ∈ [(4#6, false, Instr.cpGather w), (5#6, true, .cpScatter w)] →
    ∀ (s : State) (uid : Nat) (u0 : Machine.Unit) (tm : Team),
      let n := sizeOfCode (w.pb.toNat / 64)
      let sh := copyShape x.1 w [.vec w.ra.toNat 1 0, .uni (w.pa.toNat % 32) 1, .vec w.rb.toNat 1 0, .uni (w.pb.toNat % 32) 1, .vec w.rd.toNat 1 0] [(.u, w.rc.toNat)]
      s.Clear uid u0 sh → s.team? u0.team = some tm →
        let u := u0.touchAll sh
        let base := u.uget (w.pa.toNat % 32)
        let list := u.uget (w.pb.toNat % 32)
        let segs := (u.guardedLanes w.guard).map fun l => ((s.readV u w.rd.toNat l).toNat, (s.readV u w.ra.toNat l).toNat, (s.readV u w.rb.toNat l).toNat)
        (∀ y ∈ segs, y.2.2 ≤ 65535 ∧ y.1 % n = 0 ∧ y.1 < 2 ^ 20 ∧ (x.2.1 = false → y.2.2 ≠ 0 → s.inHeader (s.clusterOfUnit u) y.1 (y.2.2 * n) = false)) →
        base.toNat % n = 0 → list.toNat % 4 = 0 → canonical base = true → (⟨!w.pb.getLsbD 5, list⟩ : CopyEnd).noAddress = false →
        u.pathFull .cp = false → s.queueFull (s.unitCore u) (s.unitCtx u) = false →
          Gives (exec x.2.2 s) uid u sh w.rc.toNat (BitVec.ofNat 64 (tm.tTicket + 1)) fun t _ =>
            t = { s with units := t.units, seq := s.seq + 1, gathers := t.gathers, teams := t.teams } ∧ s.Others t uid ∧
            t.team? u.team = some { tm with tTicket := tm.tTicket + 1 } ∧ ∃ c, t.gathers = s.gathers ++ [c] ∧ c.team = u.team ∧ c.unit = uid ∧
              c.ticket = tm.tTicket + 1 ∧ c.scatter = x.2.1 ∧ c.size = n ∧ c.list = list ∧ c.base = base ∧ c.segs = segs ∧ c.floor = u.floor ∧ c.next = 0 ∧ c.fault = none ∧
              c.entries = max 1 (linesIn (segs.map fun y => (false, y.1, y.1 + y.2.2 * n)))

/-- Copy-engine and tower commands check their operands and join the queue of their core. It rests on the model's choices of log entry 119. -/
def Obligations.CopyCommands : Prop :=
  CopyWords.Elements ∧ CopyWords.Conversions ∧ CopyWords.Commit ∧ CopyWords.Indexed

/-- Matrix commands check their format, tile and ranges, and are accepted with the next ticket. It rests on the model's choices of log entry 80. -/
def Obligations.MatrixCommands : Prop :=
  ∀ (w : A64) (s : State) (uid : Nat) (u : Machine.Unit) (tm : Team), s.team? u.team = some tm → u.frag = none →
    let tile := w.pa.toNat % 8
    let rd := w.rd.toNat
    let b : Nat := (u.uget w.rb.toNat).toNat % 2 ^ 20
    let isA : Nat := (u.uget w.ra.toNat).toNat % 2 ^ 20
    let held := s.latchHeld uid u
    let asrc := if held then ASource.latch else .regs [s.rowsOf u w.ra.toNat] (s.scalesOf u w.rc.toNat)
    let msh (op : BitVec 6) : Shape := matrixShape op w [if held then .named w.ra.toNat else .vec w.ra.toNat 12 0, .uni w.rb.toNat 1, .vec w.rc.toNat 1 0]
    let word (l : Nat) : Nat := (s.readV u w.rc.toNat l).toNat
    (∀ x ∈ [(msh 0, false, Instr.mma w), (msh 1, true, .mmaReuse w)], s.Clear uid u x.1 →
      (∀ l0 rest l, u.activeLanes = l0 :: rest → rest.find? (fun l => decide (word l % 65536 ≠ word l0 % 65536)) = some l →
        exec x.2.2 s = .next (s.raise uid u 8 0x08 (BitVec.ofNat 64 (word l0 % 65536 + word l % 65536 * 2 ^ 16 + l * 2 ^ 32)))) ∧
      (∀ fw : BitVec 16, u.activeLanes ≠ [] → (∀ l ∈ u.activeLanes, word l % 65536 = fw.toNat) → (mfmt fw).legal = false →
        exec x.2.2 s = .next (s.raise uid u 8 0x09 (fw.setWidth 64))) ∧
      ∀ fw, s.Votes u w.rc.toNat fw →
        (tm.desc.accTiles ≤ tile → exec x.2.2 s = .next (s.raise uid u 8 0x0C (BitVec.ofNat 64 tile))) ∧
        (tile < tm.desc.accTiles → b % 64 = 0 → s.OwnRanges u [((b : Int), (mfmt fw).bSpan)] →
          Accepts x.2.2 x.1 s uid u rd tile (.steps asrc b 0 fw 1 0 x.2.1 !x.2.1))) ∧
    (s.Clear uid u (mloopShape w u) → ∀ fw, s.Votes u w.rc.toNat fw →
      let spA := w.pa.getLsbD 6
      let n := (u.uget (w.pb.toNat % 32)).toNat
      let incA : Int := if spA then (u.uget (w.pb.toNat % 32 + 1)).toInt else 0
      let incB : Int := (u.uget (w.pb.toNat % 32 + 2)).toInt
      let ranges := (List.range n).flatMap fun (i : Nat) => ((b : Int) + incB * (i : Int), (mfmt fw).bSpan) ::
        (if spA then aRanges ((isA : Int) + incA * (i : Int)) u.activeLanes (mfmt fw).scaleA else [])
      let src := if spA then ASource.sp isA incA else .regs ((List.range n).map fun (i : Nat) => s.rowsOf u (w.ra.toNat + 12 * i)) (s.scalesOf u w.rc.toNat)
      tile < tm.desc.accTiles → n ≤ (if spA then 65535 else 10) → b % 64 = 0 → (spA = true → isA % 64 = 0) → incB % 64 = 0 → incA % 64 = 0 →
      (spA = false → n = 0 ∨ w.ra.toNat + 12 * n ≤ u.budget) → s.OwnRanges u ranges →
        Accepts (.mloop w) (mloopShape w u) s uid u rd tile (.steps src b incB fw n (w.pa.toNat / 8 % 8) false false)) ∧
    (s.Clear uid u (matrixShape 3 w []) →
      (tm.desc.accTiles ≤ tile → exec (.maccZero w) s = .next (s.raise uid u 8 0x0C (BitVec.ofNat 64 tile))) ∧
      (tile < tm.desc.accTiles → Accepts (.maccZero w) (matrixShape 3 w []) s uid u rd tile .zero)) ∧
    (let rows := (u.uget w.rc.toNat).toNat
     let stride := u.uget w.rb.toNat
     let fmt := w.pa.toNat / 8 % 4
     let size := if fmt = 0 then 4 else if fmt = 3 then 1 else 2
     let sh (op : BitVec 6) : Shape := matrixShape op w [.uni w.ra.toNat 1, .uni w.rb.toNat 1, .uni w.rc.toNat 1]
     (s.Clear uid u (sh 4) → tile < tm.desc.accTiles → rows ≤ 32 → isA % 16 = 0 → stride.toNat % 16 = 0 → 256 ≤ stride.toNat →
       s.OwnRanges u (rowRanges isA stride 256 rows) → Accepts (.maccLd w) (sh 4) s uid u rd tile (.load isA stride rows)) ∧
     (s.Clear uid u (sh 5) → tile < tm.desc.accTiles → rows ≤ 32 → isA % 16 = 0 → stride.toNat % 16 = 0 → 64 * size ≤ stride.toNat →
       s.OwnRanges u (rowRanges isA stride (64 * size) rows) → s.NoHeader u (rowRanges isA stride (64 * size) rows) →
         Accepts (.maccSt w) (sh 5) s uid u rd tile (.store isA stride rows fmt (w.pa.getLsbD 5)))) ∧
    (let n := 16 * 2 ^ (w.pa.toNat % 4)
     let fmt := w.pa.toNat / 4 % 2
     let size := if fmt = 0 then 4 else 2
     let rows := (u.uget w.rc.toNat).toNat
     let cols := (u.uget (w.pb.toNat % 32)).toNat
     let stride := u.uget w.rb.toNat
     let sh := matrixShape 6 w [.uni w.ra.toNat 1, .uni w.rb.toNat 1, .uni (w.pb.toNat % 32) 1, .uni w.rc.toNat 1]
     s.Clear uid u sh → 1 ≤ rows → rows ≤ 32 → 1 ≤ cols → cols % n = 0 → cols ≤ 1024 → cols * size ≤ stride.toNat → isA % 16 = 0 → stride.toNat % 16 = 0 →
       64 * size ≤ stride.toNat → s.OwnRanges u (rowRanges isA stride (cols * size) rows) → s.NoHeader u (rowRanges isA stride (cols * size) rows) →
         Accepts (.mhad w) sh s uid u rd 0 (.hadamard isA stride rows cols n fmt))

/-- `lq.poll` reads the counts of a queue; `lq.push` reads its record, claims a slot, stores the record and publishes it in order, a part at a time. It rests on the model's choices of log entry 84. -/
def Obligations.LaunchCommands : Prop :=
  (∀ (w : A64) (s : State) (uid : Nat) (u : Machine.Unit) (c : Context), s.unitCtx u = some c → s.abortPending u = false →
    let h := c.queueVa (w.pa.toNat % 16)
    let rd := w.rd.toNat
    let poll := (formA64 22 1 w).shape [] [(.u, rd)]
    let push := (formA64 22 0 w).shape [.uni w.ra.toNat 1] [(.u, rd)]
    let a := u.uget w.ra.toNat
    let cl := s.clusterOfUnit u
    (s.Clear uid u poll →
      (h = 0 → Gives (exec (.lqPoll w) s) uid u poll rd (1#64 <<< 63) fun t _ => s.OnlyUnit t uid) ∧
      ∀ x, h ≠ 0 → s.queueAt u h 64 false = .ok x → s.homeBusy uid u x 64 = false →
        let d := s.readHeader uid u x
        let q := d.2.1
        Gives (exec (.lqPoll w) s) uid u poll rd
          (if q.valid = true ∧ q.enable = true then
            BitVec.ofNat 64 ((q.reserve + 2 ^ 64 - q.head) % 2 ^ 64 % 2 ^ 17 * 2 ^ 32 + (q.tail + 2 ^ 64 - q.head) % 2 ^ 64 % 2 ^ 17)
          else 1#64 <<< 63) fun t v => t = { d.1 with units := t.units } ∧ (∀ k, k ≠ uid → t.unit? k = d.1.unit? k) ∧ v.stamp = max u.stamp d.2.2) ∧
    (s.Clear uid u push →
      let p := u.push.getD { queue := w.pa.toNat % 16, parts := 0, bytes := 0, claimed := false, k := 0, slot := 0, stores := 0, asked := false, rd := rd, stall := w.stall.toNat }
      (p.claimed = false → p.stores < 8 → p.parts < 8 →
        (u.push = none → a.toNat % 64 ≠ 0 → exec (.lqPush w) s = .next (s.raise uid u 8 0x04 a)) ∧
        (a.toNat % 64 = 0 → w.pa.getLsbD 4 = true → s.spFault u 16 false true ((List.range 4).map fun i => (i, a + BitVec.ofNat 64 (16 * i))) = none → ¬ s.Queued u →
          ∃ t v n, exec (.lqPush w) s = .next t ∧ t = { s with units := t.units, free := s.free + 1 } ∧ s.Others t uid ∧ t.unit? uid = some v ∧ v.pc = u.pc ∧
            v.wait = .lqPush ∧ 1 ≤ n ∧ p.parts + n ≤ 8 ∧ v.push = some { p with
              parts := p.parts + n, bytes := p.bytes ||| BitVec.ofNat 512 (s.sramBytes cl (a.toNat + 8 * p.parts) (8 * n)) <<< (64 * p.parts) }) ∧
        (a.toNat % 64 = 0 → w.pa.getLsbD 4 = false →
          let quarters := (List.range 4).map fun i => (i, a + BitVec.ofNat 64 (16 * i))
          let at' := a + BitVec.ofNat 64 (8 * p.parts)
          (∀ e y, s.checkGlobal u.plain (pushAccess 16 false) quarters = .trap e y → exec (.lqPush w) s = .next (s.raise uid { u with push := none } 8 e y)) ∧
          ∀ ls x, s.checkGlobal u.plain (pushAccess 16 false) quarters = .ok ls → s.place u (pushAccess 8 false) at' = .ok x →
            s.fresh.pushBehind uid u (pushAccess 8 false) (pushLane u at' x 0) = false →
            (s.fresh.pushPart uid u (pushAccess 8 false) (pushLane u at' x 0) = none → exec (.lqPush w) s = .next (s.raise uid { u with push := none } 8 0x13 at')) ∧
            ∀ r, s.fresh.pushPart uid u (pushAccess 8 false) (pushLane u at' x 0) = some r → s.someOf (8 - p.parts) = 1 → (s.unit? uid).isSome = true →
              ∃ t v n, exec (.lqPush w) s = .next t ∧ t = { r.1 with units := t.units, free := r.1.free + 1 } ∧ t.unit? uid = some v ∧ v.pc = u.pc ∧ v.wait = .lqPush ∧
                v.stamp = max u.stamp r.2.stamp ∧ v.push = some { p with parts := p.parts + 1, bytes := n } ∧ n = p.bytes ||| (r.2.result.setWidth 64).setWidth 512 <<< (64 * p.parts))) ∧
      (p.claimed = false → p.stores < 8 → 8 ≤ p.parts →
        let hq := c.queueVa p.queue
        (hq = 0 → Gives (exec (.lqPush w) s) uid u push p.rd 0x8000000000000002 fun t v => s.OnlyUnit t uid ∧ v.push = none) ∧
        ∀ x, hq ≠ 0 → s.queueAt u hq 64 false = .ok x → s.homeBusy uid u x 64 = false →
          let d := s.readHeader uid u x
          let q := d.2.1
          (q.valid = false ∨ q.enable = false → Gives (exec (.lqPush w) s) uid u push p.rd 0x8000000000000002 fun t v => t = { d.1 with units := t.units } ∧ v.push = none) ∧
          (q.valid = true → q.enable = true → q.count ≤ (q.reserve + 2 ^ 64 - q.head) % 2 ^ 64 →
            Gives (exec (.lqPush w) s) uid u push p.rd 0x8000000000000001 fun t v => t = { d.1 with units := t.units } ∧ v.push = none) ∧
          ∀ y, q.valid = true → q.enable = true → (q.reserve + 2 ^ 64 - q.head) % 2 ^ 64 < q.count → s.queueAt u hq 8 true = .ok y → d.1.inRegionSet x.asid x.va 8 = false →
            (∀ dev, x.attr.device = some dev → ∃ t v m, exec (.lqPush w) s = .next t ∧ t = { d.1 with units := t.units, outbox := d.1.outbox ++ [m] } ∧
              m.dest = dev ∧ m.req.pa = x.pa ∧ m.req.size = 8 ∧ m.req.op = 0 ∧ m.req.data = 1 ∧ m.req.floor = u.floor ∧ t.unit? uid = some v ∧ v.pc = u.pc ∧
              v.wait = .lqPush ∧ v.push = some { p with claimed := true, k := q.reserve, slot := hq + 64 + BitVec.ofNat 64 (64 * (q.reserve % q.count)), asked := true }) ∧
            (x.attr.device = none →
            let z := d.1.writeAt (some (s.unitCore u)) x 8 (BitVec.ofNat 128 ((q.reserve + 1) % 2 ^ 64)) u.floor
            ∃ t v, exec (.lqPush w) s = .next t ∧ t = { z.1 with units := t.units } ∧ t.unit? uid = some v ∧ v.pc = u.pc ∧ v.wait = .lqPush ∧
              v.wct = max u.wct z.2 ∧ v.push = some { p with claimed := true, k := q.reserve, slot := hq + 64 + BitVec.ofNat 64 (64 * (q.reserve % q.count)) })) ∧
      (p.claimed = true → p.stores < 8 →
        ∀ s1 u1 p1, State.pushStores uid (pushAccess 8 true) (s.someOf (8 - p.stores)) s.fresh u p = .ok (s1, u1, p1) →
          p.stores ≤ p1.stores ∧ p1.stores ≤ 8 ∧ p1 = { p with stores := p1.stores, asked := p1.asked } ∧ (p.asked = true → p1.asked = true) ∧ u.wct ≤ u1.wct ∧
          ∃ t v, exec (.lqPush w) s = .next t ∧ t = { s1 with units := t.units } ∧ t.unit? uid = some v ∧ v.pc = u.pc ∧ v.wait = .lqPush ∧ v.push = some p1 ∧ v.wct = u1.wct))) ∧
  ∀ (s : State) (uid : Nat) (u : Machine.Unit) (c : Context) (p : Push), s.unit? uid = some u → s.unitCtx u = some c → s.able u = true →
    u.push = some p → 8 ≤ p.stores → u.wait = .lqPush →
    let sent := s.outbox.any fun o => o.lane == some (uid, 2 ^ 64, 0)
    (sent = true → exec (.lqPushPublish uid) s = .next s) ∧
    (sent = false → p.asked = true → ∃ n, s.now ≤ n ∧ exec (.lqPushPublish uid) s =
      .next ({ s with free := s.free + 1 }.setUnit uid { u with wct := max u.wct n, push := some { p with asked := false } })) ∧
    (sent = false → p.asked = false → p.stores ≠ 8 → ∃ t v, exec (.lqPushPublish uid) s = .next t ∧ t.unit? uid = some v ∧ v.pc = u.pc + 8 ∧ v.wait = .none ∧ v.push = none ∧
      v.wct = u.wct ∧ v.vars = u.vars ++ [⟨[⟨.u, p.rd, [(0, BitVec.ofNat 64 p.k)]⟩], 0, u.step⟩]) ∧
    (sent = false → p.asked = false → p.stores = 8 → u.count .st = 0 → u.count .at_ = 0 → (u.wct = 0 ∨ s.passed (s.unitClock u) u.wct = true) →
      let a := c.queueVa p.queue + 8
      let u1 := (u.landAt u.step).acquireStamp u.wct
      ∀ x y, s.queueAt u a 8 false = .ok x → s.queueAt u a 8 true = .ok y →
        let d := s.readHome uid u1 x 8
        ((d.2.1.setWidth 64).toNat ≠ p.k → exec (.lqPushPublish uid) s = .next s) ∧
        ((d.2.1.setWidth 64).toNat = p.k → d.1.inRegionSet x.asid x.va 8 = false →
          (∀ dev, x.attr.device = some dev → ∃ t v m, exec (.lqPushPublish uid) s = .next t ∧ t = { d.1 with units := t.units, outbox := d.1.outbox ++ [m] } ∧
            m.dest = dev ∧ m.req.pa = x.pa ∧ m.req.size = 8 ∧ m.req.data = (BitVec.ofNat 64 (p.k + 1)).setWidth 128 ∧ m.req.floor = max u.floor u.wct ∧
            t.unit? uid = some v ∧ v.pc = u.pc ∧ v.push = some { p with stores := 9, asked := true }) ∧
          ∀ r, x.attr.device = none → d.1.pushPart uid (d.1.withReqs uid u1) (pushAccess 8 true) (pushLane u1 a x (BitVec.ofNat 64 (p.k + 1))) = some r →
            ∃ t v, exec (.lqPushPublish uid) s = .next t ∧ t.mem = r.1.mem ∧ t.l2 = r.1.l2 ∧ t.unit? uid = some v ∧ v.pc = u.pc + 8 ∧ v.step = u.step + 1 + p.stall ∧
              v.wait = .none ∧ v.push = none ∧ v.floor = max u.floor u.wct ∧ v.wct = max u.wct r.2.ctime ∧
              v.vars = u.vars ++ [⟨[⟨.u, p.rd, [(0, BitVec.ofNat 64 p.k)]⟩], 0, u.step⟩]))

/-- Words written out in the manual decode to the instructions they stand for. -/
def Obligations.DecodeWords : Prop :=
  decodeWord 2 0x48C6 = .ok (.addS32C16 { b := 9, d := 3, s := 1 }) ∧
  decodeWord 4 0xFAA54025 = .ok (.addS32ImmB32 { b := 0x7D, a := 41, d := 40, stall := 1 }) ∧
  decodeWord 8 0x3D0E150CA0AB2233 = .ok (.ffmaF32 1 { rc := 30, pb := 0x87, rb := 5, pa := 0x43, ra := 20, rd := 10, guard := 11, stall := 4 }) ∧
  decodeWord 8 0x0000100008C360E3 = .ok (.segred { rc := 0, pb := 0, rb := 4, pa := 0, ra := 1, rd := 12, guard := 3, stall := 0 }) ∧
  decodeWord 8 0x00005000A0176803 = .ok (.brDiv { imm := 0x000A0014, rd := 1, guard := 7, stall := 0 }) ∧
  decodeWord 8 0xFFFE010348C77087 = .ok (.ld { mode := 0, code := 4, off := 0x3FFF8, scope := 0, rtype := 0, scale := 2, vindex := 3, sbase := 9, rd := 12, guard := 7, stall := 1 }) ∧
  decodeWord 8 0x0006210248A38103 = .ok (.atomAddlim { code := 8, off := 0, ety := 6, mode := 0, scope := 4, rtype := 0, scale := 2, vindex := 2, sbase := 9, rd := 10, guard := 3, stall := 0 }) ∧
  decodeWord 8 0x0200340060278843 = .ok (.waitTl { rc := 1, pb := 0, rb := 13, pa := 0, ra := 12, rd := 2, guard := 7, stall := 0 }) ∧
  decodeWord 8 0x285A1C303051A083 = .ok (.cpGather { rc := 20, pb := 0x2D, rb := 7, pa := 12, ra := 6, rd := 5, guard := 1, stall := 0 }) ∧
  decodeWord 8 0x500028008147A803 = .ok (.mma { rc := 40, pb := 0, rb := 10, pa := 0, ra := 16, rd := 20, guard := 7, stall := 0 }) ∧
  decode [0xC6, 0x48, 0x25] = .ok (.addS32C16 { b := 9, d := 3, s := 1 }, [0x25]) ∧
  decode [0x25, 0x40, 0xA5, 0xFA] = .ok (.addS32ImmB32 { b := 0x7D, a := 41, d := 40, stall := 1 }, []) ∧
  decode [0x33, 0x22, 0xAB, 0xA0, 0x0C, 0x15, 0x0E, 0x3D] =
    .ok (.ffmaF32 1 { rc := 30, pb := 0x87, rb := 5, pa := 0x43, ra := 20, rd := 10, guard := 11, stall := 4 }, []) ∧
  decode [0, 0] = .error .zeroParcel ∧ decodeWord 8 0x3D0E150CA0AF2233 = .error .malformed

/-- Decoding the word of a well-formed instruction gives the instruction back, and what follows it stays. -/
def Obligations.DecodeOfEncode : Prop :=
  ∀ (i : Instr) (rest : List Byte), i.wf = true → i.raw ≠ .none → decode (encode i ++ rest) = .ok (i, rest)

/-- A word has one meaning: encoding what bytes decode to gives the bytes back. -/
def Obligations.EncodeOfDecode : Prop :=
  ∀ (bs rest : List Byte) (i : Instr), decode bs = .ok (i, rest) → i.wf = true ∧ i.raw ≠ .none ∧ encode i ++ rest = bs

/-- A step fetches the parcels at the PC of a unit, and executes the instruction they decode to. The order of the choices, one that cannot be taken leaving the state, how late an access is performed and which parcels are fetched again are the model's own. It rests on the model's choices of log entries 2, 91, 97 and 100. -/
def Obligations.StepRunsDecodedInstruction : Prop :=
  (∀ (s : State) (uid : Nat) (rest : List Choice) (u : Machine.Unit), s.agenda = .issue uid :: rest → s.unit? uid = some u →
    let pre : State := { s with agenda := rest, focus := some uid, tick := s.tick + 1, free := s.free + 1 }
    let seen := pre.seesCode u
    seen = { pre with grids := seen.grids } ∧
    (pre.able u = false ∨ pre.hasElder u = true → step s = .next { s with agenda := rest }) ∧
    (pre.able u = true → pre.hasElder u = false → u.active = 0 → step s = .next (pre.settleUnit uid u)) ∧
    (pre.able u = true → pre.hasElder u = false → u.active ≠ 0 → (∃ id a what, u.wait = .parked id a what) → step s = .next (pre.repost uid)) ∧
    (pre.able u = true → pre.hasElder u = false → u.active ≠ 0 → (∀ id a what, u.wait ≠ .parked id a what) → ∀ (t : Team) (g : Grid) (bs : List Byte),
      seen.team? u.team = some t → nth? seen.grids t.grid = some g → bs.length = parcelLen (nth 0 bs 1 ++ nth 0 bs 0) →
      (∀ k, 2 * k < bs.length → seen.parcel (seen.unitAsid u) g (u.pc + BitVec.ofNat 57 (2 * k)) k = .got (nth 0 bs (2 * k + 1) ++ nth 0 bs (2 * k))) →
      (∀ i, decode bs = .ok (i, []) → ((seen.together u).length ≤ 1 → step s = exec i seen) ∧
        (2 ≤ (seen.together u).length → step s = seen.issueTogether i (seen.together u))) ∧
      ∀ e, decode bs = .error e → step s = exec (.illegalEncoding bs.length (BitVec.ofNat 64 (natLE bs))) seen)) ∧
  (∀ (s : State) (i : Instr) (rest : List Choice), s.agenda = .event i :: rest →
    let now : State := { s with agenda := rest, focus := none, tick := s.tick + 1, free := s.free + 1 }
    (({ s with agenda := rest } : State).admits i = false → step s = .next { s with agenda := rest }) ∧
    (({ s with agenda := rest } : State).admits i = true → (∀ t, i ≠ .watchdogStall t) → step s = exec i now) ∧
    ∀ t, ({ s with agenda := rest } : State).admits i = true → i = .watchdogStall t →
      (now.teamReady t = false → step s = exec i now) ∧
      (now.teamReady t = true → step s = .next (now.modTeam t fun x => { x with stallSince := none }))) ∧
  (∀ (s : State) (k : Nat) (rest : List Choice),
    let now : State := { s with agenda := rest, focus := none, tick := s.tick + 1 }
    (s.agenda = .register k :: rest → step s = .next (now.hostRegister k)) ∧
    (s.agenda = .command k :: rest → step s = .next (now.goOnCommand k)) ∧
    ∀ w, s.agenda = .exportWindow w :: rest → step s = .next (now.registerWindow w)) ∧
  ∀ (s : State) (ns : Nat) (rest : List Choice), s.agenda = .elapse ns :: rest →
    ∃ t, step s = .next t ∧ t = { s with
        agenda := rest, now := s.now + ns, ref := t.ref, skew := t.skew, inStep := t.inStep, tick := s.tick + 1, free := s.free + 1 } ∧
      s.ref ≤ t.ref ∧ (s.inStep = false → t.inStep = false) ∧ (s.master = s.deviceId → t.inStep = s.inStep) ∧ t.skew.natAbs ≤ s.skew.natAbs ∧
      (s.inStep = true → s.ref ≤ s.now + 18 → t.ref ≤ t.now + 18 ∧ t.now ≤ t.ref + 18)

/-- Every step keeps the canonical form of the four byte memories. -/
def Obligations.StepKeepsMemoryForm : Prop :=
  ∀ s t : State, s.MemoryOk → step s = .next t → t.MemoryOk

/-- Memory has its canonical form at reset, and nothing is listed in it. -/
def Obligations.ResetMemoryOk : Prop :=
  State.reset.MemoryOk ∧ State.reset.mem = [] ∧ State.reset.hostMem = [] ∧ State.reset.sram = [] ∧ State.reset.mailbox = []

/-- What module reset leaves: no contexts, teams or grids, host windows and doorbells zero, links down, a running module. -/
def Obligations.ResetValues : Prop :=
  State.reset.contexts = [] ∧ State.reset.grids = [] ∧ State.reset.teams = [] ∧ State.reset.units = [] ∧ State.reset.signals = [] ∧ State.reset.msgs = [] ∧
  State.reset.l1 = [] ∧ State.reset.l2 = [] ∧ State.reset.windows.length = 16 ∧ (∀ w ∈ State.reset.windows, w.base = 0 ∧ w.len = 0 ∧ w.host = 0 ∧ w.ctl = 0) ∧
  (∀ slot, (State.reset.doorbell slot).saveArea = 0 ∧ (State.reset.doorbell slot).saveSize = 0 ∧ (State.reset.doorbell slot).status = 0) ∧
  State.reset.ports.length = 12 ∧ (∀ p ∈ State.reset.ports, p.up = false) ∧ State.reset.sealedDrops = 0 ∧ State.reset.phase = .running ∧
  State.reset.now = 0 ∧ State.reset.keys = [] ∧ State.reset.deviceId = 0 ∧ State.reset.master = 0

/-- Pending results, loads, stores and atomics return to their unit, and accesses are performed at the slice, in an L1 or at the host; a step whose item is not there leaves the state. It rests on the model's choices of log entries 58, 64, 97, 101, 117 and 128. -/
def Obligations.ReturnsToRegisters : Prop :=
  (∀ (s : State) (uid k : Nat) (u : Machine.Unit), s.unit? uid = some u →
    (nth? u.vars k = none → exec (.variableLatencyResult uid k) s = .next s) ∧
    ∀ r, nth? u.vars k = some r → ∃ t v, exec (.variableLatencyResult uid k) s = .next t ∧ t.unit? uid = some v ∧ v.vars = dropNth u.vars k ∧ v.pc = u.pc ∧
      v.active = u.active ∧ t = { s with units := t.units } ∧ ((∀ w ∈ r.writes, w.kind ≠ .u) → t = s.setUnit uid v) ∧
      ((∀ w ∈ r.writes, w.kind ≠ .fl) → v.fflags = u.fflags ||| r.flags) ∧
      (∀ i vals, r.writes = [⟨.v, i, vals⟩] → u.live = true → u.frag = none → swf u.v = true → (vals.map Prod.fst).Nodup → (∀ x ∈ vals, x.1 < 64) →
        (∀ x ∈ vals, sget v.v (i * 64 + x.1) = x.2.setWidth 32) ∧
        ∀ e ∈ v.win, e.kind = .v → e.idx = i → ∀ y ∈ e.vals, ∀ x ∈ vals, y.1 ≠ x.1) ∧
      (∀ i x, r.writes = [⟨.u, i, [(0, x)]⟩] →
        (u.live = true → swf u.u = true → v.uget i = if i = 0 then 0 else x) ∧
        ∀ j w f, j ≠ uid → s.unit? j = some w → w.frag = some f → f.parent = uid → i ≠ 0 → i ∈ f.late → swf w.u = true →
          ∃ y g, t.unit? j = some y ∧ y.uget i = x ∧ y.frag = some g ∧ i ∉ g.late)) ∧
  (∀ (s : State) (uid r : Nat) (u : Machine.Unit) (q : Req), s.unit? uid = some u → nth? u.reqs r = some q →
    (q.lanes.any (fun l => !l.done) = true → exec (.loadReturn uid r) s = .next s ∧ exec (.storeCompletion uid r) s = .next s ∧
      exec (.atomicReturn uid r) s = .next s) ∧
    (q.lanes.all (fun l => l.done) = true →
      (∀ sg, q.kind = .load sg → ∃ t v, exec (.loadReturn uid r) s = .next t ∧ t.unit? uid = some v ∧ t = { s with units := t.units } ∧
        (q.uni = false → t = s.setUnit uid v) ∧ v.reqs = u.reqs.filter (fun p => p.seq != q.seq) ∧ v.pc = u.pc ∧
        (∀ p, u.ops = [⟨q.seq, p, false⟩] → v.ops = []) ∧ u.stamp ≤ v.stamp ∧ (∀ l ∈ q.lanes, l.stamp ≤ v.stamp) ∧
        (q.uni = true → u.live = true → swf u.u = true → ∀ l, q.lanes = [l] → v.uget q.dest = if q.dest = 0 then 0 else l.result.setWidth 64) ∧
        (q.uni = false → u.live = true → u.frag = none → swf u.v = true → (q.lanes.map fun l => l.lane).Nodup → ∀ l ∈ q.lanes, l.lane < 64 → u.launched.getLsbD l.lane = true →
          (q.size = 1 → q.span = 1 → sget v.v (q.dest * 64 + l.lane) = if sg then (l.result.setWidth 8).signExtend 32 else (l.result.setWidth 8).setWidth 32) ∧
          (q.size = 2 → q.span = 1 → sget v.v (q.dest * 64 + l.lane) = if sg then (l.result.setWidth 16).signExtend 32 else (l.result.setWidth 16).setWidth 32) ∧
          (q.size = 4 * q.span → ∀ k, k < q.span → sget v.v ((q.dest + k) * 64 + l.lane) = l.result.extractLsb' (32 * k) 32))) ∧
      (q.kind = .store ∨ q.kind = .red → ∃ v, exec (.storeCompletion uid r) s = .next (s.setUnit uid v) ∧ v.reqs = u.reqs.filter (fun p => p.seq != q.seq) ∧
        u.SameFiles v ∧ v.vars = u.vars ∧ v.pc = u.pc ∧ u.wct ≤ v.wct ∧ (∀ l ∈ q.lanes, l.wrote = true → l.ctime ≤ v.wct) ∧ (∀ p, u.ops = [⟨q.seq, p, false⟩] → v.ops = [])) ∧
      (q.kind = .atom → ∃ v, exec (.atomicReturn uid r) s = .next (s.setUnit uid v) ∧ v.reqs = u.reqs.filter (fun p => p.seq != q.seq) ∧ v.pc = u.pc ∧
        u.wct ≤ v.wct ∧ (∀ l ∈ q.lanes, l.wrote = true → l.ctime ≤ v.wct) ∧ (∀ l ∈ q.lanes, l.stamp ≤ v.stamp) ∧
        (u.live = true → u.frag = none → swf u.v = true → q.size = 4 * q.span → (q.lanes.map fun l => l.lane).Nodup → ∀ l ∈ q.lanes, l.lane < 64 →
          u.launched.getLsbD l.lane = true → ∀ k, k < q.span → sget v.v ((q.dest + k) * 64 + l.lane) = l.result.extractLsb' (32 * k) 32) ∧
        (∀ p, q.okPred = some p → p < 7 → u.live = true → swf u.p = true → (q.lanes.map fun l => l.lane).Nodup → ∀ l ∈ q.lanes, l.lane < 64 →
          u.launched.getLsbD l.lane = true → (v.pmask p).getLsbD l.lane = l.ok)))) ∧
  (∀ (s : State) (uid : Nat) (u : Machine.Unit), s.unit? uid = some u →
    let past := s.passed (s.unitClock u) u.wct
    (u.live = true → u.wait = .wct → past = true → exec (.wctPassed uid) s = .next (s.setUnit uid { u with wait := .none })) ∧
    (u.live = false ∨ u.wait ≠ .wct ∨ past = false → exec (.wctPassed uid) s = .next s)) ∧
  (∀ (s : State) (uid r : Nat) (u : Machine.Unit) (q : Req), s.unit? uid = some u → nth? u.reqs r = some q →
    let next := q.lanes.find? fun l => l.attr.host.isSome && !l.done && !q.region && !s.olderPending uid u q l
    (next = none → exec (.hostCompletion uid r) s = .next s) ∧
    ∀ l far, next = some l → l.attr.device = none → l.attr.host = some far → l.at_ = 0 → l.tags = [] → q.size ≤ 8 → s.teamEnded u = false →
      (q.kind = .store → s.inRegionSet l.asid l.va q.size = false → ∃ t, exec (.hostCompletion uid r) s = .next t ∧
        t.hostMem = ssetMany s.hostMem (hostAt l.pa far) (bytesOf q.size l.data.toNat) ∧ t.mem = s.mem ∧ t.sram = s.sram) ∧
      (q.kind = .atom ∨ q.kind = .red → q.size = atomSize q.ety → l.result = 0 → l.wrote = false → s.inRegionSet l.asid l.va q.size = false →
        let old := BitVec.ofNat 128 (s.hostBytes (hostAt l.pa far) q.size)
        let x := atomNew q.op q.ety old l.data (l.data2.setWidth 128)
        ∃ t v p m, exec (.hostCompletion uid r) s = .next t ∧ t.mem = s.mem ∧ t.sram = s.sram ∧
          (t.hostMem = match x.1 with
            | some y => ssetMany s.hostMem (hostAt l.pa far) (bytesOf q.size y.toNat)
            | none => s.hostMem) ∧
          t.unit? uid = some v ∧ nth? v.reqs r = some p ∧ m ∈ p.lanes ∧ m.lane = l.lane ∧ m.done = true ∧ m.result = old ∧ m.ok = x.2 ∧ m.wrote = x.1.isSome) ∧
      (∀ sg, q.kind = .load sg → l.result = 0 → ∃ t v p m, exec (.hostCompletion uid r) s = .next t ∧
        t.hostMem = s.hostMem ∧ t.mem = s.mem ∧ t.unit? uid = some v ∧ nth? v.reqs r = some p ∧ m ∈ p.lanes ∧ m.lane = l.lane ∧ m.done = true ∧
        m.result = BitVec.ofNat 128 (s.hostBytes (hostAt l.pa far) q.size))) ∧
  ∀ (s : State) (uid r i : Nat) (u : Machine.Unit) (q : Req) (l : LaneReq), s.unit? uid = some u → nth? u.reqs r = some q → nth? q.lanes i = some l →
    (l.done = true → exec (.sliceRequest uid r i .perform) s = .next s) ∧
    (q.region = false → l.attr.host.isSome = true → exec (.sliceRequest uid r i .perform) s = .next s) ∧
    (l.done = false → l.merged = false → s.olderPending uid u q l = true → exec (.sliceRequest uid r i .perform) s = .next s) ∧
    (l.done = false → l.merged = false → s.uncached l.xlate = false → s.olderPending uid u q l = false → q.region = false → l.tags = [] → l.at_ = 0 → l.result = 0 →
      l.wrote = false → s.teamEnded u = false → q.size ∈ [1, 2, 4, 8, 16] → l.va % min q.size 8 = 0 → (q.lanes.map fun x => x.lane).Nodup →
        ∀ b, s.l2Line? l.asid (l.va / 128) = some b → b.owner = none → swf b.data = true → PerformsPart s uid r i u q l b)

/-- Signals land at their words, and the levels of memory recall, evict, expire and forget. It rests on the model's choices of log entries 75 and 89. -/
def Obligations.SignalsAndLevels : Prop :=
  (∀ (s : State) (k : Nat) (g : Signal), nth? s.signals k = some g →
    let old := BitVec.ofNat 64 (s.sramBytes g.cluster g.sram 8)
    let behind := s.updatesAhead k g.team || s.messageAhead k g
    let alone (t : Nat) : Prop := g.target.getLsbD 27 = true ∨ g.team ≠ t ∨ s.pubs = []
    let word (f : W64 → W64) (i : Instr) : Prop :=
      (behind = true → exec i s = .next s) ∧
      (∀ t, behind = false → s.resolve g.ctx g.cluster g.sram 8 = .live t → s.MemoryOk → ∃ z, exec i s = .next z ∧
        (alone t → z.signals = dropNth s.signals k) ∧ z.mem = s.mem ∧ z.sramBytes g.cluster g.sram 8 = (f old).toNat ∧
        ∀ b, (b < sramKey g.cluster g.sram ∨ sramKey g.cluster g.sram + 8 ≤ b) → sget z.sram b = sget s.sram b) ∧
      (behind = false → s.resolve g.ctx g.cluster g.sram 8 = .gone → ∃ z, exec i s = .next z ∧ z.signals = dropNth s.signals k ∧ z.sram = s.sram ∧ z.saved = s.saved)
    let image (f : W64 → W64) (ahead : Bool) : Prop :=
      ∀ n x, ahead = false → s.resolve g.ctx g.cluster g.sram 8 = .image n → nth? s.saved n = some x → swf x.sram = true →
        ∃ z y, exec (.imageSignalApply k) s = .next z ∧ z.signals = dropNth s.signals k ∧ z.sram = s.sram ∧ nth? z.saved n = some y ∧
          natOfBytes (sgetMany y.sram g.sram 8) = (f (BitVec.ofNat 64 (natOfBytes (sgetMany x.sram g.sram 8)))).toNat
    let advanced (inc w : W64) : W64 := BitVec.ofNat 64 (min (w.toNat % 2 ^ 63 + inc.toNat) (2 ^ 63 - 1) + w.toNat / 2 ^ 63 * 2 ^ 63)
    (∀ n, g.kind = .arrive n → word (arriveWord n) (.remoteArrival k) ∧ image (arriveWord n) behind) ∧
    (g.kind = .toggle → word (fun w => w ^^^ 1) (.stageToggle k) ∧ image (fun w => w ^^^ 1) behind) ∧
    (∀ inc fl pc, g.kind = .advance inc fl pc none → g.globalVa = none →
      image (advanced inc) (s.advanceAhead k g) ∧
      (s.advanceAhead k g = true → exec (.counterAdvance k) s = .next s) ∧
      (∀ t, s.advanceAhead k g = false → s.resolve g.ctx g.cluster g.sram 8 = .live t → s.MemoryOk →
        ∃ z, exec (.counterAdvance k) s = .next z ∧ z.signals = dropNth s.signals k ∧ z.mem = s.mem ∧
          z.sramBytes g.cluster g.sram 8 = (advanced inc old).toNat ∧
          ∀ b, (b < sramKey g.cluster g.sram ∨ sramKey g.cluster g.sram + 8 ≤ b) → sget z.sram b = sget s.sram b)) ∧
    (∀ core sid bs, g.kind = .update core sid bs →
      ((∃ h ∈ s.signals.take k, h.team = g.team ∧ ∃ cs, h.kind = .update core sid cs) → exec (.subscriptionUpdate k) s = .next s) ∧
      ((∀ h ∈ s.signals.take k, ∀ cs, h.team = g.team → h.kind ≠ .update core sid cs) → s.messageAhead k g = false →
        (s.subs.find? (fun y => y.core == core && y.sid == sid && !y.lost) = none → ∃ z, exec (.subscriptionUpdate k) s = .next z ∧
          z.signals = dropNth s.signals k ∧ z.sram = s.sram ∧ z.saved = s.saved ∧ z.mem = s.mem) ∧
        (∀ y t, s.subs.find? (fun y => y.core == core && y.sid == sid && !y.lost) = some y → (∀ b ∈ bs, s.resolveFor y.team g.cluster b.1 = .live t) → s.MemoryOk →
          ∃ z, exec (.subscriptionUpdate k) s = .next z ∧ z.signals = dropNth s.signals k ∧ z.mem = s.mem ∧
            (∀ pre a x post, bs = pre ++ (a, x) :: post → (∀ b ∈ post, b.1 ≠ a) → sget z.sram (sramKey g.cluster a) = x) ∧
            ∀ b, (∀ c ∈ bs, b ≠ sramKey g.cluster c.1) → sget z.sram b = sget s.sram b) ∧
        (∀ y n x, s.subs.find? (fun y => y.core == core && y.sid == sid && !y.lost) = some y → nth? s.saved n = some x → swf x.sram = true →
          (∀ b ∈ bs, s.resolveFor y.team g.cluster b.1 = .image n) → (∀ m, s.resolve g.ctx g.cluster g.sram 8 = .image m → ∃ z w, exec (.imageSignalApply k) s = .next z ∧
            z.sram = s.sram ∧ nth? z.saved n = some w ∧
            (∀ pre a v post, bs = pre ++ (a, v) :: post → (∀ b ∈ post, b.1 ≠ a) → sget w.sram a = v) ∧ ∀ a, (∀ c ∈ bs, a ≠ c.1) → sget w.sram a = sget x.sram a))))) ∧
  (∀ (s : State) (k : Nat) (e : PubEntry), nth? s.pubs k = some e →
    ((∀ b ∈ e.bufs, s.now < b.opened + 64) → exec (.subBufferTimeout k) s = .next s) ∧
    ((∃ b ∈ e.bufs, b.opened + 64 ≤ s.now) → exec (.subBufferTimeout k) s = .next { s with
      pubs := modNth (fun _ => { e with bufs := [] }) s.pubs k, signals := s.signals ++ s.updatesOf e e.bufs })) ∧
  (∀ (s : State) (k : Nat) (r : Recall), nth? s.recalls k = some r →
    let mine (x : Recall) : Prop := x.core = r.core ∧ x.home = r.home
    ((∃ x ∈ s.recalls.take k, mine x) → exec (.wordRecall k) s = .next s) ∧
    ((∀ x ∈ s.recalls.take k, ¬ mine x) → exec (.wordRecall k) s = .next { s with
      recalls := dropNth s.recalls k
      l1 := s.l1.map fun l => if l.core == r.core && l.asid == r.asid && l.line == r.line then
        { l with valid := l.valid &&& ~~~r.words, dirty := l.dirty &&& ~~~r.words } else l
      poisonL1 := s.poisonL1.filter fun p => !(p.1 == r.core && p.2.1 == r.asid && p.2.2 / 32 == r.line && r.words.getLsbD (p.2.2 % 32)) })) ∧
  (∀ (s : State) (k : Nat) (l : L1Line), nth? s.l1 k = some l →
    (l.owned = false → ∃ z, exec (.lineRecall k) s = .next z ∧ z.mem = s.mem ∧ z.l2 = s.l2 ∧
      z.l1 = s.l1.filter fun x => !(x.core == l.core && x.asid == l.asid && x.line == l.line)) ∧
    (∀ b, l.owned = true → s.l1Line? l.core l.asid l.line = some l → s.l2Line? l.asid l.line = some b → b.owner = some l.core → swf b.data = true →
      (∀ r ∈ s.recalls, ¬ (r.core = l.core ∧ r.asid = l.asid ∧ r.line = l.line)) → ∃ z c, exec (.lineRecall k) s = .next z ∧ z.mem = s.mem ∧
        z.l2Line? l.asid l.line = some c ∧ c.owner = none ∧ c.foreign = 0 ∧ b.stamp ≤ c.stamp ∧ l.stamp ≤ c.stamp ∧
        (∀ x ∈ z.l1, ¬ (x.core = l.core ∧ x.asid = l.asid ∧ x.line = l.line)) ∧
        ∀ i, i < 32 → sget c.data i = if l.dirty.getLsbD i = true ∧ b.foreign.getLsbD i = false then sget l.data i else sget b.data i) ∧
    (s.l1Live l = true → exec (.leaseExpiry k) s = .next s) ∧
    (s.l1Live l = false → ∃ z, exec (.leaseExpiry k) s = .next z ∧ z.mem = s.mem ∧ z.l2 = s.l2 ∧
      z.l1 = s.l1.filter fun x => !(x.core == l.core && x.asid == l.asid && x.line == l.line))) ∧
  (∀ (s : State) (k : Nat) (b : L2Line), nth? s.l2 k = some b →
    (s.pinned b = true → exec (.towerRequest k) s = .next s) ∧
    (s.pinned b = false → s.l2Line? b.asid b.line = some b → b.owner = none → b.pa % 128 = 0 → s.MemoryOk → ∃ z, exec (.towerRequest k) s = .next z ∧ z.l1 = s.l1 ∧
      z.l2Line? b.asid b.line = none ∧ (∀ i, i < 32 → b.dirty.getLsbD i = true → z.memWord (b.pa + 4 * i) = sget b.data i) ∧
      (s.deciphered b.attr.key b.pa = none → ∀ a, (∀ i, i < 32 → b.dirty.getLsbD i = true → a < b.pa + 4 * i ∨ b.pa + 4 * i + 4 ≤ a) → sget z.mem a = sget s.mem a)) ∧
    (b.pin = 0 ∨ s.pinned b = true → exec (.pinExpiry k) s = .next s) ∧
    (b.pin ≠ 0 → s.pinned b = false → exec (.pinExpiry k) s = .next { s with
      l2 := s.l2.map fun x => if x.asid == b.asid && x.line == b.line then { x with pin := 0 } else x })) ∧
  (∀ (s : State) (cluster asid vpn : Nat),
    (∀ e, s.translate asid (vpn * 65536) false = .error e → exec (.redirectReply cluster asid vpn) s = .next s) ∧
    ∀ x, s.translate asid (vpn * 65536) false = .ok x → ∃ z, exec (.redirectReply cluster asid vpn) s = .next z ∧
      z = { s with homeCache := z.homeCache, remaps := z.remaps } ∧ (cluster, x.asid, x.va / 65536) ∈ z.homeCache) ∧
  ∀ (s : State) (asid len : Nat) (base : W64),
    (s.translatedIn asid (va57 base) len = true → exec (.shootdown asid base len) s = .next s) ∧
    (s.translatedIn asid (va57 base) len = false → s.deferred = [] → (∀ b ∈ s.l2, b.asid = asid → lineIn (va57 base) len b.line = true → s.pinned b = false) →
      ∃ z, exec (.shootdown asid base len) s = .next z ∧ (∀ l ∈ z.l1, l.asid = asid → lineIn (va57 base) len l.line = false) ∧
        (∀ b ∈ z.l2, b.asid = asid → lineIn (va57 base) len b.line = false) ∧
        ∀ e ∈ z.homeCache, e.2.1 = asid → len ≠ 0 → ¬ (e.2.2 * 65536 < va57 base + len ∧ va57 base < e.2.2 * 65536 + 65536)) ∧
    ∀ b c, s.translatedIn asid (va57 base) len = false → s.deferred = [] → s.versions = [] →
      (s.l2.filter fun x => x.asid == asid && lineIn (va57 base) len x.line) = [b] → s.pinned b = true → s.ctx? b.pinCtx = some c →
      ∃ e z, exec (.shootdown asid base len) s = .next z ∧ z.l2Line? b.asid b.line = none ∧ z.mem = ((e.lineRecall b.asid b.line).evictL2 b.asid b.line).mem ∧
        e = ({ s with homeCache := z.homeCache, remaps := z.remaps } : State).postEvent b.pinCtx 1 ((BitVec.ofNat 57 (b.line * 128)).signExtend 64) (BitVec.ofNat 64 asid) 0

/-- Fragment threads start, pull, write back and join, and ring messages land, wait or are dropped. It rests on the model's choices of log entries 74, 122 and 131. -/
def Obligations.FragmentsAndMessages : Prop :=
  (∀ (s : State) (uid : Nat) (u p : Machine.Unit) (f : FragInfo), s.unit? uid = some u → u.frag = some f → s.unit? f.parent = some p →
    (let returning := (∃ v ∈ p.vars, v.step < f.step) ∨ ((∃ r ∈ p.reqs, r.seq < f.since ∧ (r.span ≠ 0 ∨ r.okPred.isSome = true)) ∨
        ∃ r ∈ p.spq, r.seq < f.since ∧ (r.span ≠ 0 ∨ r.okPred.isSome = true))
     (f.launched = true ∨ returning → exec (.fragmentLaunch uid) s = .next s) ∧
     (u.live = true → f.launched = false → ¬ returning → ∃ t, exec (.fragmentLaunch uid) s = .next t ∧ t = { s with units := t.units } ∧
       (∀ k x g, s.unit? k = some x → x.frag = some g → x.inFragment f.parent f.ctr = true → g.launched = false → ∃ v, t.unit? k = some v ∧ v.dirty = p.dirty ∧
         v.pc = x.pc ∧ v.frag = some { g with launched := true } ∧ (∀ i, i < 7 → v.pmask i = p.pmask i &&& (1#64 <<< g.lane)) ∧ v.active = x.active ∧ v.live = true) ∧
       ∀ k x, s.unit? k = some x → x.inFragment f.parent f.ctr = false → t.unit? k = some x)) ∧
    (∀ reg, u.wait ≠ .pull reg → exec (.registerPull uid reg) s = .next s) ∧
    (∀ reg, u.live = true → u.wait = .pull reg → f.joined = false → f.exited = false → (∀ c ∈ f.cache, c.1 ≠ reg) → swf u.v = true →
      ∃ z v g, exec (.registerPull uid reg) s = .next z ∧ z.unit? uid = some v ∧ v.wait = .none ∧ v.frag = some g ∧ g.cache.head? = some (reg, false) ∧
        sget v.v (reg * 64 + f.lane) = (u.cached f reg).getD (p.vget reg f.lane) ∧ z.mem = s.mem ∧
        ∀ k x h, k ≠ uid → s.unit? k = some x → x.frag = some h → x.inFragment f.parent f.ctr = true → h.joined = false → h.exited = false →
          (∀ c ∈ h.cache, c.1 ≠ reg) → swf x.v = true → ∃ w o, z.unit? k = some w ∧ w.frag = some o ∧ o.cache.head? = some (reg, false) ∧ w.wait = x.wait ∧
            sget w.v (reg * 64 + h.lane) = (x.cached h reg).getD (p.vget reg h.lane)) ∧
    (∀ r x rest, f.back = (r, x) :: rest → f.parent ≠ uid → swf p.v = true → r < 128 → ∃ z v y, exec (.writeBack uid) s = .next z ∧
      z.unit? uid = some v ∧ v.frag = some { f with back := rest } ∧ z.unit? f.parent = some y ∧ y.vget r f.lane = x ∧
      (∀ k, k ≠ r * 64 + f.lane → sget y.v k = sget p.v k) ∧ y.pc = p.pc ∧ y.active = p.active) ∧
    (f.back = [] → (f.joined = true ∨ f.exited = true) → f.counted = false → f.parent ≠ uid → ∃ z v y, exec (.writeBack uid) s = .next z ∧
      z.unit? uid = some v ∧ v.frag = some { f with counted := true } ∧ z.unit? f.parent = some y ∧
      y.joinCtr = modNth (fun n => n - 1) p.joinCtr f.ctr ∧ y.v = p.v) ∧
    (f.back = [] → f.joined = false → f.exited = false → exec (.writeBack uid) s = .next s)) ∧
  (∀ (s : State) (uid c : Nat) (u : Machine.Unit) (jpc : BitVec 57) (m lanes : W64) (old : List (Nat × W32)) (rest : List Level), s.unit? uid = some u →
    u.levels = ⟨jpc, m, .exported c lanes old false⟩ :: rest → c < 4 → (∃ x ∈ s.units, x.inFragment uid c = true) →
    (∀ d, d < c → ∀ x ∈ s.units, x.inFragment uid d = false) →
    (∀ x ∈ s.units, x.inFragment uid c = true → x.vars = [] ∧ x.reqs = [] ∧ x.spq = [] ∧ ∃ g, x.frag = some g ∧ g.counted = true) →
      ∃ z v tl, exec (.joinCompletion uid) s = .next z ∧ z.unit? uid = some v ∧ v.levels = ⟨jpc, m, .exported c lanes old true⟩ :: tl ∧
        (∀ x ∈ s.units, x.inFragment uid c = true → x.wct ≤ v.wct ∧ v.fflags ||| x.fflags = v.fflags ∧ x.stamp ≤ v.stamp) ∧
        (∀ x ∈ z.units, x.inFragment uid c = false) ∧ z.mem = s.mem) ∧
  ∀ (s : State) (k : Nat) (m : Msg), nth? s.msgs k = some m →
    (m.phase ≠ .flying ∨ m.dest.isSome = true ∨ s.msgBehind k m = true → exec (.ringMessage k) s = .next s) ∧
    (m.phase = .flying → m.dest = none → s.msgBehind k m = false →
      (s.fifoState m = .full → exec (.ringMessage k) s = .next { s with msgs := modNth (fun _ => { m with phase := .refused }) s.msgs k }) ∧
      (s.fifoState m = .gone ∨ s.fifoState m = .invalid → ∃ z, exec (.ringMessage k) s = .next z ∧ z.msgs = dropNth s.msgs k ∧ z.sram = s.sram) ∧
      (∀ r, s.fifoState m = .ready r → s.MemoryOk → ∃ z, exec (.ringMessage k) s = .next z ∧ z.msgs = dropNth s.msgs k ∧ z.mem = s.mem ∧
        z.sramBytes m.cluster (m.sram + 4) 4 = (r.tail + 1) % 2 ^ 32 ∧
        ∀ i, i < 16 * r.slot → m.bytes.length ≤ 16 * r.slot →
          sget z.sram (sramKey m.cluster (m.sram + 16 + r.tail % r.count * 16 * r.slot + i)) = nth 0 m.bytes i)) ∧
    (m.phase = .refused → m.dest = none → s.fifoState m ≠ .full → exec (.messageRetry k) s = .next { s with msgs := modNth (fun _ => { m with phase := .flying }) s.msgs k }) ∧
    (m.phase = .refused → m.dest = none → s.fifoState m = .full → exec (.messageRetry k) s = .next s) ∧
    (∀ c, m.phase = .flying → m.dest = some s.deviceId → s.msgBehind k m = false → s.ctx? m.ctx = some c →
      (s.globalRing m = .full → exec (.ringAgentMessage k) s = .next { s with msgs := modNth (fun _ => { m with phase := .refused }) s.msgs k }) ∧
      (∀ r s1 s2 x, s.globalRing m = .ready r → s.ringBusy m c r = false → s.writePieces c.entry.asid m.floor r.slot (m.target + BitVec.ofNat 64 (16 + r.tail % r.count * 16 * r.slot))
          (m.bytes ++ List.replicate (16 * r.slot - m.bytes.length) 0) = .ok s1 →
        s1.sysWrite c.entry.asid (m.target + 4) 4 (BitVec.ofNat 128 ((r.tail + 1) % 2 ^ 32)) m.floor = .ok (s2, x) →
          ∃ z, exec (.ringAgentMessage k) s = .next z ∧ z.msgs = dropNth s.msgs k ∧ z.mem = s2.mem ∧ z.l2 = s2.l2) ∧
      (∀ r reason a, s.globalRing m = .ready r → s.ringBusy m c r = false →
          s.writePieces c.entry.asid m.floor r.slot (m.target + BitVec.ofNat 64 (16 + r.tail % r.count * 16 * r.slot))
            (m.bytes ++ List.replicate (16 * r.slot - m.bytes.length) 0) = .error (reason, a) → ∃ z, exec (.ringAgentMessage k) s = .next z ∧
          (6 < reason → z.msgs = dropNth s.msgs k) ∧
          (reason ≤ 6 → ∃ w, nth? z.msgs k = some w ∧ w.tries = m.tries + 1 ∧ w.bytes = m.bytes ∧
            w.phase = .backoff (s.clock (niClock ((s.unit? m.src).elim 0 s.clusterOfUnit)) + min (2000 * 2 ^ m.tries) 256000)))) ∧
    (m.phase ≠ .flying → exec (.ringAgentMessage k) s = .next s) ∧
    (m.phase = .flying → s.msgBehind k m = true → (∀ x ∈ s.msgs.take k, x.tries = 0) → exec (.ringAgentMessage k) s = .next s) ∧
    (∀ c dev, m.phase = .flying → m.dest = some dev → dev ≠ s.deviceId → s.msgBehind k m = false → s.ctx? m.ctx = some c → m.sent = false →
      (s.reachable c.entry.asid dev = true → ∃ z o, exec (.ringAgentMessage k) s = .next z ∧ z.mem = s.mem ∧ z.outbox = s.outbox ++ [o] ∧ o.dest = dev ∧
        o.req.message = m.bytes ∧ o.req.floor = m.floor ∧ z.msgs = modNth (fun x => { x with sent := true }) s.msgs k) ∧
      (s.reachable c.entry.asid dev = false → ∃ z, exec (.ringAgentMessage k) s = .next z ∧ z.msgs = dropNth s.msgs k)) ∧
    (∀ n, m.phase = .backoff n →
      let now := s.clock (niClock ((s.unit? m.src).elim 0 s.clusterOfUnit))
      (now < n → exec (.backoffExpiry k) s = .next s) ∧
      (n ≤ now → exec (.backoffExpiry k) s = .next { s with msgs := modNth (fun _ => { m with phase := .flying }) s.msgs k }))

/-- R305, R307, R309, R404, R407: the steps of a copy, `cp.tile` or `cp.zero` in the queue. How many elements a step moves is log entry 77. -/
def EngineWork.Copies : Prop :=
  (∀ (s : State) (k : Nat) (c : CopyCmd), nth? s.copies k = some c → c.fault = none → c.isConv = false →
    let h := s.engineHome c.team
    let behind := s.behindEarlier c.unit c.seq (copyDst c.kind c.size)
    let put (r : State × CopyCmd) : State := { r.1 with copies := modNth (fun _ => r.2) r.1.copies k }
    let goOn (r : State × CopyCmd) : State := if r.2.fault = none ∧ r.2.count ≤ r.2.next then (put r).finishCopy k r.2 else put r
    let page := s.elemPage h c c.next
    let piece := ((List.range (c.count - c.next)).map fun i => c.next + i).filter fun i => decide (s.elemPage h c i = page)
    let refused := s.elemFault h c (s.pieceBegun h c page)
    (behind = true → exec (.copyPiece k) s = .next s) ∧
    (behind = false → c.count ≤ c.next → exec (.copyPiece k) s = .next (s.finishCopy k c)) ∧
    (∀ t, behind = false → c.next < c.count → c.sent = some t → exec (.copyPiece k) s = .next (goOn (s.copyAnswered h c t))) ∧
    (behind = false → c.next < c.count → c.sent = none →
      (∀ i f, i ∈ piece → refused i = some f → (∀ j ∈ piece, j < i → refused j = none) → exec (.copyPiece k) s = .next (put (s, { c with fault := some f }))) ∧
      ((∀ i ∈ piece, refused i = none) →
        (∀ r, s.readAhead h c = some r → exec (.copyPiece k) s = .next (put r)) ∧
        (s.readAhead h c = none → s.elemWaits h c = true → c.held = s.heldWords h (c.elem c.next).2 c.elemSize → exec (.copyPiece k) s = .next s) ∧
        (s.readAhead h c = none → s.elemWaits h c = false → s.elemRemote h c c.next = none → ∃ n, 1 ≤ n ∧ n ≤ piece.length ∧
          exec (.copyPiece k) s = .next (goOn (State.copyRun h page n s.fresh c))) ∧
        (∀ dev x write, s.readAhead h c = none → s.elemWaits h c = false → s.elemRemote h c c.next = some (dev, x, write) →
          ∃ z o, exec (.copyPiece k) s = .next z ∧ z.mem = s.mem ∧ z.sram = s.sram ∧ z.outbox = s.outbox ++ [o] ∧ o.dest = dev ∧ o.req.pa = x.pa ∧
            o.req.kind = (if write then 1 else 0) ∧ o.req.size = c.elemSize ∧ o.req.floor = c.floor ∧
            z.copies = modNth (fun _ => { c with sent := some s.now }) s.copies k))) ∧
    (∀ a len, c.kind = .zero a len → behind = false → c.next < len / 16 → a + len ≤ 2 ^ 20 → c.got = [] → c.sent = none → s.MemoryOk →
      (∀ i, i < len / 16 → s.inHeader h.cluster (a + 16 * i) 16 = false ∧ s.sramAllowed h.ctx c.team h.cluster (a + 16 * i) true = true) →
        ∃ z n, exec (.copyPiece k) s = .next z ∧ 1 ≤ n ∧ c.next + n ≤ len / 16 ∧ z.mem = s.mem ∧
          (∀ j, j < 16 * n → sget z.sram (sramKey h.cluster (a + 16 * c.next + j)) = 0) ∧
          (∀ b, (b < sramKey h.cluster (a + 16 * c.next) ∨ sramKey h.cluster (a + 16 * (c.next + n)) ≤ b) → sget z.sram b = sget s.sram b) ∧
          (c.next + n = len / 16 → z.copies = dropNth s.copies k) ∧
          (c.next + n < len / 16 → ∃ d, nth? z.copies k = some d ∧ d.kind = c.kind ∧ d.next = c.next + n))) ∧
  (∀ (h : EngineHome) (page : Option (Nat × Nat)) (n : Nat) (s : State) (c : CopyCmd),
    let stop := c.count ≤ c.next ∨ s.elemPage h c c.next ≠ page ∨ s.elemWaits h c = true ∨ (s.elemRemote h c c.next).isSome = true
    (stop → State.copyRun h page (n + 1) s c = (s, c)) ∧
    (∀ f, ¬ stop → s.copyElem h c c.next = .error f → State.copyRun h page (n + 1) s c = (s, { c with fault := some f })) ∧
    ∀ s1 t, ¬ stop → s.copyElem h c c.next = .ok (s1, t) → State.copyRun h page (n + 1) s c = State.copyRun h page n s1
      { c with next := c.next + 1, ctime := max c.ctime t, held := [], got := c.got.filter (fun g => g.1 != c.next), sent := none }) ∧
  (∀ (s : State) (h : EngineHome) (c : CopyCmd) (t dev : Nat) (x : Xlate) (write : Bool), s.elemRemote h c c.next = some (dev, x, write) →
    let away := ∃ o ∈ s.outbox, o.lane = some (c.unit, c.seq, c.next)
    (away → s.copyAnswered h c t = (s, c)) ∧
    (¬ away → write = true → ∃ n, t ≤ n ∧ s.copyAnswered h c t = (s.fresh, c.past n)) ∧
    ∀ s1 n, ¬ away → write = false → s.fresh.engineWrite h 6 (c.elem c.next).2 c.elemSize s.remoteData c.floor = .ok (s1, n) →
      s.copyAnswered h c t = (s1, c.past 0)) ∧
  (∀ (s : State) (h : EngineHome) (c : CopyCmd) (begun : Bool) (i : Nat) (f : EngineFault), s.elemRemote h c i = none →
    (s.elemFault h c begun i = some f ↔ s.copyElem h c i = .error f)) ∧
  ∀ (s : State) (h : EngineHome) (c : CopyCmd) (i : Nat) (a b : W64), c.got = [] → c.elem i = (some ⟨false, a⟩, ⟨false, b⟩) → c.elemSize ≤ 16 →
    s.sramAllowed h.ctx h.team h.cluster a.toNat false = true → s.sramPoisoned h.cluster a.toNat c.elemSize = false →
    s.inHeader h.cluster b.toNat c.elemSize = false → s.sramAllowed h.ctx h.team h.cluster b.toNat true = true →
      s.copyElem h c i = .ok (s.sramWrite h.team h.cluster b.toNat (bytesOf c.elemSize (s.sramBytes h.cluster a.toNat c.elemSize)), 0)

/-- R309, R315, R316, R353: the steps of a sparse conversion: elements read before their turn, the walk, and its writes, the status word last. The order of its reads and writes is log entry 107. -/
def EngineWork.Conversions : Prop :=
  (∀ (s : State) (k : Nat) (c : CopyCmd) (kind : ConvKind) (rsp : Bool) (a b : W64) (block : List W64) (st : Nat),
    nth? s.copies k = some c → c.fault = none → c.kind = .conv kind rsp a b block st →
    let h := s.engineHome c.team
    let behind := s.behindEarlier c.unit c.seq (copyDst c.kind c.size)
    (c.writes = none →
      let r := s.convert h kind { e := c.size, sp := rsp, a := a, b := b, p := block } st c.got
      (∀ g, r.ahead s.free = some g → exec (.sparseConversion k) s = .next { r.st.fresh with copies := modNth (fun x => { x with got := g :: x.got }) r.st.copies k }) ∧
      (r.ahead s.free = none → exec (.sparseConversion k) s =
        .next { r.st with copies := modNth (fun x => { x with writes := some r.pending, fault := r.fault }) r.st.copies k })) ∧
    (∀ ws, c.writes = some ws →
      (behind = true → exec (.sparseConversion k) s = .next s) ∧
      (∀ f, behind = false → s.convWrites h ws = .error f → exec (.sparseConversion k) s =
        .next { s with copies := modNth (fun x => { x with writes := some (ws.filter fun w => w.page != f.2), fault := some f.1 }) s.copies k }) ∧
      ∀ s0 s1, behind = false → s.convWrites h ws = .ok s0 → s.fresh.convWrites h (ws.take (s.someOf ws.length)) = .ok s1 →
        (ws ≠ [] → 1 ≤ s.someOf ws.length ∧ s.someOf ws.length ≤ ws.length) ∧
        exec (.sparseConversion k) s = .next (if ws.length ≤ s.someOf ws.length then s1.finishCopy k c
          else { s1 with copies := modNth (fun x => { x with writes := some (ws.drop (s.someOf ws.length)) }) s1.copies k })) ∧
    (∀ w, c.writes = some [w] → behind = false → w.size ≤ 16 → w.addr < 2 ^ 20 → s.inHeader h.cluster w.addr w.size = false →
      s.sramAllowed h.ctx c.team h.cluster w.addr true = true → s.MemoryOk → ∃ z, exec (.sparseConversion k) s = .next z ∧ z.mem = s.mem ∧
        z.copies = dropNth s.copies k ∧ z.sramBytes h.cluster w.addr w.size = w.value % 256 ^ w.size ∧
        ∀ y, (y < sramKey h.cluster w.addr ∨ sramKey h.cluster w.addr + w.size ≤ y) → sget z.sram y = sget s.sram y)) ∧
  (∀ (s : State) (h : EngineHome) (k : ConvKind) (x : ConvArgs) (st : Nat) (got : List (Nat × BitVec 128)), (s.convert h k x st got).fault = none →
    (∃ ws v, (s.convert h k x st got).pending = ws ++ [⟨st, 8, v, none⟩]) ∧
    (k ≠ .isect → k ≠ .merge → x.rows = 0 ∨ x.cols = 0 → (s.convert h k x st got).pending = [⟨st, 8, 0, none⟩])) ∧
  (∀ (r : Conv) (n : Nat) (g : Nat × BitVec 128), r.ahead n = some g → g ∈ r.reads ∧ ∀ y ∈ r.got, y.1 ≠ g.1) ∧
  (∀ (r : Conv) (w : CopyOut) (p : Nat × Nat), r.fault ≠ none → w ∈ r.pending → r.page = some p → w.page ≠ some p ∧ w ∈ r.writes) ∧
  (∀ (r : Conv), r.fault ≠ none → r.page = none → r.pending = []) ∧
  ∀ (s : State) (h : EngineHome) (w : CopyOut) (ws : List CopyOut),
    (∀ f, s.engineWrite h 6 ⟨false, BitVec.ofNat 64 w.addr⟩ w.size (BitVec.ofNat 128 w.value) 0 = .error f → s.convWrites h (w :: ws) = .error (f, w.page)) ∧
    ∀ s1 t, s.engineWrite h 6 ⟨false, BitVec.ofNat 64 w.addr⟩ w.size (BitVec.ofNat 128 w.value) 0 = .ok (s1, t) → s.convWrites h (w :: ws) = s1.convWrites h ws

/-- R307, R311 to R313: the next element of a gather or scatter; the reason code of one on another device is log entry 130. -/
def EngineWork.Indexed : Prop :=
  (∀ (s : State) (k : Nat) (c : TowerCmd), nth? s.gathers k = some c → c.fault = none → c.next < c.count → s.behindEarlier c.unit c.seq (towerDst c) = false →
    let h := s.engineHome c.team
    let i := if c.scatter then Instr.scatterElement k else .gatherElement k
    (c.scatter = true → exec (.gatherElement k) s = .next s) ∧ (c.scatter = false → exec (.scatterElement k) s = .next s) ∧
    (∀ f, s.towerElem h c c.next = .error f → exec i s = .next { s with gathers := modNth (fun x => { x with fault := some f }) s.gathers k }) ∧
    ∀ s1 t, s.towerElem h c c.next = .ok (s1, t) →
      (∀ r, s.towerAhead h c = some r → exec i s = .next { r.1 with gathers := modNth (fun _ => r.2) r.1.gathers k }) ∧
      (s.towerAhead h c = none →
        let after := { s1.fresh with gathers := modNth (fun x => { x with next := x.next + 1, ctime := max x.ctime t, held := [], got := x.got.filter fun g => g.1 != c.next }) s1.gathers k }
        (c.scatter = false → exec (.gatherElement k) s = .next after) ∧
        ∀ s2 idx d, c.scatter = true → s.towerRead h c c.next = .ok (s2, idx, d) →
          (idx = skipIndex → exec (.scatterElement k) s = .next after) ∧
          (idx ≠ skipIndex → s.behindGlobal h c.unit c.seq (c.globalEnd idx) c.size = false → s.heldWords h (c.globalEnd idx) c.size = [] →
            exec (.scatterElement k) s = .next after))) ∧
  ∀ (s : State) (h : EngineHome) (c : TowerCmd) (i : Nat),
    (∀ s1 idx d, s.towerRead h c i = .ok (s1, idx, d) →
      (c.scatter = false → s.towerElem h c i = s1.engineWrite h 7 (c.spEnd i) c.size d c.floor) ∧
      (c.scatter = true → idx ≠ skipIndex → s.towerElem h c i = s1.engineWrite h 7 (c.globalEnd idx) c.size d c.floor) ∧
      (c.scatter = true → idx = skipIndex → s.towerElem h c i = .ok (s1, 0))) ∧
    (let a := (c.list + BitVec.ofNat 64 (4 * (segAt c.size c.segs i).2)).toNat
     c.got = [] → c.listSp = true → s.sramAllowed h.ctx h.team h.cluster a false = true → s.sramPoisoned h.cluster a 4 = false →
      (s.sramBytes h.cluster a 4 = skipIndex → s.towerRead h c i = .ok (s, skipIndex, 0)) ∧
      ∀ x s1 d, s.sramBytes h.cluster a 4 ≠ skipIndex → c.scatter = false →
        s.locate h.asid (va57 (c.globalEnd (s.sramBytes h.cluster a 4)).addr) false = .ok x → x.attr.device = none →
        s.engineRead h 7 (c.globalEnd (s.sramBytes h.cluster a 4)) c.size = .ok (s1, d) → s.towerRead h c i = .ok (s1, s.sramBytes h.cluster a 4, d)) ∧
  ∀ (s : State) (h : EngineHome) (c : TowerCmd) (i : Nat) (x : Xlate),
    let a := (c.list + BitVec.ofNat 64 (4 * (segAt c.size c.segs i).2)).toNat
    let g := c.globalEnd (s.sramBytes h.cluster a 4)
    c.got = [] → c.listSp = true → s.sramAllowed h.ctx h.team h.cluster a false = true → s.sramPoisoned h.cluster a 4 = false →
    s.sramBytes h.cluster a 4 ≠ skipIndex → canonical g.addr = true → s.locate h.asid (va57 g.addr) c.scatter = .ok x → x.attr.device ≠ none →
      s.towerRead h c i = .error ⟨g.addr, 7, 5⟩

/-- R302, R303, R308, R310: batches land, the tower timeline advances, and faults end teams or contexts. The access code of a spill ring's record is log entry 54. -/
def EngineWork.LandingsAndFaults : Prop :=
  (∀ (s : State) (u : Nat) (x : Machine.Unit) (t : Team) (b : Batch), s.unit? u = some x → s.team? x.team = some t → b ∈ s.batches → b.closed = true → b.id / 2 ^ 32 = u →
    (∀ y ∈ s.batches, y.closed = true → y.id / 2 ^ 32 = u → y = b ∨ b.id < y.id) → (∀ g ∈ s.signals, g.isAdvance x.team = true → g.src.map Prod.fst ≠ some u) →
    let cl := clusterOf t.core
    (s.landed cl b = false → exec (.batchLanding u) s = .next s) ∧
    (s.landed cl b = true → ∃ z, exec (.batchLanding u) s = .next z ∧ z.mem = s.mem ∧ z.sram = s.sram ∧ z.batches = s.batches.filter (fun y => y.id != b.id) ∧
      (b.tl = none → b.stage = none → z.signals = s.signals) ∧
      (∀ y, b.tl = none → b.stage = some y → ∃ gs g, z.signals = s.signals ++ gs ++ [g] ∧ g.kind = .toggle ∧ g.team = x.team ∧
        g.cluster = (barAddr cl y).cluster ∧ g.sram = (barAddr cl y).sram) ∧
      (∀ a, b.tl = some (false, a) → ∃ g, z.signals = s.signals ++ [g] ∧ g.kind = .advance b.inc b.ctime b.pc b.stage ∧ g.globalVa = none ∧
        g.cluster = cl ∧ g.sram = a.toNat ∧ g.team = x.team) ∧
      ∀ a, b.tl = some (true, a) → ∃ g, z.signals = s.signals ++ [g] ∧ g.kind = .advance b.inc b.ctime b.pc b.stage ∧ g.globalVa = some a.toNat ∧ g.team = x.team)) ∧
  (∀ (s : State) (t : Nat) (tm : Team) (c : TowerCmd), s.team? t = some tm → c ∈ s.gathers → c.team = t → (∀ y ∈ s.gathers, y.team = t → y = c ∨ c.ticket < y.ticket) →
    let old := s.sramBytes (clusterOf tm.core) (tm.base + 8) 8
    (c.next < c.count → exec (.towerTicketAdvance t) s = .next s) ∧
    (c.fault = none → c.count ≤ c.next → (c.ctime = 0 ∨ s.passed (towerClock (4 * dieOf tm.core)) c.ctime = true) → s.MemoryOk →
      ∃ z, exec (.towerTicketAdvance t) s = .next z ∧ z.mem = s.mem ∧ z.gathers = s.gathers.filter (fun x => !(x.team == t && x.ticket == c.ticket)) ∧
        z.sramBytes (clusterOf tm.core) (tm.base + 8) 8 = min (old % 2 ^ 63 + 1) (2 ^ 63 - 1) + old / 2 ^ 63 * 2 ^ 63)) ∧
  (∀ (s : State) (t : Nat),
    let info (f : EngineFault) (pc : W64) : FaultInfo := { kind := 4, cause := 0, access := f.access, reason := f.reason, addr := f.addr, pc := pc, lane := none }
    ((∀ c ∈ s.copies, c.team = t → c.fault = none) → (∀ c ∈ s.gathers, c.team = t → c.fault = none) → exec (.engineFault t) s = .next s) ∧
    (∀ c f, c ∈ s.copies → c.team = t → c.fault = some f → (∀ y ∈ s.copies, y.team = t → y.fault ≠ none → y = c) →
      exec (.engineFault t) s = .next (s.terminate t (some c.unit) (info f c.pc))) ∧
    ∀ c f, (∀ y ∈ s.copies, y.team = t → y.fault = none) → c ∈ s.gathers → c.team = t → c.fault = some f → (∀ y ∈ s.gathers, y.team = t → y.fault ≠ none → y = c) →
      exec (.engineFault t) s = .next (s.terminate t (some c.unit) (info f c.pc))) ∧
  ∀ (s : State) (slot reason : Nat) (c : Context), s.ctx? slot = some c →
    let record (access : Nat) (a : W64) : FaultInfo := { kind := 7, cause := 0, access := access, reason := reason, addr := a, pc := 0, lane := none }
    (s.spills slot = false → exec (.spillRingFault slot reason) s = .next s) ∧
    (s.spills slot = true → reason = 7 →
      exec (.spillRingFault slot reason) s = .next ((s.postRecord slot none none (record 5 c.entry.spillBase)).killContext slot)) ∧
    (∀ a, s.spills slot = true → reason ≠ 7 → s.spillPage c reason = some a →
      exec (.spillRingFault slot reason) s = .next ((s.postRecord slot none none (record 6 a)).killContext slot))

/-- R70 to R75, R322 to R335, R353: the steps of the matrix engine on the command at the head of a team's queue. -/
def EngineWork.Matrix : Prop :=
  (∀ (s : State) (t : Nat) (tm : Team) (c : MatrixCmd), s.team? t = some tm → tm.matrixHead = some c → s.engineRuns tm c = true →
    let cl := clusterOf tm.core
    let lo := c.tile * 2048
    let stored (m : Sparse 8) (ws : List (Nat × Nat × Nat)) : Sparse 8 := ws.foldl (fun m w => ssetMany m (sramKey cl w.1) (bytesOf w.2.1 w.2.2)) m
    (∀ src b incB fmt n gran keep drop, c.kind = .steps src b incB fmt n gran keep drop →
      let f := mfmt fmt
      let rs := stepRanges f c src b incB
      let left := (banksOf (rs.1 ++ [rs.2])).filter fun i => !(c.seen.any fun x => x.1 == i)
      (2 ≤ left.length → ∃ now, now ≠ [] ∧ now.length ≤ left.length ∧ (∀ i ∈ now, i ∈ left) ∧
        (now.length < left.length → exec (.matrixStep t) s = .next (s.fresh.modTeam t fun x => x.modCmd c.ticket fun _ => now.foldl (s.readBank cl) c))) ∧
      (left.length ≤ 1 →
        let c1 := left.foldl (s.readBank cl) c
        let r := c1.stepResult f src tm.latch rs.2 tm.acc
        (∀ a, c1.stepPoison rs.1 rs.2 = some a → exec (.matrixStep t) s = .next (s.matrixPoison t c a)) ∧
        (c1.stepPoison rs.1 rs.2 = none → ∃ z y, exec (.matrixStep t) s = .next z ∧ z.mem = s.mem ∧ z.sram = s.sram ∧ z.team? t = some y ∧ y.acc = r.1 ∧
          y.queue = (tm.modCmd c.ticket fun x => { x with next := x.next + 1, seen := [], got := [], bad := [] }).queue ∧
          y.latch = (if keep then some ⟨c.unit, c.mask, r.2.2.1, r.2.2.2⟩ else if drop then none else tm.latch) ∧
          ∀ u, s.unit? c.unit = some u → r.2.1 ≠ 0 → ∃ v, z.unit? c.unit = some v ∧ v.mflags = u.mflags ++ [(c.ticket, r.2.1)]) ∧
        ∀ steps scales, src = .regs steps scales →
          let bytes (a n : Nat) : Nat := if (banksOf [rs.2]).all (fun i => c1.seen.contains (i, true)) then 0 else natOfBytes (sgetMany c1.got a n)
          r.1 = (stepTile f c.mask c.tile ((List.range 32).map fun i => melems f.a f.scaleA (sget (nth [] steps c.next) i).toNat (sget scales i).toNat)
            ((List.range 64).map fun j => melems f.b f.scaleB (bytes (rs.2.1 + 48 * j) 48) (if f.scaleB then bytes (rs.2.1 + 3072 + 2 * j) 2 else 0)) tm.acc).1)) ∧
    (c.kind = .zero → swf tm.acc = true → ∃ z y, exec (.matrixTileMove t) s = .next z ∧ z.mem = s.mem ∧ z.sram = s.sram ∧ z.team? t = some y ∧
      y.queue = (tm.modCmd c.ticket fun x => { x with finished := true }).queue ∧
      ∀ k, sget y.acc k = if lo ≤ k ∧ k < lo + 2048 then 0 else sget tm.acc k) ∧
    (∀ base stride rows, c.kind = .load base stride rows → rows ≤ 32 → c.next ≤ rows → swf tm.acc = true →
      s.firstPoison cl ((List.range rows).map fun i => (base + i * stride.toNat, 256)) = none → ∃ z y n, exec (.matrixTileMove t) s = .next z ∧
        z.mem = s.mem ∧ z.sram = s.sram ∧ z.team? t = some y ∧ (c.next < rows → 1 ≤ n) ∧ c.next + n ≤ rows ∧
        y.queue = (tm.modCmd c.ticket fun x => { x with next := c.next + n, finished := decide (rows ≤ c.next + n) }).queue ∧
        (∀ i j, c.next ≤ i → i < c.next + n → j < 64 → sget y.acc (lo + 64 * i + j) = BitVec.ofNat 32 (s.sramBytes cl (base + i * stride.toNat + 4 * j) 4)) ∧
        ∀ k, (k < lo + 64 * c.next ∨ lo + 64 * (c.next + n) ≤ k) →
          sget y.acc k = if c.next = 0 ∧ lo ≤ k ∧ k < lo + 2048 then 0 else sget tm.acc k) ∧
    (∀ base stride rows fmt sat, c.kind = .store base stride rows fmt sat →
      let outs := if c.next = 0 then (storeElems c tm.acc base stride.toNat rows fmt sat).1 else c.outs
      outs ≠ [] → ∃ z y n, exec (.matrixTileMove t) s = .next z ∧ z.mem = s.mem ∧ 1 ≤ n ∧ n ≤ outs.length ∧ z.sram = stored s.sram (outs.take n) ∧ z.team? t = some y ∧
        y.acc = tm.acc ∧ y.queue = (tm.modCmd c.ticket fun x => { x with next := 1, outs := outs.drop n, finished := decide (outs.length ≤ n) }).queue) ∧
    (∀ base stride rows cols n fmt, c.kind = .hadamard base stride rows cols n fmt →
      let size := if fmt = 0 then 4 else 2
      let at' := base + c.next / (cols / n) * stride.toNat + c.next % (cols / n) * n * size
      let last (j : Nat) : Bool := decide (rows * (cols / n) ≤ j)
      (∀ a, c.outs = [] → s.firstPoison cl [(at', n * size)] = some a → exec (.hadamardTransform t) s = .next (s.matrixPoison t c a)) ∧
      (c.outs = [] → s.firstPoison cl [(at', n * size)] = none →
        let outs := (s.hadamardBlock cl at' n size (if fmt = 0 then .f32 else .bf16)).1
        outs.length = n ∧ (0 < n → ∃ z y m, exec (.hadamardTransform t) s = .next z ∧ z.mem = s.mem ∧ 1 ≤ m ∧ m ≤ n ∧ z.sram = stored s.sram (outs.take m) ∧
          z.team? t = some y ∧ y.acc = tm.acc ∧
          y.queue = (tm.modCmd c.ticket fun x => { x with next := c.next + 1, outs := outs.drop m, finished := decide (n ≤ m) && last (c.next + 1) }).queue)) ∧
      (c.outs ≠ [] → ∃ z y m, exec (.hadamardTransform t) s = .next z ∧ z.mem = s.mem ∧ 1 ≤ m ∧ m ≤ c.outs.length ∧ z.sram = stored s.sram (c.outs.take m) ∧
        z.team? t = some y ∧
        y.queue = (tm.modCmd c.ticket fun x => { x with next := c.next, outs := c.outs.drop m, finished := decide (c.outs.length ≤ m) && last c.next }).queue))) ∧
  (∀ (s : State) (t : Nat) (tm : Team) (c : MatrixCmd) (rest : List MatrixCmd), s.team? t = some tm → tm.queue = c :: rest →
    let old := s.sramBytes (clusterOf tm.core) tm.base 8
    (c.done = false → exec (.matrixTimelineAdvance t) s = .next s) ∧
    (c.done = true → tm.terminated = false → tm.life ≠ .saved → tm.life ≠ .gated → s.MemoryOk → ∃ z y, exec (.matrixTimelineAdvance t) s = .next z ∧ z.mem = s.mem ∧
      z.team? t = some y ∧ y.queue = rest ∧ z.sramBytes (clusterOf tm.core) tm.base 8 = min (old % 2 ^ 63 + 1) (2 ^ 63 - 1) + old / 2 ^ 63 * 2 ^ 63)) ∧
  (∀ (f : MFmt) (mask : W64) (tile : Nat) (rows cols : List (List MElem)) (acc : Sparse 32) (i j : Nat), swf acc = true → i < 32 → j < 64 →
    let old := sget acc (tile * 2048 + i * 64 + j)
    let x := (stepSum (nth [] rows i) (nth [] cols j)).1
    sget (stepTile f mask tile rows cols acc).1 (tile * 2048 + i * 64 + j) =
      if mask.getLsbD i then (if f.acc = 1 then (updS32 old x f.sat).1 else (updF32 old x).1) else updIdle old (f.acc == 1)) ∧
  ∀ (c : MatrixCmd) (acc : Sparse 32) (base stride rows : Nat) (sat : Bool) (i j : Nat), i < rows → j < 64 →
    nth (0, 0, 0) (storeElems c acc base stride rows 0 sat).1 (64 * i + j) = (base + i * stride + 4 * j, 4, (sget acc (c.tile * 2048 + 64 * i + j)).toNat)

/-- The steps of the copy engine, the tower base and the matrix engine: what each does to memory, scratchpad, the accumulators and its queue, and when a batch, a ticket or a command counts. It rests on the model's choices of log entries 54, 77, 107 and 130. -/
def Obligations.EngineSteps : Prop :=
  EngineWork.Copies ∧ EngineWork.Conversions ∧ EngineWork.Indexed ∧ EngineWork.LandingsAndFaults ∧ EngineWork.Matrix

/-- The Dispatcher judges headers, consumes records, starts grids, places and starts teams, and counts them off; a byte of a slot whose protocol is broken is its old or its new value (R338). It rests on the model's choices of log entries 84, 85 and 106. -/
def Obligations.DispatcherSteps : Prop :=
  (∀ (s : State) (c : Context) (q : Nat) (va : W64) (bs : List Byte) (i : Nat), i < bs.length →
    let b := nth 0 (s.looseBytes c q va bs) i
    b = nth 0 bs i ∨ b = nth 0 (s.slotBefore c q va bs.length) i ∨ b ∈ s.comingBytes c.entry.asid (va + BitVec.ofNat 64 i)) ∧
  (∀ (s : State) (asid : Nat) (x : QHeader) (va : W64), (s.protocolBroken asid x va = true ↔
    countDiff x.reserve x.head < countDiff x.tail x.head ∨ x.count < countDiff x.reserve x.head ∨
      ∃ i, i < 64 ∧ s.comingBytes asid (va + BitVec.ofNat 64 i) ≠ [])) ∧
  (∀ (s : State) (slot q : Nat) (c : Context) (b : Bool) (s1 : State) (x : QHeader), s.ctx? slot = some c → nth? c.queueValid q = some b → c.queueVa q ≠ 0 →
    s.readQueue c.entry.asid (c.queueVa q) = .ok (s1, x) →
    let judged (v : Bool) : State := s.modCtx slot fun y => { y with queueValid := modNth (fun _ => v) y.queueValid q }
    (x.valid = b → exec (.queueHeaderJudge slot q) s = .next s) ∧
    (x.valid = true → b = false → exec (.queueHeaderJudge slot q) s = .next (judged true)) ∧
    (x.valid = false → b = true → exec (.queueHeaderJudge slot q) s = .next ((judged false).postEvent slot 6 (c.queueVa q) (BitVec.ofNat 64 q) 0))) ∧
  (∀ (s : State) (slot q : Nat) (c : Context), s.ctx? slot = some c →
    let h := c.queueVa q
    (h = 0 ∨ c.phase ≠ .running ∨ c.enabled = false ∨ 64 ≤ (s.liveGrids slot).length → exec (.recordConsume slot q) s = .next s) ∧
    (h ≠ 0 → c.phase = .running → c.enabled = true → s.phase = .running → (s.liveGrids slot).length < 64 →
      ∀ s1 x, s.readQueue c.entry.asid h = .ok (s1, x) →
        let published := countDiff x.tail x.head ≠ 0 ∧ countDiff x.tail x.head < 2 ^ 63
        (x.valid = false ∨ x.enable = false ∨ ¬ published → exec (.recordConsume slot q) s = .next s) ∧
        (x.valid = true → x.enable = true → published → ∀ s2 bs s3 d rs e,
          let va := slotVa h x.count x.head
          s1.sysReadBlocks c.entry.asid va 4 = .ok (s2, bs) →
          let r := launchRecord (if s2.protocolBroken c.entry.asid x va then s2.looseBytes c q va bs else bs)
          s2.judgeRecord c.entry.asid r.1 r.2 = (s3, d, rs, e) →
          (s3.regionBusy c.entry.asid (h + 16) 8 = true → exec (.recordConsume slot q) s = .next s) ∧
          ∀ s4 t, s3.regionBusy c.entry.asid (h + 16) 8 = false →
            s3.sysWrite c.entry.asid (h + 16) 8 (BitVec.ofNat 128 ((x.head + 1) % 2 ^ 64)) 0 = .ok (s4, t) →
            let s5 := s4.modCtx slot fun y =>
              { y with queueValid := modNth (fun _ => true) y.queueValid q, slots := (q, va, bs) :: y.slots.filter fun w => !(w.1 == q && w.2.1 == va) }
            ∃ g, (g.record = r.1 ∧ g.desc = d ∧ g.ranges = rs ∧ g.phase = .waiting ∧ g.ctx = slot ∧ g.queue = q ∧ g.order = s5.grids.length ∧
                g.slot = va ∧ g.priority = (if g.record.priority = 255 then x.priority else g.record.priority) ∧ g.placed = 0 ∧ g.exited = 0) ∧
              (e = none → g.invalid = none ∧ exec (.recordConsume slot q) s = .next { s5 with grids := s5.grids ++ [g], free := s5.free + 1 }) ∧
              ∀ w, e = some w → g.invalid = some ⟨8, w, g.slot⟩ ∧
                exec (.recordConsume slot q) s = .next ({ s5 with grids := s5.grids ++ [g], free := s5.free + 1 }.launchFault g 8 w g.slot)))) ∧
  (∀ (s : State) (i : Nat) (g : Grid) (c : Context), nth? s.grids i = some g → s.ctx? g.ctx = some c →
    let ahead (x : Grid) : Prop := x.ctx = g.ctx ∧ x.queue = g.queue ∧ x.order < g.order ∧ gridsConflict x g = true
    let done (x : Grid) : Prop := x.phase = .finished ∧ ∀ t ∈ s.teams, t.grid = x.order → t.life = .exited
    ((g.phase ≠ .waiting ∨ (∃ x ∈ s.grids, ahead x ∧ ¬ done x) ∨ s.completionBusy g = true) → exec (.gridStart i) s = .next s) ∧
    (g.phase = .waiting → c.phase = .running → s.phase = .running → (∀ x ∈ s.grids, ahead x → done x) → s.completionBusy g = false →
      ∃ w, (∀ x ∈ s.grids, ahead x → x.wct ≤ w) ∧ (w = 0 ∨ ∃ x ∈ s.grids, ahead x ∧ x.wct = w) ∧
        let s0 := { s with grids := modNth (fun x => { x with waited := w }) s.grids i }
        (g.invalid ≠ none → exec (.gridStart i) s = .next (s0.completeGrid i true false)) ∧
        ∀ d, g.invalid = none → g.desc = some d →
          (g.record.total = 0 → exec (.gridStart i) s = .next (s0.completeGrid i false false)) ∧
          (∀ s1 bs, g.record.total ≠ 0 → s0.sysReadBytes c.entry.asid g.record.args d.argBytes = .ok (s1, bs) →
            exec (.gridStart i) s = .next { s1 with grids := modNth (fun x => { x with phase := .started, args := bs, code := s1.codeImage }) s1.grids i }) ∧
          ∀ e, g.record.total ≠ 0 → s0.sysReadBytes c.entry.asid g.record.args d.argBytes = .error e →
            let why := if e = 7 then 3 else 2
            exec (.gridStart i) s = .next ((({ s0 with grids := modNth (fun x => { x with invalid := some ⟨8, why, g.slot⟩ }) s0.grids i }).launchFault g 8 why g.slot).completeGrid
              i true false))) ∧
  (∀ (s : State) (i core : Nat) (g : Grid), nth? s.grids i = some g →
    (s.placing g = false ∨ s.blockedBy g = true ∨ (∃ x ∈ s.grids, x.before g = true ∧ s.admissible x = true) → exec (.teamPlacement i core) s = .next s) ∧
    (s.placing g = true → core < 256 → s.phase = .running → s.blockedBy g = false → (∀ x ∈ s.grids, x.before g = true → s.admissible x = false) →
      (g.coresident = false → s.placeTeam i core false = none → exec (.teamPlacement i core) s = .next s) ∧
      (g.coresident = true → s.placeGrid g = none → exec (.teamPlacement i core) s = .next s) ∧
      (∀ s1, g.coresident = true → s.placeGrid g = some s1 → exec (.teamPlacement i core) s = .next (s1.putSaveSize g.ctx)) ∧
      ∀ s1, g.coresident = false → s.placeTeam i core false = some s1 → exec (.teamPlacement i core) s = .next (s1.putSaveSize g.ctx) ∧
        ∃ t, s1.teams.getLast? = some t ∧ t.ctx = g.ctx ∧ t.grid = i ∧ t.core = core ∧ t.life = .placed ∧ (t.x, t.y, t.z) = g.record.teamAt g.placed)) ∧
  (∀ (s : State) (ti : Nat) (t : Team) (g : Grid), s.team? ti = some t → nth? s.grids t.grid = some g →
    (t.life ≠ .placed → exec (.teamStart ti) s = .next s) ∧
    (t.life = .placed → s.phase = .running → t.terminated = false → ∃ z, exec (.teamStart ti) s = .next z ∧ z.mem = s.mem ∧ z.sram = s.sram ∧
      z.team? ti = some { t with life := .running } ∧ (∀ i, i < s.units.length → z.unit? i = s.unit? i) ∧
      ∀ r0 r1 r2 : RoleDesc, t.desc.roles = [r0, r1, r2] → r0.width ≤ 64 → r1.width ≤ 64 → r2.width ≤ 64 →
        let n := s.units.length
        z.units.length = n + r0.groups + r1.groups + r2.groups ∧
        (∀ i, i < r0.groups → ∃ u, z.unit? (n + i) = some u ∧ u.Begins t g ti 0 i r0 (i * r0.width)) ∧
        (∀ i, i < r1.groups → ∃ u, z.unit? (n + r0.groups + i) = some u ∧ u.Begins t g ti 1 i r1 (r0.groups * r0.width + i * r1.width)) ∧
        ∀ i, i < r2.groups → ∃ u, z.unit? (n + r0.groups + r1.groups + i) = some u ∧
          u.Begins t g ti 2 i r2 (r0.groups * r0.width + r1.groups * r1.width + i * r2.width))) ∧
  ∀ (s : State) (ti : Nat) (t : Team) (g : Grid), s.team? ti = some t → nth? s.grids t.grid = some g →
    (s.hasExited ti t = false ∨ s.banksQuiet ti t = false ∨ s.completionBusy g = true → exec (.teamExited ti) s = .next s) ∧
    (s.hasExited ti t = true → s.banksQuiet ti t = true → s.completionBusy g = false → ∃ z y, exec (.teamExited ti) s = .next z ∧ z.team? ti = some y ∧ y.life = .exited ∧ y.banks = [] ∧ y.acc = [])

/-- Contexts are registered, enabled, saved, restored, killed and destroyed, and their teams with them; a command that finds its slot busy waits. It rests on the model's choices of log entries 22, 50, 51, 56 and 57. -/
def Obligations.ContextEvents : Prop :=
  (∀ (s : State) (ti : Nat) (t : Team) (c : Context), s.team? ti = some t → s.ctx? t.ctx = some c →
    (c.phase ≠ .saving ∨ t.terminated = true ∨ (t.life = .running ∧ s.atSavePoint ti t = false) → exec (.teamSave ti) s = .next s) ∧
    (c.phase = .saving → t.terminated = false → t.life = .running → s.atSavePoint ti t = true → s.MemoryOk → ∃ z x y, exec (.teamSave ti) s = .next z ∧
      x ∈ z.saved ∧ x.team = ti ∧ x.record = t ∧ x.cluster = clusterOf t.core ∧ x.gated = false ∧
      (∀ a, a < 2 ^ 20 → t.holds a = true → sget x.sram a = sget s.sram (sramKey (clusterOf t.core) a)) ∧
      z.team? ti = some y ∧ y.life = .saved ∧ y.banks = []) ∧
    (∀ x, c.phase = .saving → t.terminated = false → t.life = .gated → s.saved.find? (fun x => x.team == ti) = some x → ∃ z y w, exec (.teamSave ti) s = .next z ∧
      z.team? ti = some y ∧ y.life = .saved ∧ y.banks = t.banks ∧ w ∈ z.saved ∧ w = { x with gated := false, image := w.image } ∧ w.image ≠ none) ∧
    (∀ gated x, s.saved.find? (fun x => x.team == ti) = some x →
      let back (b : Bool) : Instr := if b then .powerGateRestore ti else .teamRestore ti
      (c.phase ≠ .running ∨ t.life ≠ .gated ∨ x.gated ≠ gated ∨ s.roomToRestore x = false → exec (back gated) s = .next s) ∧
      (c.phase = .running → t.life = .gated → x.gated = gated → t.terminated = false → s.phase = .running → s.roomToRestore x = true → s.MemoryOk → swf x.sram = true →
        x.cluster = clusterOf x.record.core → (∀ b ∈ x.record.banks, b.idx < 1024) → (∀ a y, (a, y) ∈ x.sram → x.record.holds a = true) →
        ∃ z y, exec (back gated) s = .next z ∧ z.team? ti = some y ∧ y.life = .running ∧ y.banks = x.record.banks ∧
          ∀ a, a < 2 ^ 20 → x.record.holds a = true → sget z.sram (sramKey x.cluster a) = sget (s.readBack x).2.sram a)) ∧
    (c.phase = .saving → t.liveAlloc = true → t.terminated = false →
      (s.now < c.deadline ∨ s.atSavePoint ti t = true → exec (.watchdogPreempt ti) s = .next s) ∧
      (c.deadline ≤ s.now → s.atSavePoint ti t = false → exec (.watchdogPreempt ti) s = .next (s.watchdogKill ti t 0))) ∧
    (s.stalled ti t = false ∨ s.inPlace ti t = false → exec (.watchdogStall ti) s = .next s) ∧
    (s.stalled ti t = true → c.phase = .running → s.inPlace ti t = true → t.terminated = false →
      let steps := (s.teamUnits ti).foldl (fun (n : Nat) (x : Nat × Machine.Unit) => n + x.2.step) 0
      let seen := exec (.watchdogStall ti) s = .next (s.modTeam ti fun x => { x with stallSince := some (s.now, steps) })
      (t.stallSince = none → seen) ∧
      ∀ since n, t.stallSince = some (since, n) → (n ≠ steps → seen) ∧
        (n = steps → s.now < since + c.entry.prelim * 1000 → exec (.watchdogStall ti) s = .next s) ∧
        (n = steps → since + c.entry.prelim * 1000 ≤ s.now → exec (.watchdogStall ti) s = .next (s.watchdogKill ti t 1)))) ∧
  (∀ (s : State) (core : Nat),
    let here (i : Nat) (t : Team) : Prop := s.team? i = some t ∧ t.core = core ∧ t.liveAlloc = true
    ((∀ i t, ¬ here i t) → exec (.powerGate core) s = .next s) ∧
    ((∃ i t, here i t ∧ s.atSavePoint i t = false) → exec (.powerGate core) s = .next s) ∧
    ((∃ i t, here i t) → (∀ i t, here i t → t.life = .running ∧ t.terminated = false ∧ s.atSavePoint i t = true ∧
        (∀ y ∈ s.teamUnits i, y.2.live = false ∨ y.2.wait.stalls = true ∨ ∃ f, y.2.frag = some f ∧ (f.joined = true ∨ f.exited = true)) ∧ ∃ c, s.ctx? t.ctx = some c ∧ c.phase = .running) →
      ∃ z, exec (.powerGate core) s = .next z ∧ ∀ i t, here i t → ∃ y, z.team? i = some y ∧ y.life = .gated ∧ y.banks = []) ∧
    (core < 256 → ∃ z, exec (.coreReset core) s = .next z ∧ ∀ i t, here i t → ∃ y, z.team? i = some y ∧ y.terminated = true ∧ y.banks = [] ∧ y.acc = [])) ∧
  (∀ (s : State) (x : SavedTeam),
    (x.image = none → s.readBack x = (s, x)) ∧
    ∀ home c k b j, x.image = some home → s.ctx? x.ctx = some c → swf x.sram = true → j < 1024 →
      let mine := x.record.banks.filter fun y => y.mode != .cache
      nth? mine k = some b → (∀ i y, nth? mine i = some y → y.idx = b.idx → i = k) →
        sget (s.readBack x).2.sram (b.idx * 1024 + j) =
          (s.imageByte c.entry.asid (home + BitVec.ofNat 64 (k * 1024 + j))).getD (sget x.sram (b.idx * 1024 + j))) ∧
  (∀ (s : State) (slot : Nat), slot < 256 → s.phase ≠ .stopped → (s.doorbell slot).status = 1 →
    let later (v : W64) : State := s.setDoorbell slot fun d => { d with waiting := d.waiting ++ [v] }
    (∀ pa, exec (.register slot pa) s = .next (later (BitVec.ofNat 64 (pa / 256 * 256 + 1)))) ∧
    exec (.enable slot) s = .next (later 2) ∧ exec (.disable slot) s = .next (later 3) ∧ exec (.preEmpt slot) s = .next (later 4) ∧
    exec (.restore slot) s = .next (later 5) ∧ exec (.kill slot) s = .next (later 6) ∧ exec (.destroy slot) s = .next (later 7) ∧
    ∀ v, commandLegal v = false → exec (.doorbellIllegalCommand slot v) s = .next (later v)) ∧
  (∀ (s : State) (slot pa : Nat), slot < 256 → s.phase ≠ .stopped → (s.doorbell slot).status ≠ 1 → s.ctx? slot = none →
    let r := ctxEntry ((List.range 256).map fun i => s.newestByte (pa + i))
    (s.phase ≠ .running ∨ r.2 = false ∨ (s.ctxOfAsid r.1.asid).isSome = true ∨ towerEnd < pa + 256 → exec (.register slot pa) s = .next (s.answer slot 2)) ∧
    (s.phase = .running → r.2 = true → s.ctxOfAsid r.1.asid = none → pa + 256 ≤ towerEnd → ∃ z y, exec (.register slot pa) s = .next z ∧
      z.ctx? slot = some y ∧ y.entry = r.1 ∧ y.phase = .running ∧ y.enabled = false ∧ (z.doorbell slot).status = 0) ∧
    exec (.enable slot) s = .next (s.answer slot 2) ∧ exec (.disable slot) s = .next (s.answer slot 2) ∧ exec (.preEmpt slot) s = .next (s.answer slot 2) ∧
    exec (.restore slot) s = .next (s.answer slot 2) ∧ exec (.kill slot) s = .next (s.answer slot 2) ∧ exec (.destroy slot) s = .next (s.answer slot 2)) ∧
  (∀ (s : State) (slot : Nat) (c : Context), slot < 256 → s.phase ≠ .stopped → (s.doorbell slot).status ≠ 1 → s.ctx? slot = some c →
    let done (i : Instr) (P : State → Context → Prop) : Prop := ∃ z y, exec i s = .next z ∧ z.ctx? slot = some y ∧ (z.doorbell slot).status = 0 ∧ P z y
    let d := s.doorbell slot
    (∀ pa, exec (.register slot pa) s = .next (s.answer slot 2)) ∧
    done (.enable slot) (fun _ y => y.enabled = true ∧ y.phase = (if c.phase = .killed then .running else c.phase)) ∧
    done (.disable slot) (fun z y => y = { c with enabled := false } ∧ z.mem = s.mem) ∧
    (c.phase ≠ .running → exec (.preEmpt slot) s = .next (s.answer slot 2)) ∧
    (c.phase = .running → d.saveArea.toNat % 4096 ≠ 0 ∨ d.saveSize.toNat < s.saveSize slot →
      exec (.preEmpt slot) s = .next ((s.postEvent slot 7 d.saveArea 1 0).answer slot 0)) ∧
    (c.phase = .running → d.saveArea.toNat % 4096 = 0 → s.saveSize slot ≤ d.saveSize.toNat →
      done (.preEmpt slot) fun _ y => (y.phase = .saving ∨ y.phase = .saved) ∧ y.saveBase = d.saveArea ∧ y.deadline = s.now + c.entry.prelim * 1000) ∧
    (c.phase ≠ .saved ∨ d.saveArea ≠ c.saveBase → exec (.restore slot) s = .next (s.answer slot 2)) ∧
    (c.phase = .saved → d.saveArea = c.saveBase → done (.restore slot) fun z y => y.phase = .running ∧
      ∀ i t, s.team? i = some t → t.ctx = slot → t.life = .saved → t.terminated = false → ∃ x, z.team? i = some x ∧ x.life = .gated) ∧
    (c.phase = .killed → exec (.kill slot) s = .next (s.answer slot 0)) ∧
    (c.phase ≠ .killed → exec (.kill slot) s = .next ((s.killContext slot).answer slot 0)) ∧
    (c.phase = .killed → s.translatedIn c.entry.asid 0 (2 ^ 57) = false →
      ∃ z, exec (.destroy slot) s = .next z ∧ z.ctx? slot = none ∧ (z.doorbell slot).status = 0 ∧ (∀ g ∈ z.signals, g.ctx ≠ slot) ∧ ∀ m ∈ z.msgs, m.ctx ≠ slot) ∧
    (∀ u q l, c.phase = .killed → u ∈ s.units → q ∈ u.reqs → l ∈ q.lanes → l.done = false → l.asid = c.entry.asid → l.va < 2 ^ 57 →
      (∀ t, s.team? u.team = some t → t.ctx ≠ slot) →
        ∃ z y, exec (.destroy slot) s = .next z ∧ z.ctx? slot = some y ∧ (z.doorbell slot).status = 1 ∧ (∀ g ∈ z.signals, g.ctx ≠ slot) ∧ ∀ m ∈ z.msgs, m.ctx ≠ slot)) ∧
  ∀ (s : State) (slot : Nat), slot < 256 → s.phase ≠ .stopped →
    (∀ v, (commandLegal v = false → (s.doorbell slot).status ≠ 1 → exec (.doorbellIllegalCommand slot v) s = .next (s.answer slot 3)) ∧
      (commandLegal v = true → exec (.doorbellIllegalCommand slot v) s = .next s)) ∧
    (∀ id, (∀ c, s.ctx? slot = some c → ∀ a ∈ c.awaiting, a.1 ≠ id) →
      exec (.faultResponseReplay slot id) s = .next s ∧ exec (.faultResponseDeliver slot id) s = .next s ∧ exec (.faultResponseTerminate slot id) s = .next s) ∧
    (∀ id c, s.ctx? slot = some c → c.phase = .saving →
      exec (.faultResponseReplay slot id) s = .next s ∧ exec (.faultResponseDeliver slot id) s = .next s ∧ exec (.faultResponseTerminate slot id) s = .next s) ∧
    ∀ id uid c u, s.ctx? slot = some c → c.phase ≠ .saving → c.awaiting.find? (fun a => a.1 == id) = some (id, uid) → s.unit? uid = some u →
      let s1 := s.modCtx slot fun x => { x with awaiting := x.awaiting.filter fun y => y.1 != id }
      exec (.faultResponseReplay slot id) s = .next (s1.setUnit uid { u with wait := if u.push.isSome then .lqPush else .none }) ∧
      (∀ a what, u.wait = .parked id a what →
        exec (.faultResponseDeliver slot id) s = .next ((s1.setUnit uid { u with push := none }).takeTrap uid 0x12 a 0)) ∧
      exec (.faultResponseTerminate slot id) s = .next (s1.endTeam u.team)

/-- The host reads and writes through the directory, and firmware runs the module. It rests on the model's choices of log entries 38, 39, 41, 42, 43, 112, 115 and 124. -/
def Obligations.HostAndModule : Prop :=
  (∀ (s : State) (pa len : Nat),
    (s.phase ≠ .running ∨ len = 0 ∨ 128 < pa % 128 + len ∨ towerEnd < pa + len → exec (.hostRead pa len) s = .next s) ∧
    (s.phase = .running → 0 < len → pa % 128 + len ≤ 128 → pa + len ≤ towerEnd → s.directory pa = none →
      exec (.hostRead pa len) s = .next { s with hostData := (List.range len).map fun i => sget s.mem (pa + i), free := s.free + 1 })) ∧
  (∀ (s : State) (pa : Nat) (bs : List Byte), s.phase = .running → 0 < bs.length → pa % 128 + bs.length ≤ 128 → pa + bs.length ≤ towerEnd →
    let last := (pa + bs.length - 1) / 4
    (s.sealedFrame (pa / 128 * 128) = true → ∃ n, exec (.hostWrite pa bs) s =
        .next { s with sealedDrops := n, hostWrites := s.hostWrites ++ [⟨0, 0, frontSlice pa⟩] } ∧
      (s.sealedDrops ≠ BitVec.allOnes 64 → n = s.sealedDrops + 1) ∧ (s.sealedDrops = BitVec.allOnes 64 → n = s.sealedDrops)) ∧
    (s.sealedFrame (pa / 128 * 128) = false → last = pa / 4 → s.hostHeld pa bs.length = true → ∃ w, w.host = some (pa, s.hostWrites.length) ∧ w.size = bs.length ∧
      w.data = BitVec.ofNat 128 (natOfBytes bs) ∧ w.poison = false ∧ exec (.hostWrite pa bs) s =
        .next { s with hostWrites := s.hostWrites ++ [⟨1, 0, frontSlice pa⟩], deferred := s.deferred ++ [w] }) ∧
    (s.sealedFrame (pa / 128 * 128) = false → s.readers = [] → (∀ v ∈ s.versions, v.pa / 4 < pa / 4 ∨ last < v.pa / 4) → (∀ w ∈ s.deferred, w.host = none) →
      (∀ b ∈ s.l2, b.attr.device = none → b.pa ≠ pa / 128 * 128) → s.MemoryOk → ∃ z h, exec (.hostWrite pa bs) s = .next z ∧
        z.sram = s.sram ∧ z.l2 = s.l2 ∧ z.deferred = s.deferred ∧ z.hostWrites = s.hostWrites ++ [h] ∧ h.held = 0 ∧ h.slice = frontSlice pa ∧
        (∀ i, i < bs.length → sget z.mem (pa + i) = nth 0 bs i) ∧ ∀ a, (a < pa ∨ pa + bs.length ≤ a) → sget z.mem a = sget s.mem a)) ∧
  (∀ (s : State) (k : Nat) (h : HostWrite), nth? s.hostWrites k = some h →
    (s.hostReturned k = true ↔ h.held = 0 ∧ (h.ctime = 0 ∨ s.passed (sliceClock h.slice) h.ctime = true))) ∧
  (∀ (s : State) (k part : Nat) (v : W64) (w : HostWindow), nth? s.windows k = some w → k < 16 → part < 4 → s.phase = .running →
    (∃ y, exec (.hostWindowWrite k part v) s = .next { s with windows := modNth (fun _ => y) s.windows k } ∧
      y = { (if part = 0 then { w with base := v } else if part = 1 then { w with len := v } else if part = 2 then { w with host := v } else { w with ctl := v &&& 3 })
        with since := s.seq }) ∧
    let off := 0x10000 + 32 * k + 8 * part
    (s.windowBusy k = true → s.hostRegister off = s) ∧
    (s.windowBusy k = false → (s.hostRegister off).hostData = bytesOf 8 (if part = 0 then w.base else if part = 1 then w.len else if part = 2 then w.host
      else if w.ok = true then w.ctl else w.ctl &&& 2).toNat)) ∧
  (∀ (s : State), s.phase ≠ .stopped → let reads (off : Nat) (v : W64) : Prop := (s.hostRegister off).hostData = bytesOf 8 v.toNat
    reads 0 s.identity ∧ reads 8 s.cap ∧ reads 0x10 s.sealedDrops ∧
    (∀ slot, slot < 256 → let a := 0x20000 + 64 * slot
      reads a 0 ∧ reads (a + 8) 0 ∧ reads (a + 0x10) (s.doorbell slot).saveArea ∧ reads (a + 0x18) (s.doorbell slot).saveSize ∧
      reads (a + 0x20) (BitVec.ofNat 64 (s.doorbell slot).status) ∧ reads (a + 0x28) 0 ∧ reads (a + 0x30) 0 ∧ reads (a + 0x38) 0) ∧
    ∀ off, s.hostRegister off = { s with hostData := (s.hostRegister off).hostData }) ∧
  (∀ (s : State) (off : Nat) (v : W64), s.phase ≠ .stopped → off % 8 = 0 →
    (∀ slot, slot < 256 → off = 0x20000 + 64 * slot + 0x10 → ∃ z, exec (.registerWrite off v) s = .next z ∧ z.mem = s.mem ∧ z.doorbell slot = { s.doorbell slot with saveArea := v }) ∧
    (∀ slot, slot < 256 → off = 0x20000 + 64 * slot + 0x18 → ∃ z, exec (.registerWrite off v) s = .next z ∧ z.mem = s.mem ∧ z.doorbell slot = { s.doorbell slot with saveSize := v }) ∧
    (0x30000 ≤ off → off < 0x31000 → s.MemoryOk → ∃ z, exec (.registerWrite off v) s = .next z ∧ z.mem = s.mem ∧
      (∀ i, i < 8 → sget z.mailbox (off - 0x30000 + i) = v.extractLsb' (8 * i) 8) ∧
      ∀ a, (a < off - 0x30000 ∨ off - 0x30000 + 8 ≤ a) → sget z.mailbox a = sget s.mailbox a) ∧
    (off < 0x10000 ∨ (0x31000 ≤ off ∧ off < 2 ^ 26) → exec (.registerWrite off v) s = .next s)) ∧
  (∀ (s : State) (p : LinkPolicy), s.phase = .running →
    (p.signed = false → exec (.linkPolicyWrite p) s = .next s) ∧
    (p.signed = true → exec (.linkPolicyWrite p) s = .next { s with linkAllow := p.allow, master := p.master })) ∧
  (∀ (s : State) (tower : Nat),
    (tower ∉ s.vacating → exec (.hostVacateReply tower) s = .next s) ∧
    (tower ∈ s.vacating → ∃ z, exec (.hostVacateReply tower) s = .next z ∧ tower ∈ z.vacated ∧ z = { s with vacated := z.vacated, vacating := s.vacating.erase tower })) ∧
  (∀ (s : State) (nonce : List Byte),
    (nonce.length ≠ 32 ∨ s.phase ≠ .running → exec (.attestationReport nonce) s = .next s) ∧
    (nonce.length = 32 → s.phase = .running → exec (.attestationReport nonce) s =
      .next { s with report := some { firmware := s.firmware.measure, config := s.config.measure, nonce := nonce, signer := s.identity } })) ∧
  (∀ (s : State) (slot : Nat) (key : BitVec 512),
    (64 ≤ slot ∨ s.phase ≠ .running → exec (.keyLoad ⟨slot, key⟩) s = .next s) ∧
    (slot < 64 → s.phase = .running → ∃ z, exec (.keyLoad ⟨slot, key⟩) s = .next z ∧ z = { s with keys := z.keys } ∧
      z.keyOf slot = some key ∧ ∀ k, k ≠ slot → z.keyOf k = s.keyOf k)) ∧
  (∀ (s : State) (fw : Firmware) (c : ConfigRecord), ∃ z, exec (.moduleReset fw c) s = .next z ∧ z.mem = [] ∧ z.units = [] ∧ z.teams = [] ∧ z.contexts = [] ∧ z.keys = [] ∧
    z.firmware = fw ∧ z.config = c ∧ z.identity = s.identity ∧ z.hostMem = s.hostMem ∧ z.linkAllow = [] ∧
    (c.rsaOk = true → c.slhOk = true → z.sparedRows = s.repairs.rows ∧ z.sparedLanes = s.repairs.lanes ∧
      (∀ x ∈ c.spares, x ∈ z.spareClusters) ∧ (∀ x ∈ s.repairs.spares, x ∈ z.spareClusters) ∧
      (∀ x ∈ c.retired, x ∈ z.retiredChannels) ∧ ∀ x ∈ s.repairs.channels, x ∈ z.retiredChannels) ∧
    (z.phase = .running ↔ c.rsaOk = true ∧ c.slhOk = true ∧ fw.rsaOk = true ∧ fw.slhOk = true ∧ c.minVersion ≤ fw.version) ∧ z.phase ≠ .stopped) ∧
  (∀ (s : State) (level : Nat), exec (.thermalThrottle level) s = .next { s with throttle := level }) ∧
  ∀ (s : State), ∃ z, exec .thermalShutdown s = .next z ∧ z.phase = .stopped ∧ (∀ p ∈ z.ports, p.up = false) ∧ z.mem = s.mem

/-- Errors are corrected, fetched again or marked; links count, acknowledge, replay, audit and train, and a home serves requests. It rests on the model's choices of log entries 30, 31, 35, 36, 45, 46, 47, 48, 101, 112, 120, 122 and 124. -/
def Obligations.ErrorsAndLinks : Prop :=
  (∀ (s : State), exec (.softError .corrected) s = .next { s with corrected := s.corrected + 1 } ∧
    (∃ z, exec (.softError .sliceState) s = .next z ∧ z = { s with phase := .stopped }) ∧
    (∀ site, s.errorLater site = true → exec (.softError site) s = .next s) ∧
    (∀ n, s.errorLater (.tower n) = false → ∃ z, exec (.softError (.tower n)) s = .next z ∧ z = { s with poisonMem := z.poisonMem } ∧ ∀ k, k ∈ z.poisonMem ↔ k = n ∨ k ∈ s.poisonMem) ∧
    (∀ uid u t, s.unit? uid = some u → s.team? u.team = some t → t.liveAlloc = true → t.terminated = false → exec (.softError (.register uid)) s =
      .next (s.terminate u.team (some uid) { kind := 5, cause := 0, access := 0, reason := 0, addr := 0, pc := u.pc.signExtend 64, lane := u.frag.map fun f => f.lane })) ∧
    (∀ ti t, s.team? ti = some t → t.liveAlloc = true → t.terminated = false → exec (.softError (.tile ti)) s =
      .next (s.terminate ti none { kind := 4, cause := 0, access := 0, reason := 7, addr := 0, pc := 0, lane := none })) ∧
    (∀ cluster a t m, s.errorLater (.sram cluster a) = false → s.bankAt cluster a = some (t, m) → m ≠ .cache → ∃ z, exec (.softError (.sram cluster a)) s = .next z ∧ z = { s with poisonSram := z.poisonSram } ∧
      ∀ k, k ∈ z.poisonSram ↔ k = sramKey cluster a / 4 ∨ k ∈ s.poisonSram) ∧
    (∀ core asid line w l, s.errorLater (.l1 core asid line w) = false → w < 32 → s.l1Line? core asid line = some l → ∃ z, exec (.softError (.l1 core asid line w)) s = .next z ∧ z.mem = s.mem ∧
      (l.dirty.getLsbD w = true → z.l1 = s.l1 ∧ (core, asid, line * 32 + w) ∈ z.poisonL1) ∧
      (l.dirty.getLsbD w = false → z.poisonL1 = s.poisonL1 ∧ ∃ y, z.l1Line? core asid line = some y ∧ y = { l with valid := y.valid } ∧ y.valid.getLsbD w = false)) ∧
    (∀ asid line w b, s.errorLater (.l2 asid line w) = false → w < 32 → s.l2Line? asid line = some b → ∃ z, exec (.softError (.l2 asid line w)) s = .next z ∧ z.mem = s.mem ∧
      (b.dirty.getLsbD w = true → z.l2 = s.l2 ∧ (asid, line * 32 + w) ∈ z.poisonL2) ∧
      (b.dirty.getLsbD w = false → (b.pa + 4 * w) / 32 ∉ s.poisonMem → swf b.data = true → z.poisonL2 = s.poisonL2 ∧
        ∃ y, z.l2Line? asid line = some y ∧ sget y.data w = s.keyWord b.attr.key (b.pa + 4 * w) ∧ ∀ i, i ≠ w → sget y.data i = sget b.data i)) ∧
    exec (.patrolScrub .corrected) s = exec (.softError .corrected) s ∧ exec (.patrolScrub .sliceState) s = .next s ∧
    (∀ u, exec (.patrolScrub (.register u)) s = .next s ∧ exec (.patrolScrub (.tile u)) s = .next s ∧
      exec (.patrolScrub (.tower u)) s = exec (.softError (.tower u)) s) ∧
    (∀ a b c d, exec (.patrolScrub (.sram a b)) s = exec (.softError (.sram a b)) s ∧ exec (.patrolScrub (.l1 a b c d)) s = exec (.softError (.l1 a b c d)) s ∧
      exec (.patrolScrub (.l2 a b c)) s = exec (.softError (.l2 a b c)) s)) ∧
  (∀ (s : State) (n : Nat),
    (n < 16 → exec (.rowSparing n) s =
      .next { s with sparedRows := s.sparedRows ++ [n], repairs := ⟨s.sparedRows ++ [n], s.sparedLanes, s.spareClusters, s.retiredChannels⟩ }) ∧
    (n < 12 → exec (.laneSparing n) s =
      .next { s with sparedLanes := s.sparedLanes ++ [n], repairs := ⟨s.sparedRows, s.sparedLanes ++ [n], s.spareClusters, s.retiredChannels⟩ }) ∧
    (n ∉ s.vacated → n ∈ s.vacating → exec (.pseudoChannelRetirement n) s = .next s) ∧
    (n < 16 → n ∉ s.vacated → n ∉ s.vacating → (s.retiredChannels.filter fun x => x == n).length < 63 → ∃ z, exec (.pseudoChannelRetirement n) s = .next z ∧
      z.vacating = n :: s.vacating ∧ z = { s with vacating := z.vacating, mailbox := z.mailbox, free := z.free }) ∧
    (n < 16 → n ∈ s.vacated → (s.retiredChannels.filter fun x => x == n).length < 63 → ∃ z, exec (.pseudoChannelRetirement n) s = .next z ∧
      z.retiredChannels = s.retiredChannels ++ [n] ∧ z.vacated = s.vacated.erase n ∧ z.repairs.channels = z.retiredChannels) ∧
    let spares := (s.spareClusters.filter fun x => x / 32 == n / 32).length
    (2 ≤ spares → exec (.clusterRetirement n) s = .next s) ∧
    (n < 128 → spares < 2 → (∀ i t, s.team? i = some t → clusterOf t.core = n → t.liveAlloc = true →
        t.life = .running ∧ t.terminated = false ∧ s.atSavePoint i t = true ∧ ∀ y ∈ s.teamUnits i, y.2.region = none) → ∃ z, exec (.clusterRetirement n) s = .next z ∧
      z.spareClusters = s.spareClusters ++ [n] ∧ z.repairs.spares = z.spareClusters ∧ z.teams = s.teams)) ∧
  (∀ (s : State) (port : Nat) (f : Flit), s.linkAllow = [] →
    exec (.dataFlit port f) s = .next s ∧ exec (.idleFlit port f) s = .next s ∧ exec (.retryRequest port f) s = .next s ∧ exec (.auditPoint port) s = .next s ∧
    exec (.audit port f) s = .next s ∧ exec (.resync port f) s = .next s ∧ exec (.timeSyncTimer port) s = .next s ∧ ∀ n, exec (.timeSync port ⟨f, n⟩) s = .next s) ∧
  (∀ (s : State) (port : Nat) (p : Port), nth? s.ports port = some p → s.phase = .running → s.linksAllowed = true → p.up = true → s.outbox = [] → p.queue = [] →
    let after (i : Instr) (P : Port → Prop) : Prop := ∃ q, exec i s = .next (s.setPort port q) ∧ P q
    let rest (f : Flit) : List Flit := p.replay.filter fun g => !seqUpTo g.seq f.ack
    let takes (f : Flit) (q : Port) : Prop := q.held = p.held + f.grant.toNat ∧ q.received = p.received + BitVec.ofNat 16 f.grant.toNat ∧ q.replay = rest f
    (∀ f, flitOk f = true → f.kind ≠ 0 → exec (.dataFlit port f) s = .next s) ∧
    (∀ f, flitOk f = true → f.kind = 0 → f.seq = p.ack + 1 → after (.dataFlit port f) fun q => takes f q ∧ q.ack = f.seq ∧ q.asked = false ∧
      (f.last = 0 → q.inbox = p.inbox ++ [f] ∧ q.occupied = p.occupied + 1)) ∧
    (∀ f, flitOk f = true → f.kind = 0 → f.seq ≠ p.ack + 1 → seqUpTo f.seq p.ack = true → after (.dataFlit port f) fun q => q = p) ∧
    (∀ f, flitOk f = true → f.kind = 0 → f.seq ≠ p.ack + 1 → p.asked = true → after (.dataFlit port f) fun q => q = p) ∧
    (∀ f, (flitOk f = false ∨ (f.kind = 0 ∧ f.seq ≠ p.ack + 1 ∧ seqUpTo f.seq p.ack = false ∧ p.asked = false)) →
      after (.dataFlit port f) fun q => q.ack = p.ack ∧ q.held = p.held ∧ q.replay = p.replay ∧ q.asked = true ∧
        ∃ g, q.toSend = p.toSend ++ [g] ∧ g.kind = 2 ∧ g.cls = 6 ∧ g.ack = p.ack ∧ flitOk g = true) ∧
    (∀ f, flitOk f = true → f.kind = 1 → p.asked = false → after (.idleFlit port f) fun q => takes f q ∧ q.ack = p.ack ∧ q.toSend = p.toSend) ∧
    (∀ f, flitOk f = true → f.kind = 2 → p.asked = false → after (.retryRequest port f) fun q => takes f q ∧ q.toSend = p.toSend ++ rest f ∧
      q.failed = (if (rest f).length < p.replay.length then 1 else p.failed + 1)) ∧
    (∀ f, flitOk f = true → p.asked = true → (f.kind = 1 → after (.idleFlit port f) fun q => q = p) ∧ (f.kind = 2 → after (.retryRequest port f) fun q => q = p) ∧
      (f.kind = 5 → ∀ n, after (.timeSync port ⟨f, n⟩) fun q => q = p)) ∧
    (p.sinceAudit < 4096 → exec (.auditPoint port) s = .next s) ∧
    (4096 ≤ p.sinceAudit → p.replay.length < 2048 → after (.auditPoint port) fun q => q.sinceAudit = 0 ∧ q.seq = p.seq + 1 ∧
      ∃ g, q.toSend = p.toSend ++ [g] ∧ q.replay = p.replay ++ [g] ∧ g.kind = 3 ∧ g.seq = p.seq + 1 ∧
        count16 g 0 = p.consumed.toNat ∧ count16 g 1 = p.held % 65536 ∧ count16 g 2 = p.received.toNat) ∧
    (∀ f, flitOk f = true → f.kind = 3 → f.seq = p.ack + 1 → p.total f = 64 → after (.audit port f) fun q => takes f q ∧ q.ack = f.seq ∧ q.toSend = p.toSend) ∧
    (∀ f, flitOk f = true → f.kind = 3 → f.seq = p.ack + 1 → p.total f ≠ 64 → (rest f).length < 2048 → after (.audit port f) fun q => q.ack = f.seq ∧
      q.seq = p.seq + 1 ∧ q.queue = [] ∧ ∃ g, q.toSend = p.toSend ++ [g] ∧ q.replay = rest f ++ [g] ∧ g.seq = p.seq + 1 ∧ g.kind = 4 ∧ g.grant = BitVec.ofNat 7 (64 - p.total f) ∧ count16 g 0 = p.total f - 64) ∧
    (∀ f, flitOk f = true → f.kind = 4 → f.seq = p.ack + 1 → after (.resync port f) fun q => q.held = p.held + f.grant.toNat - count16 f 0 ∧ q.ack = f.seq) ∧
    (∀ f n, flitOk f = true → f.kind = 5 → p.asked = false → ∃ q, takes f q ∧ q.ack = p.ack ∧ exec (.timeSync port ⟨f, n⟩) s =
      .next { s.setPort port q with lastSync := s.now, skew := if s.master = s.deviceId then s.skew else n }) ∧
    (∀ f n, flitOk f = false → after (.timeSync port ⟨f, n⟩) fun q => q.held = p.held ∧ q.replay = p.replay ∧ q.asked = true) ∧
    (after (.timeSyncTimer port) fun q => q.seq = p.seq ∧ ∃ g, q.toSend = p.toSend ++ [g] ∧ g.kind = 5 ∧ g.cls = 6) ∧
    (∀ ok, p.failed < 16 → exec (.linkRetrain port ok) s = .next s) ∧
    (16 ≤ p.failed → after (.linkRetrain port true) fun q => q = { p with failed := 0, asked := false, toSend := p.toSend ++ p.replay }) ∧
    (16 ≤ p.failed → exec (.linkRetrain port false) s = .next (s.linkDown port p)) ∧
    exec (.linkTraining port) s = .next s) ∧
  (∀ (s : State) (port : Nat) (p : Port), nth? s.ports port = some p → s.phase = .running → p.up = false → s.capMap.getLsbD (4 + port) = true →
    exec (.dataFlit port (p.flit 0 0 0 (1, 1) 0 [])) s = .next s ∧
    ∃ z q, exec (.linkTraining port) s = .next z ∧ nth? z.ports port = some q ∧ q.up = true ∧ q.held = 64 ∧ q.seq = 0 ∧ q.ack = 0 ∧ q.replay = [] ∧ q.consumed = 0 ∧
      q.received = 0 ∧ q.sent = 0 ∧ q.occupied = 0 ∧ q.freed = 0) ∧
  (∀ (s : State) (dev : Nat),
    (dev = s.deviceId → (∀ x ∈ s.outbox, x.cls ≠ 2) → exec (.deviceOutOfStep dev) s = .next { s with inStep := false }) ∧
    (dev ≠ s.deviceId → (∀ x ∈ s.outbox, x.dest = dev → x.cls ≠ 2) →
      ∃ z, exec (.deviceOutOfStep dev) s = .next z ∧ dev ∈ z.outOfStep ∧ z = { s with outOfStep := z.outOfStep }) ∧
    (dev ≠ s.deviceId → ∃ z, exec (.deviceOutOfStep dev) s = .next z ∧ z.outOfStep = dev :: s.outOfStep.erase dev) ∧
    (let near := s.skew ≤ 18 ∧ -18 ≤ s.skew ∧ s.ref ≤ s.now + 18 ∧ s.now ≤ s.ref + 18
     (dev = s.deviceId → near → exec (.deviceInStep dev) s = .next { s with inStep := true }) ∧
     (dev = s.deviceId → ¬ near → exec (.deviceInStep dev) s = .next s)) ∧
    (dev ≠ s.deviceId → exec (.deviceInStep dev) s = .next { s with outOfStep := s.outOfStep.erase dev })) ∧
  ∀ (s : State) (q : RemoteReq),
    (s.outOfStep.contains q.dev = true ∨ s.inStep = false ∨ s.linkAllow = [] ∨ (∀ p ∈ s.ports, p.up = true → p.peer ≠ q.dev) ∨ requestFormed q = false →
      exec (.remoteRequest q) s = .next s) ∧
    (q.kind = 4 → ∀ old, requestValue q old =
      some ((timelineWord (q.data.setWidth 64 &&& ~~~(1#64 <<< 63)) (q.data.getLsbD 63) (old.setWidth 64)).setWidth 128)) ∧
    (q.kind ≠ 4 → ∀ old, requestValue q old = (atomNew q.op q.ety old q.data (q.data2.setWidth 128)).1) ∧
    (s.phase = .running → s.linksAllowed = true → s.inStep = true → s.outOfStep.contains q.dev = false → (∃ p ∈ s.ports, p.up = true ∧ p.peer = q.dev) →
      requestFormed q = true →
      (s.exportWindow q = none → exec (.remoteRequest q) s = .next (s.reply q .refused 0 0 0)) ∧
      ∀ w, s.exportWindow q = some w →
        let a := (BitVec.ofNat 57 (w.va + (q.pa - w.pa))).signExtend 64
        let read := if q.unc = true then s.sysReadUnc w.asid a q.size else s.sysRead w.asid a q.size
        let free := s.regionBusy w.asid a q.size = false
        (∀ s1 d st, q.kind = 0 → read = .ok (s1, d, st) → exec (.remoteRequest q) s = .next (s1.reply q .done d st 0)) ∧
        (∀ e, q.kind = 0 → read = .error e → exec (.remoteRequest q) s = .next (s.refuseRemote q w a e)) ∧
        (∀ s1 t, q.kind = 1 → free →
          (if q.unc = true then s.sysWriteUnc w.asid a q.size q.data q.floor else s.sysWrite w.asid a q.size q.data q.floor) = .ok (s1, t) →
          exec (.remoteRequest q) s = .next (s1.reply q .done 0 0 t)) ∧
        (∀ s1 old st, q.kind ≠ 0 → q.kind ≠ 1 → q.kind ≠ 3 → free → s.sysRead w.asid a q.size = .ok (s1, old, st) →
          (requestValue q old = none → exec (.remoteRequest q) s = .next (s1.reply q .done old st 0)) ∧
          ∀ v s2 t, requestValue q old = some v → s1.sysWrite w.asid a q.size v q.floor = .ok (s2, t) →
            exec (.remoteRequest q) s = .next (s2.reply q .done old st t)) ∧
        (∀ m c, q.kind = 3 → s.ctx? w.ctx = some c → m.ctx = w.ctx → m.dest = some s.deviceId → m.va = va57 a → m.bytes = q.message → m.floor = q.floor →
          (s.globalRing m = .full → exec (.remoteRequest q) s = .next (s.reply q .ringFull 0 0 0)) ∧
          (s.globalRing m = .invalid → exec (.remoteRequest q) s = .next (s.reply q .ringInvalid 0 0 0)) ∧
          (∀ e, s.globalRing m = .fault e → exec (.remoteRequest q) s = .next ((s.homeRecord w.ctx 9 e a).reply q .ringInvalid 0 0 0)) ∧
          ∀ r, s.globalRing m = .ready r → s.ringBusy m c r = false →
            (∀ s1, s.fillSlot m c r = .ok s1 → exec (.remoteRequest q) s = .next (s1.reply q .done 0 0 0)) ∧
            ∀ e, s.fillSlot m c r = .error (some e) → ∃ b, exec (.remoteRequest q) s = .next ((s.homeRecord w.ctx 9 e b).reply q .retryLater 0 0 0)) ∧
        (s.refuseRemote q w a 7 = s.reply q .poisoned 0 0 0) ∧
        (∀ e, 7 < e → s.refuseRemote q w a e = s.reply q .refused 0 0 0) ∧
        (∀ e, e ≤ 6 → s.refuseRemote q w a e =
          (s.homeRecord w.ctx (if q.kind = 0 then 1 else if q.kind = 1 then 2 else if q.kind = 5 then 4 else 3) e a).reply q .refused 0 0 0) ∧
        (q.kind ≠ 0 → q.kind ≠ 3 → s.regionBusy w.asid a q.size = true → exec (.remoteRequest q) s = .next s))
end

