-- ==== Sys2Proof/Laws/State.lean ====
section
/-!
SUPPORT. What each shared update of the state does to each of its fields, one lemma a field, so that no proof unfolds a record update.
-/

namespace Sys2Proof.Machine

/-! `State.setUnit` -/

@[simp] theorem State.setUnit_agenda (s : State) (u : Nat) (x : Unit) : (s.setUnit u x).agenda = s.agenda := rfl

@[simp] theorem State.setUnit_focus (s : State) (u : Nat) (x : Unit) : (s.setUnit u x).focus = s.focus := rfl

@[simp] theorem State.setUnit_free (s : State) (u : Nat) (x : Unit) : (s.setUnit u x).free = s.free := rfl

@[simp] theorem State.setUnit_seq (s : State) (u : Nat) (x : Unit) : (s.setUnit u x).seq = s.seq := rfl

@[simp] theorem State.setUnit_tick (s : State) (u : Nat) (x : Unit) : (s.setUnit u x).tick = s.tick := rfl

@[simp] theorem State.setUnit_now (s : State) (u : Nat) (x : Unit) : (s.setUnit u x).now = s.now := rfl

@[simp] theorem State.setUnit_mem (s : State) (u : Nat) (x : Unit) : (s.setUnit u x).mem = s.mem := rfl

@[simp] theorem State.setUnit_hostMem (s : State) (u : Nat) (x : Unit) : (s.setUnit u x).hostMem = s.hostMem := rfl

@[simp] theorem State.setUnit_sram (s : State) (u : Nat) (x : Unit) : (s.setUnit u x).sram = s.sram := rfl

@[simp] theorem State.setUnit_zeroBanks (s : State) (u : Nat) (x : Unit) : (s.setUnit u x).zeroBanks = s.zeroBanks := rfl

@[simp] theorem State.setUnit_spStamp (s : State) (u : Nat) (x : Unit) : (s.setUnit u x).spStamp = s.spStamp := rfl

@[simp] theorem State.setUnit_homeCache (s : State) (u : Nat) (x : Unit) : (s.setUnit u x).homeCache = s.homeCache := rfl

@[simp] theorem State.setUnit_remaps (s : State) (u : Nat) (x : Unit) : (s.setUnit u x).remaps = s.remaps := rfl

@[simp] theorem State.setUnit_teams (s : State) (u : Nat) (x : Unit) : (s.setUnit u x).teams = s.teams := rfl

@[simp] theorem State.setUnit_grids (s : State) (u : Nat) (x : Unit) : (s.setUnit u x).grids = s.grids := rfl

@[simp] theorem State.setUnit_contexts (s : State) (u : Nat) (x : Unit) : (s.setUnit u x).contexts = s.contexts := rfl

@[simp] theorem State.setUnit_doorbells (s : State) (u : Nat) (x : Unit) : (s.setUnit u x).doorbells = s.doorbells := rfl

@[simp] theorem State.setUnit_l1 (s : State) (u : Nat) (x : Unit) : (s.setUnit u x).l1 = s.l1 := rfl

@[simp] theorem State.setUnit_l2 (s : State) (u : Nat) (x : Unit) : (s.setUnit u x).l2 = s.l2 := rfl

@[simp] theorem State.setUnit_recalls (s : State) (u : Nat) (x : Unit) : (s.setUnit u x).recalls = s.recalls := rfl

@[simp] theorem State.setUnit_evictedLease (s : State) (u : Nat) (x : Unit) : (s.setUnit u x).evictedLease = s.evictedLease := rfl

@[simp] theorem State.setUnit_evictedStamp (s : State) (u : Nat) (x : Unit) : (s.setUnit u x).evictedStamp = s.evictedStamp := rfl

@[simp] theorem State.setUnit_towerStamp (s : State) (u : Nat) (x : Unit) : (s.setUnit u x).towerStamp = s.towerStamp := rfl

@[simp] theorem State.setUnit_signals (s : State) (u : Nat) (x : Unit) : (s.setUnit u x).signals = s.signals := rfl

@[simp] theorem State.setUnit_batches (s : State) (u : Nat) (x : Unit) : (s.setUnit u x).batches = s.batches := rfl

@[simp] theorem State.setUnit_copies (s : State) (u : Nat) (x : Unit) : (s.setUnit u x).copies = s.copies := rfl

@[simp] theorem State.setUnit_gathers (s : State) (u : Nat) (x : Unit) : (s.setUnit u x).gathers = s.gathers := rfl

@[simp] theorem State.setUnit_versions (s : State) (u : Nat) (x : Unit) : (s.setUnit u x).versions = s.versions := rfl

@[simp] theorem State.setUnit_readers (s : State) (u : Nat) (x : Unit) : (s.setUnit u x).readers = s.readers := rfl

@[simp] theorem State.setUnit_edges (s : State) (u : Nat) (x : Unit) : (s.setUnit u x).edges = s.edges := rfl

@[simp] theorem State.setUnit_deferred (s : State) (u : Nat) (x : Unit) : (s.setUnit u x).deferred = s.deferred := rfl

@[simp] theorem State.setUnit_regions (s : State) (u : Nat) (x : Unit) : (s.setUnit u x).regions = s.regions := rfl

@[simp] theorem State.setUnit_regionCount (s : State) (u : Nat) (x : Unit) : (s.setUnit u x).regionCount = s.regionCount := rfl

@[simp] theorem State.setUnit_pubs (s : State) (u : Nat) (x : Unit) : (s.setUnit u x).pubs = s.pubs := rfl

@[simp] theorem State.setUnit_subs (s : State) (u : Nat) (x : Unit) : (s.setUnit u x).subs = s.subs := rfl

@[simp] theorem State.setUnit_msgs (s : State) (u : Nat) (x : Unit) : (s.setUnit u x).msgs = s.msgs := rfl

@[simp] theorem State.setUnit_saved (s : State) (u : Nat) (x : Unit) : (s.setUnit u x).saved = s.saved := rfl

@[simp] theorem State.setUnit_poisonMem (s : State) (u : Nat) (x : Unit) : (s.setUnit u x).poisonMem = s.poisonMem := rfl

@[simp] theorem State.setUnit_poisonSram (s : State) (u : Nat) (x : Unit) : (s.setUnit u x).poisonSram = s.poisonSram := rfl

@[simp] theorem State.setUnit_poisonL1 (s : State) (u : Nat) (x : Unit) : (s.setUnit u x).poisonL1 = s.poisonL1 := rfl

@[simp] theorem State.setUnit_poisonL2 (s : State) (u : Nat) (x : Unit) : (s.setUnit u x).poisonL2 = s.poisonL2 := rfl

@[simp] theorem State.setUnit_keys (s : State) (u : Nat) (x : Unit) : (s.setUnit u x).keys = s.keys := rfl

@[simp] theorem State.setUnit_lineKeys (s : State) (u : Nat) (x : Unit) : (s.setUnit u x).lineKeys = s.lineKeys := rfl

@[simp] theorem State.setUnit_retiredChannels (s : State) (u : Nat) (x : Unit) : (s.setUnit u x).retiredChannels = s.retiredChannels := rfl

@[simp] theorem State.setUnit_spareClusters (s : State) (u : Nat) (x : Unit) : (s.setUnit u x).spareClusters = s.spareClusters := rfl

@[simp] theorem State.setUnit_sparedRows (s : State) (u : Nat) (x : Unit) : (s.setUnit u x).sparedRows = s.sparedRows := rfl

@[simp] theorem State.setUnit_sparedLanes (s : State) (u : Nat) (x : Unit) : (s.setUnit u x).sparedLanes = s.sparedLanes := rfl

@[simp] theorem State.setUnit_vacated (s : State) (u : Nat) (x : Unit) : (s.setUnit u x).vacated = s.vacated := rfl

@[simp] theorem State.setUnit_ports (s : State) (u : Nat) (x : Unit) : (s.setUnit u x).ports = s.ports := rfl

@[simp] theorem State.setUnit_linkWindows (s : State) (u : Nat) (x : Unit) : (s.setUnit u x).linkWindows = s.linkWindows := rfl

@[simp] theorem State.setUnit_linkAllow (s : State) (u : Nat) (x : Unit) : (s.setUnit u x).linkAllow = s.linkAllow := rfl

@[simp] theorem State.setUnit_outOfStep (s : State) (u : Nat) (x : Unit) : (s.setUnit u x).outOfStep = s.outOfStep := rfl

@[simp] theorem State.setUnit_deviceId (s : State) (u : Nat) (x : Unit) : (s.setUnit u x).deviceId = s.deviceId := rfl

@[simp] theorem State.setUnit_master (s : State) (u : Nat) (x : Unit) : (s.setUnit u x).master = s.master := rfl

@[simp] theorem State.setUnit_inStep (s : State) (u : Nat) (x : Unit) : (s.setUnit u x).inStep = s.inStep := rfl

@[simp] theorem State.setUnit_windows (s : State) (u : Nat) (x : Unit) : (s.setUnit u x).windows = s.windows := rfl

@[simp] theorem State.setUnit_sealedDrops (s : State) (u : Nat) (x : Unit) : (s.setUnit u x).sealedDrops = s.sealedDrops := rfl

@[simp] theorem State.setUnit_mailbox (s : State) (u : Nat) (x : Unit) : (s.setUnit u x).mailbox = s.mailbox := rfl

@[simp] theorem State.setUnit_identity (s : State) (u : Nat) (x : Unit) : (s.setUnit u x).identity = s.identity := rfl

@[simp] theorem State.setUnit_capMap (s : State) (u : Nat) (x : Unit) : (s.setUnit u x).capMap = s.capMap := rfl

@[simp] theorem State.setUnit_phase (s : State) (u : Nat) (x : Unit) : (s.setUnit u x).phase = s.phase := rfl

@[simp] theorem State.setUnit_firmware (s : State) (u : Nat) (x : Unit) : (s.setUnit u x).firmware = s.firmware := rfl

@[simp] theorem State.setUnit_config (s : State) (u : Nat) (x : Unit) : (s.setUnit u x).config = s.config := rfl

@[simp] theorem State.setUnit_throttle (s : State) (u : Nat) (x : Unit) : (s.setUnit u x).throttle = s.throttle := rfl

@[simp] theorem State.setUnit_cycles (s : State) (u : Nat) (x : Unit) : (s.setUnit u x).cycles = s.cycles := rfl

@[simp] theorem State.setUnit_corrected (s : State) (u : Nat) (x : Unit) : (s.setUnit u x).corrected = s.corrected := rfl

@[simp] theorem State.setUnit_outbox (s : State) (u : Nat) (x : Unit) : (s.setUnit u x).outbox = s.outbox := rfl

@[simp] theorem State.setUnit_replies (s : State) (u : Nat) (x : Unit) : (s.setUnit u x).replies = s.replies := rfl

@[simp] theorem State.setUnit_hostData (s : State) (u : Nat) (x : Unit) : (s.setUnit u x).hostData = s.hostData := rfl

@[simp] theorem State.setUnit_report (s : State) (u : Nat) (x : Unit) : (s.setUnit u x).report = s.report := rfl

@[simp] theorem State.setUnit_skew (s : State) (u : Nat) (x : Unit) : (s.setUnit u x).skew = s.skew := rfl

@[simp] theorem State.setUnit_lastSync (s : State) (u : Nat) (x : Unit) : (s.setUnit u x).lastSync = s.lastSync := rfl

@[simp] theorem State.setUnit_ref (s : State) (u : Nat) (x : Unit) : (s.setUnit u x).ref = s.ref := rfl

@[simp] theorem State.setUnit_vacating (s : State) (u : Nat) (x : Unit) : (s.setUnit u x).vacating = s.vacating := rfl

@[simp] theorem State.setUnit_repairs (s : State) (u : Nat) (x : Unit) : (s.setUnit u x).repairs = s.repairs := rfl

@[simp] theorem State.setUnit_hostWrites (s : State) (u : Nat) (x : Unit) : (s.setUnit u x).hostWrites = s.hostWrites := rfl

/-! `State.modUnit` -/

@[simp] theorem State.modUnit_agenda (s : State) (u : Nat) (f : Unit → Unit) : (s.modUnit u f).agenda = s.agenda := rfl

@[simp] theorem State.modUnit_focus (s : State) (u : Nat) (f : Unit → Unit) : (s.modUnit u f).focus = s.focus := rfl

@[simp] theorem State.modUnit_free (s : State) (u : Nat) (f : Unit → Unit) : (s.modUnit u f).free = s.free := rfl

@[simp] theorem State.modUnit_seq (s : State) (u : Nat) (f : Unit → Unit) : (s.modUnit u f).seq = s.seq := rfl

@[simp] theorem State.modUnit_tick (s : State) (u : Nat) (f : Unit → Unit) : (s.modUnit u f).tick = s.tick := rfl

@[simp] theorem State.modUnit_now (s : State) (u : Nat) (f : Unit → Unit) : (s.modUnit u f).now = s.now := rfl

@[simp] theorem State.modUnit_mem (s : State) (u : Nat) (f : Unit → Unit) : (s.modUnit u f).mem = s.mem := rfl

@[simp] theorem State.modUnit_hostMem (s : State) (u : Nat) (f : Unit → Unit) : (s.modUnit u f).hostMem = s.hostMem := rfl

@[simp] theorem State.modUnit_sram (s : State) (u : Nat) (f : Unit → Unit) : (s.modUnit u f).sram = s.sram := rfl

@[simp] theorem State.modUnit_zeroBanks (s : State) (u : Nat) (f : Unit → Unit) : (s.modUnit u f).zeroBanks = s.zeroBanks := rfl

@[simp] theorem State.modUnit_spStamp (s : State) (u : Nat) (f : Unit → Unit) : (s.modUnit u f).spStamp = s.spStamp := rfl

@[simp] theorem State.modUnit_homeCache (s : State) (u : Nat) (f : Unit → Unit) : (s.modUnit u f).homeCache = s.homeCache := rfl

@[simp] theorem State.modUnit_remaps (s : State) (u : Nat) (f : Unit → Unit) : (s.modUnit u f).remaps = s.remaps := rfl

@[simp] theorem State.modUnit_teams (s : State) (u : Nat) (f : Unit → Unit) : (s.modUnit u f).teams = s.teams := rfl

@[simp] theorem State.modUnit_grids (s : State) (u : Nat) (f : Unit → Unit) : (s.modUnit u f).grids = s.grids := rfl

@[simp] theorem State.modUnit_contexts (s : State) (u : Nat) (f : Unit → Unit) : (s.modUnit u f).contexts = s.contexts := rfl

@[simp] theorem State.modUnit_doorbells (s : State) (u : Nat) (f : Unit → Unit) : (s.modUnit u f).doorbells = s.doorbells := rfl

@[simp] theorem State.modUnit_l1 (s : State) (u : Nat) (f : Unit → Unit) : (s.modUnit u f).l1 = s.l1 := rfl

@[simp] theorem State.modUnit_l2 (s : State) (u : Nat) (f : Unit → Unit) : (s.modUnit u f).l2 = s.l2 := rfl

@[simp] theorem State.modUnit_recalls (s : State) (u : Nat) (f : Unit → Unit) : (s.modUnit u f).recalls = s.recalls := rfl

@[simp] theorem State.modUnit_evictedLease (s : State) (u : Nat) (f : Unit → Unit) : (s.modUnit u f).evictedLease = s.evictedLease := rfl

@[simp] theorem State.modUnit_evictedStamp (s : State) (u : Nat) (f : Unit → Unit) : (s.modUnit u f).evictedStamp = s.evictedStamp := rfl

@[simp] theorem State.modUnit_towerStamp (s : State) (u : Nat) (f : Unit → Unit) : (s.modUnit u f).towerStamp = s.towerStamp := rfl

@[simp] theorem State.modUnit_signals (s : State) (u : Nat) (f : Unit → Unit) : (s.modUnit u f).signals = s.signals := rfl

@[simp] theorem State.modUnit_batches (s : State) (u : Nat) (f : Unit → Unit) : (s.modUnit u f).batches = s.batches := rfl

@[simp] theorem State.modUnit_copies (s : State) (u : Nat) (f : Unit → Unit) : (s.modUnit u f).copies = s.copies := rfl

@[simp] theorem State.modUnit_gathers (s : State) (u : Nat) (f : Unit → Unit) : (s.modUnit u f).gathers = s.gathers := rfl

@[simp] theorem State.modUnit_versions (s : State) (u : Nat) (f : Unit → Unit) : (s.modUnit u f).versions = s.versions := rfl

@[simp] theorem State.modUnit_readers (s : State) (u : Nat) (f : Unit → Unit) : (s.modUnit u f).readers = s.readers := rfl

@[simp] theorem State.modUnit_edges (s : State) (u : Nat) (f : Unit → Unit) : (s.modUnit u f).edges = s.edges := rfl

@[simp] theorem State.modUnit_deferred (s : State) (u : Nat) (f : Unit → Unit) : (s.modUnit u f).deferred = s.deferred := rfl

@[simp] theorem State.modUnit_regions (s : State) (u : Nat) (f : Unit → Unit) : (s.modUnit u f).regions = s.regions := rfl

@[simp] theorem State.modUnit_regionCount (s : State) (u : Nat) (f : Unit → Unit) : (s.modUnit u f).regionCount = s.regionCount := rfl

@[simp] theorem State.modUnit_pubs (s : State) (u : Nat) (f : Unit → Unit) : (s.modUnit u f).pubs = s.pubs := rfl

@[simp] theorem State.modUnit_subs (s : State) (u : Nat) (f : Unit → Unit) : (s.modUnit u f).subs = s.subs := rfl

@[simp] theorem State.modUnit_msgs (s : State) (u : Nat) (f : Unit → Unit) : (s.modUnit u f).msgs = s.msgs := rfl

@[simp] theorem State.modUnit_saved (s : State) (u : Nat) (f : Unit → Unit) : (s.modUnit u f).saved = s.saved := rfl

@[simp] theorem State.modUnit_poisonMem (s : State) (u : Nat) (f : Unit → Unit) : (s.modUnit u f).poisonMem = s.poisonMem := rfl

@[simp] theorem State.modUnit_poisonSram (s : State) (u : Nat) (f : Unit → Unit) : (s.modUnit u f).poisonSram = s.poisonSram := rfl

@[simp] theorem State.modUnit_poisonL1 (s : State) (u : Nat) (f : Unit → Unit) : (s.modUnit u f).poisonL1 = s.poisonL1 := rfl

@[simp] theorem State.modUnit_poisonL2 (s : State) (u : Nat) (f : Unit → Unit) : (s.modUnit u f).poisonL2 = s.poisonL2 := rfl

@[simp] theorem State.modUnit_keys (s : State) (u : Nat) (f : Unit → Unit) : (s.modUnit u f).keys = s.keys := rfl

@[simp] theorem State.modUnit_lineKeys (s : State) (u : Nat) (f : Unit → Unit) : (s.modUnit u f).lineKeys = s.lineKeys := rfl

@[simp] theorem State.modUnit_retiredChannels (s : State) (u : Nat) (f : Unit → Unit) : (s.modUnit u f).retiredChannels = s.retiredChannels := rfl

@[simp] theorem State.modUnit_spareClusters (s : State) (u : Nat) (f : Unit → Unit) : (s.modUnit u f).spareClusters = s.spareClusters := rfl

@[simp] theorem State.modUnit_sparedRows (s : State) (u : Nat) (f : Unit → Unit) : (s.modUnit u f).sparedRows = s.sparedRows := rfl

@[simp] theorem State.modUnit_sparedLanes (s : State) (u : Nat) (f : Unit → Unit) : (s.modUnit u f).sparedLanes = s.sparedLanes := rfl

@[simp] theorem State.modUnit_vacated (s : State) (u : Nat) (f : Unit → Unit) : (s.modUnit u f).vacated = s.vacated := rfl

@[simp] theorem State.modUnit_ports (s : State) (u : Nat) (f : Unit → Unit) : (s.modUnit u f).ports = s.ports := rfl

@[simp] theorem State.modUnit_linkWindows (s : State) (u : Nat) (f : Unit → Unit) : (s.modUnit u f).linkWindows = s.linkWindows := rfl

@[simp] theorem State.modUnit_linkAllow (s : State) (u : Nat) (f : Unit → Unit) : (s.modUnit u f).linkAllow = s.linkAllow := rfl

@[simp] theorem State.modUnit_outOfStep (s : State) (u : Nat) (f : Unit → Unit) : (s.modUnit u f).outOfStep = s.outOfStep := rfl

@[simp] theorem State.modUnit_deviceId (s : State) (u : Nat) (f : Unit → Unit) : (s.modUnit u f).deviceId = s.deviceId := rfl

@[simp] theorem State.modUnit_master (s : State) (u : Nat) (f : Unit → Unit) : (s.modUnit u f).master = s.master := rfl

@[simp] theorem State.modUnit_inStep (s : State) (u : Nat) (f : Unit → Unit) : (s.modUnit u f).inStep = s.inStep := rfl

@[simp] theorem State.modUnit_windows (s : State) (u : Nat) (f : Unit → Unit) : (s.modUnit u f).windows = s.windows := rfl

@[simp] theorem State.modUnit_sealedDrops (s : State) (u : Nat) (f : Unit → Unit) : (s.modUnit u f).sealedDrops = s.sealedDrops := rfl

@[simp] theorem State.modUnit_mailbox (s : State) (u : Nat) (f : Unit → Unit) : (s.modUnit u f).mailbox = s.mailbox := rfl

@[simp] theorem State.modUnit_identity (s : State) (u : Nat) (f : Unit → Unit) : (s.modUnit u f).identity = s.identity := rfl

@[simp] theorem State.modUnit_capMap (s : State) (u : Nat) (f : Unit → Unit) : (s.modUnit u f).capMap = s.capMap := rfl

@[simp] theorem State.modUnit_phase (s : State) (u : Nat) (f : Unit → Unit) : (s.modUnit u f).phase = s.phase := rfl

@[simp] theorem State.modUnit_firmware (s : State) (u : Nat) (f : Unit → Unit) : (s.modUnit u f).firmware = s.firmware := rfl

@[simp] theorem State.modUnit_config (s : State) (u : Nat) (f : Unit → Unit) : (s.modUnit u f).config = s.config := rfl

@[simp] theorem State.modUnit_throttle (s : State) (u : Nat) (f : Unit → Unit) : (s.modUnit u f).throttle = s.throttle := rfl

@[simp] theorem State.modUnit_cycles (s : State) (u : Nat) (f : Unit → Unit) : (s.modUnit u f).cycles = s.cycles := rfl

@[simp] theorem State.modUnit_corrected (s : State) (u : Nat) (f : Unit → Unit) : (s.modUnit u f).corrected = s.corrected := rfl

@[simp] theorem State.modUnit_outbox (s : State) (u : Nat) (f : Unit → Unit) : (s.modUnit u f).outbox = s.outbox := rfl

@[simp] theorem State.modUnit_replies (s : State) (u : Nat) (f : Unit → Unit) : (s.modUnit u f).replies = s.replies := rfl

@[simp] theorem State.modUnit_hostData (s : State) (u : Nat) (f : Unit → Unit) : (s.modUnit u f).hostData = s.hostData := rfl

@[simp] theorem State.modUnit_report (s : State) (u : Nat) (f : Unit → Unit) : (s.modUnit u f).report = s.report := rfl

@[simp] theorem State.modUnit_skew (s : State) (u : Nat) (f : Unit → Unit) : (s.modUnit u f).skew = s.skew := rfl

@[simp] theorem State.modUnit_lastSync (s : State) (u : Nat) (f : Unit → Unit) : (s.modUnit u f).lastSync = s.lastSync := rfl

@[simp] theorem State.modUnit_ref (s : State) (u : Nat) (f : Unit → Unit) : (s.modUnit u f).ref = s.ref := rfl

@[simp] theorem State.modUnit_vacating (s : State) (u : Nat) (f : Unit → Unit) : (s.modUnit u f).vacating = s.vacating := rfl

@[simp] theorem State.modUnit_repairs (s : State) (u : Nat) (f : Unit → Unit) : (s.modUnit u f).repairs = s.repairs := rfl

@[simp] theorem State.modUnit_hostWrites (s : State) (u : Nat) (f : Unit → Unit) : (s.modUnit u f).hostWrites = s.hostWrites := rfl

/-! `State.modTeam` -/

@[simp] theorem State.modTeam_agenda (s : State) (i : Nat) (f : Team → Team) : (s.modTeam i f).agenda = s.agenda := rfl

@[simp] theorem State.modTeam_focus (s : State) (i : Nat) (f : Team → Team) : (s.modTeam i f).focus = s.focus := rfl

@[simp] theorem State.modTeam_free (s : State) (i : Nat) (f : Team → Team) : (s.modTeam i f).free = s.free := rfl

@[simp] theorem State.modTeam_seq (s : State) (i : Nat) (f : Team → Team) : (s.modTeam i f).seq = s.seq := rfl

@[simp] theorem State.modTeam_tick (s : State) (i : Nat) (f : Team → Team) : (s.modTeam i f).tick = s.tick := rfl

@[simp] theorem State.modTeam_now (s : State) (i : Nat) (f : Team → Team) : (s.modTeam i f).now = s.now := rfl

@[simp] theorem State.modTeam_mem (s : State) (i : Nat) (f : Team → Team) : (s.modTeam i f).mem = s.mem := rfl

@[simp] theorem State.modTeam_hostMem (s : State) (i : Nat) (f : Team → Team) : (s.modTeam i f).hostMem = s.hostMem := rfl

@[simp] theorem State.modTeam_sram (s : State) (i : Nat) (f : Team → Team) : (s.modTeam i f).sram = s.sram := rfl

@[simp] theorem State.modTeam_zeroBanks (s : State) (i : Nat) (f : Team → Team) : (s.modTeam i f).zeroBanks = s.zeroBanks := rfl

@[simp] theorem State.modTeam_spStamp (s : State) (i : Nat) (f : Team → Team) : (s.modTeam i f).spStamp = s.spStamp := rfl

@[simp] theorem State.modTeam_homeCache (s : State) (i : Nat) (f : Team → Team) : (s.modTeam i f).homeCache = s.homeCache := rfl

@[simp] theorem State.modTeam_remaps (s : State) (i : Nat) (f : Team → Team) : (s.modTeam i f).remaps = s.remaps := rfl

@[simp] theorem State.modTeam_units (s : State) (i : Nat) (f : Team → Team) : (s.modTeam i f).units = s.units := rfl

@[simp] theorem State.modTeam_grids (s : State) (i : Nat) (f : Team → Team) : (s.modTeam i f).grids = s.grids := rfl

@[simp] theorem State.modTeam_contexts (s : State) (i : Nat) (f : Team → Team) : (s.modTeam i f).contexts = s.contexts := rfl

@[simp] theorem State.modTeam_doorbells (s : State) (i : Nat) (f : Team → Team) : (s.modTeam i f).doorbells = s.doorbells := rfl

@[simp] theorem State.modTeam_l1 (s : State) (i : Nat) (f : Team → Team) : (s.modTeam i f).l1 = s.l1 := rfl

@[simp] theorem State.modTeam_l2 (s : State) (i : Nat) (f : Team → Team) : (s.modTeam i f).l2 = s.l2 := rfl

@[simp] theorem State.modTeam_recalls (s : State) (i : Nat) (f : Team → Team) : (s.modTeam i f).recalls = s.recalls := rfl

@[simp] theorem State.modTeam_evictedLease (s : State) (i : Nat) (f : Team → Team) : (s.modTeam i f).evictedLease = s.evictedLease := rfl

@[simp] theorem State.modTeam_evictedStamp (s : State) (i : Nat) (f : Team → Team) : (s.modTeam i f).evictedStamp = s.evictedStamp := rfl

@[simp] theorem State.modTeam_towerStamp (s : State) (i : Nat) (f : Team → Team) : (s.modTeam i f).towerStamp = s.towerStamp := rfl

@[simp] theorem State.modTeam_signals (s : State) (i : Nat) (f : Team → Team) : (s.modTeam i f).signals = s.signals := rfl

@[simp] theorem State.modTeam_batches (s : State) (i : Nat) (f : Team → Team) : (s.modTeam i f).batches = s.batches := rfl

@[simp] theorem State.modTeam_copies (s : State) (i : Nat) (f : Team → Team) : (s.modTeam i f).copies = s.copies := rfl

@[simp] theorem State.modTeam_gathers (s : State) (i : Nat) (f : Team → Team) : (s.modTeam i f).gathers = s.gathers := rfl

@[simp] theorem State.modTeam_versions (s : State) (i : Nat) (f : Team → Team) : (s.modTeam i f).versions = s.versions := rfl

@[simp] theorem State.modTeam_readers (s : State) (i : Nat) (f : Team → Team) : (s.modTeam i f).readers = s.readers := rfl

@[simp] theorem State.modTeam_edges (s : State) (i : Nat) (f : Team → Team) : (s.modTeam i f).edges = s.edges := rfl

@[simp] theorem State.modTeam_deferred (s : State) (i : Nat) (f : Team → Team) : (s.modTeam i f).deferred = s.deferred := rfl

@[simp] theorem State.modTeam_regions (s : State) (i : Nat) (f : Team → Team) : (s.modTeam i f).regions = s.regions := rfl

@[simp] theorem State.modTeam_regionCount (s : State) (i : Nat) (f : Team → Team) : (s.modTeam i f).regionCount = s.regionCount := rfl

@[simp] theorem State.modTeam_pubs (s : State) (i : Nat) (f : Team → Team) : (s.modTeam i f).pubs = s.pubs := rfl

@[simp] theorem State.modTeam_subs (s : State) (i : Nat) (f : Team → Team) : (s.modTeam i f).subs = s.subs := rfl

@[simp] theorem State.modTeam_msgs (s : State) (i : Nat) (f : Team → Team) : (s.modTeam i f).msgs = s.msgs := rfl

@[simp] theorem State.modTeam_saved (s : State) (i : Nat) (f : Team → Team) : (s.modTeam i f).saved = s.saved := rfl

@[simp] theorem State.modTeam_poisonMem (s : State) (i : Nat) (f : Team → Team) : (s.modTeam i f).poisonMem = s.poisonMem := rfl

@[simp] theorem State.modTeam_poisonSram (s : State) (i : Nat) (f : Team → Team) : (s.modTeam i f).poisonSram = s.poisonSram := rfl

@[simp] theorem State.modTeam_poisonL1 (s : State) (i : Nat) (f : Team → Team) : (s.modTeam i f).poisonL1 = s.poisonL1 := rfl

@[simp] theorem State.modTeam_poisonL2 (s : State) (i : Nat) (f : Team → Team) : (s.modTeam i f).poisonL2 = s.poisonL2 := rfl

@[simp] theorem State.modTeam_keys (s : State) (i : Nat) (f : Team → Team) : (s.modTeam i f).keys = s.keys := rfl

@[simp] theorem State.modTeam_lineKeys (s : State) (i : Nat) (f : Team → Team) : (s.modTeam i f).lineKeys = s.lineKeys := rfl

@[simp] theorem State.modTeam_retiredChannels (s : State) (i : Nat) (f : Team → Team) : (s.modTeam i f).retiredChannels = s.retiredChannels := rfl

@[simp] theorem State.modTeam_spareClusters (s : State) (i : Nat) (f : Team → Team) : (s.modTeam i f).spareClusters = s.spareClusters := rfl

@[simp] theorem State.modTeam_sparedRows (s : State) (i : Nat) (f : Team → Team) : (s.modTeam i f).sparedRows = s.sparedRows := rfl

@[simp] theorem State.modTeam_sparedLanes (s : State) (i : Nat) (f : Team → Team) : (s.modTeam i f).sparedLanes = s.sparedLanes := rfl

@[simp] theorem State.modTeam_vacated (s : State) (i : Nat) (f : Team → Team) : (s.modTeam i f).vacated = s.vacated := rfl

@[simp] theorem State.modTeam_ports (s : State) (i : Nat) (f : Team → Team) : (s.modTeam i f).ports = s.ports := rfl

@[simp] theorem State.modTeam_linkWindows (s : State) (i : Nat) (f : Team → Team) : (s.modTeam i f).linkWindows = s.linkWindows := rfl

@[simp] theorem State.modTeam_linkAllow (s : State) (i : Nat) (f : Team → Team) : (s.modTeam i f).linkAllow = s.linkAllow := rfl

@[simp] theorem State.modTeam_outOfStep (s : State) (i : Nat) (f : Team → Team) : (s.modTeam i f).outOfStep = s.outOfStep := rfl

@[simp] theorem State.modTeam_deviceId (s : State) (i : Nat) (f : Team → Team) : (s.modTeam i f).deviceId = s.deviceId := rfl

@[simp] theorem State.modTeam_master (s : State) (i : Nat) (f : Team → Team) : (s.modTeam i f).master = s.master := rfl

@[simp] theorem State.modTeam_inStep (s : State) (i : Nat) (f : Team → Team) : (s.modTeam i f).inStep = s.inStep := rfl

@[simp] theorem State.modTeam_windows (s : State) (i : Nat) (f : Team → Team) : (s.modTeam i f).windows = s.windows := rfl

@[simp] theorem State.modTeam_sealedDrops (s : State) (i : Nat) (f : Team → Team) : (s.modTeam i f).sealedDrops = s.sealedDrops := rfl

@[simp] theorem State.modTeam_mailbox (s : State) (i : Nat) (f : Team → Team) : (s.modTeam i f).mailbox = s.mailbox := rfl

@[simp] theorem State.modTeam_identity (s : State) (i : Nat) (f : Team → Team) : (s.modTeam i f).identity = s.identity := rfl

@[simp] theorem State.modTeam_capMap (s : State) (i : Nat) (f : Team → Team) : (s.modTeam i f).capMap = s.capMap := rfl

@[simp] theorem State.modTeam_phase (s : State) (i : Nat) (f : Team → Team) : (s.modTeam i f).phase = s.phase := rfl

@[simp] theorem State.modTeam_firmware (s : State) (i : Nat) (f : Team → Team) : (s.modTeam i f).firmware = s.firmware := rfl

@[simp] theorem State.modTeam_config (s : State) (i : Nat) (f : Team → Team) : (s.modTeam i f).config = s.config := rfl

@[simp] theorem State.modTeam_throttle (s : State) (i : Nat) (f : Team → Team) : (s.modTeam i f).throttle = s.throttle := rfl

@[simp] theorem State.modTeam_cycles (s : State) (i : Nat) (f : Team → Team) : (s.modTeam i f).cycles = s.cycles := rfl

@[simp] theorem State.modTeam_corrected (s : State) (i : Nat) (f : Team → Team) : (s.modTeam i f).corrected = s.corrected := rfl

@[simp] theorem State.modTeam_outbox (s : State) (i : Nat) (f : Team → Team) : (s.modTeam i f).outbox = s.outbox := rfl

@[simp] theorem State.modTeam_replies (s : State) (i : Nat) (f : Team → Team) : (s.modTeam i f).replies = s.replies := rfl

@[simp] theorem State.modTeam_hostData (s : State) (i : Nat) (f : Team → Team) : (s.modTeam i f).hostData = s.hostData := rfl

@[simp] theorem State.modTeam_report (s : State) (i : Nat) (f : Team → Team) : (s.modTeam i f).report = s.report := rfl

@[simp] theorem State.modTeam_skew (s : State) (i : Nat) (f : Team → Team) : (s.modTeam i f).skew = s.skew := rfl

@[simp] theorem State.modTeam_lastSync (s : State) (i : Nat) (f : Team → Team) : (s.modTeam i f).lastSync = s.lastSync := rfl

@[simp] theorem State.modTeam_ref (s : State) (i : Nat) (f : Team → Team) : (s.modTeam i f).ref = s.ref := rfl

@[simp] theorem State.modTeam_vacating (s : State) (i : Nat) (f : Team → Team) : (s.modTeam i f).vacating = s.vacating := rfl

@[simp] theorem State.modTeam_repairs (s : State) (i : Nat) (f : Team → Team) : (s.modTeam i f).repairs = s.repairs := rfl

@[simp] theorem State.modTeam_hostWrites (s : State) (i : Nat) (f : Team → Team) : (s.modTeam i f).hostWrites = s.hostWrites := rfl

/-! `State.modCtx` -/

@[simp] theorem State.modCtx_agenda (s : State) (i : Nat) (f : Context → Context) : (s.modCtx i f).agenda = s.agenda := rfl

@[simp] theorem State.modCtx_focus (s : State) (i : Nat) (f : Context → Context) : (s.modCtx i f).focus = s.focus := rfl

@[simp] theorem State.modCtx_free (s : State) (i : Nat) (f : Context → Context) : (s.modCtx i f).free = s.free := rfl

@[simp] theorem State.modCtx_seq (s : State) (i : Nat) (f : Context → Context) : (s.modCtx i f).seq = s.seq := rfl

@[simp] theorem State.modCtx_tick (s : State) (i : Nat) (f : Context → Context) : (s.modCtx i f).tick = s.tick := rfl

@[simp] theorem State.modCtx_now (s : State) (i : Nat) (f : Context → Context) : (s.modCtx i f).now = s.now := rfl

@[simp] theorem State.modCtx_mem (s : State) (i : Nat) (f : Context → Context) : (s.modCtx i f).mem = s.mem := rfl

@[simp] theorem State.modCtx_hostMem (s : State) (i : Nat) (f : Context → Context) : (s.modCtx i f).hostMem = s.hostMem := rfl

@[simp] theorem State.modCtx_sram (s : State) (i : Nat) (f : Context → Context) : (s.modCtx i f).sram = s.sram := rfl

@[simp] theorem State.modCtx_zeroBanks (s : State) (i : Nat) (f : Context → Context) : (s.modCtx i f).zeroBanks = s.zeroBanks := rfl

@[simp] theorem State.modCtx_spStamp (s : State) (i : Nat) (f : Context → Context) : (s.modCtx i f).spStamp = s.spStamp := rfl

@[simp] theorem State.modCtx_homeCache (s : State) (i : Nat) (f : Context → Context) : (s.modCtx i f).homeCache = s.homeCache := rfl

@[simp] theorem State.modCtx_remaps (s : State) (i : Nat) (f : Context → Context) : (s.modCtx i f).remaps = s.remaps := rfl

@[simp] theorem State.modCtx_units (s : State) (i : Nat) (f : Context → Context) : (s.modCtx i f).units = s.units := rfl

@[simp] theorem State.modCtx_teams (s : State) (i : Nat) (f : Context → Context) : (s.modCtx i f).teams = s.teams := rfl

@[simp] theorem State.modCtx_grids (s : State) (i : Nat) (f : Context → Context) : (s.modCtx i f).grids = s.grids := rfl

@[simp] theorem State.modCtx_doorbells (s : State) (i : Nat) (f : Context → Context) : (s.modCtx i f).doorbells = s.doorbells := rfl

@[simp] theorem State.modCtx_l1 (s : State) (i : Nat) (f : Context → Context) : (s.modCtx i f).l1 = s.l1 := rfl

@[simp] theorem State.modCtx_l2 (s : State) (i : Nat) (f : Context → Context) : (s.modCtx i f).l2 = s.l2 := rfl

@[simp] theorem State.modCtx_recalls (s : State) (i : Nat) (f : Context → Context) : (s.modCtx i f).recalls = s.recalls := rfl

@[simp] theorem State.modCtx_evictedLease (s : State) (i : Nat) (f : Context → Context) : (s.modCtx i f).evictedLease = s.evictedLease := rfl

@[simp] theorem State.modCtx_evictedStamp (s : State) (i : Nat) (f : Context → Context) : (s.modCtx i f).evictedStamp = s.evictedStamp := rfl

@[simp] theorem State.modCtx_towerStamp (s : State) (i : Nat) (f : Context → Context) : (s.modCtx i f).towerStamp = s.towerStamp := rfl

@[simp] theorem State.modCtx_signals (s : State) (i : Nat) (f : Context → Context) : (s.modCtx i f).signals = s.signals := rfl

@[simp] theorem State.modCtx_batches (s : State) (i : Nat) (f : Context → Context) : (s.modCtx i f).batches = s.batches := rfl

@[simp] theorem State.modCtx_copies (s : State) (i : Nat) (f : Context → Context) : (s.modCtx i f).copies = s.copies := rfl

@[simp] theorem State.modCtx_gathers (s : State) (i : Nat) (f : Context → Context) : (s.modCtx i f).gathers = s.gathers := rfl

@[simp] theorem State.modCtx_versions (s : State) (i : Nat) (f : Context → Context) : (s.modCtx i f).versions = s.versions := rfl

@[simp] theorem State.modCtx_readers (s : State) (i : Nat) (f : Context → Context) : (s.modCtx i f).readers = s.readers := rfl

@[simp] theorem State.modCtx_edges (s : State) (i : Nat) (f : Context → Context) : (s.modCtx i f).edges = s.edges := rfl

@[simp] theorem State.modCtx_deferred (s : State) (i : Nat) (f : Context → Context) : (s.modCtx i f).deferred = s.deferred := rfl

@[simp] theorem State.modCtx_regions (s : State) (i : Nat) (f : Context → Context) : (s.modCtx i f).regions = s.regions := rfl

@[simp] theorem State.modCtx_regionCount (s : State) (i : Nat) (f : Context → Context) : (s.modCtx i f).regionCount = s.regionCount := rfl

@[simp] theorem State.modCtx_pubs (s : State) (i : Nat) (f : Context → Context) : (s.modCtx i f).pubs = s.pubs := rfl

@[simp] theorem State.modCtx_subs (s : State) (i : Nat) (f : Context → Context) : (s.modCtx i f).subs = s.subs := rfl

@[simp] theorem State.modCtx_msgs (s : State) (i : Nat) (f : Context → Context) : (s.modCtx i f).msgs = s.msgs := rfl

@[simp] theorem State.modCtx_saved (s : State) (i : Nat) (f : Context → Context) : (s.modCtx i f).saved = s.saved := rfl

@[simp] theorem State.modCtx_poisonMem (s : State) (i : Nat) (f : Context → Context) : (s.modCtx i f).poisonMem = s.poisonMem := rfl

@[simp] theorem State.modCtx_poisonSram (s : State) (i : Nat) (f : Context → Context) : (s.modCtx i f).poisonSram = s.poisonSram := rfl

@[simp] theorem State.modCtx_poisonL1 (s : State) (i : Nat) (f : Context → Context) : (s.modCtx i f).poisonL1 = s.poisonL1 := rfl

@[simp] theorem State.modCtx_poisonL2 (s : State) (i : Nat) (f : Context → Context) : (s.modCtx i f).poisonL2 = s.poisonL2 := rfl

@[simp] theorem State.modCtx_keys (s : State) (i : Nat) (f : Context → Context) : (s.modCtx i f).keys = s.keys := rfl

@[simp] theorem State.modCtx_lineKeys (s : State) (i : Nat) (f : Context → Context) : (s.modCtx i f).lineKeys = s.lineKeys := rfl

@[simp] theorem State.modCtx_retiredChannels (s : State) (i : Nat) (f : Context → Context) : (s.modCtx i f).retiredChannels = s.retiredChannels := rfl

@[simp] theorem State.modCtx_spareClusters (s : State) (i : Nat) (f : Context → Context) : (s.modCtx i f).spareClusters = s.spareClusters := rfl

@[simp] theorem State.modCtx_sparedRows (s : State) (i : Nat) (f : Context → Context) : (s.modCtx i f).sparedRows = s.sparedRows := rfl

@[simp] theorem State.modCtx_sparedLanes (s : State) (i : Nat) (f : Context → Context) : (s.modCtx i f).sparedLanes = s.sparedLanes := rfl

@[simp] theorem State.modCtx_vacated (s : State) (i : Nat) (f : Context → Context) : (s.modCtx i f).vacated = s.vacated := rfl

@[simp] theorem State.modCtx_ports (s : State) (i : Nat) (f : Context → Context) : (s.modCtx i f).ports = s.ports := rfl

@[simp] theorem State.modCtx_linkWindows (s : State) (i : Nat) (f : Context → Context) : (s.modCtx i f).linkWindows = s.linkWindows := rfl

@[simp] theorem State.modCtx_linkAllow (s : State) (i : Nat) (f : Context → Context) : (s.modCtx i f).linkAllow = s.linkAllow := rfl

@[simp] theorem State.modCtx_outOfStep (s : State) (i : Nat) (f : Context → Context) : (s.modCtx i f).outOfStep = s.outOfStep := rfl

@[simp] theorem State.modCtx_deviceId (s : State) (i : Nat) (f : Context → Context) : (s.modCtx i f).deviceId = s.deviceId := rfl

@[simp] theorem State.modCtx_master (s : State) (i : Nat) (f : Context → Context) : (s.modCtx i f).master = s.master := rfl

@[simp] theorem State.modCtx_inStep (s : State) (i : Nat) (f : Context → Context) : (s.modCtx i f).inStep = s.inStep := rfl

@[simp] theorem State.modCtx_windows (s : State) (i : Nat) (f : Context → Context) : (s.modCtx i f).windows = s.windows := rfl

@[simp] theorem State.modCtx_sealedDrops (s : State) (i : Nat) (f : Context → Context) : (s.modCtx i f).sealedDrops = s.sealedDrops := rfl

@[simp] theorem State.modCtx_mailbox (s : State) (i : Nat) (f : Context → Context) : (s.modCtx i f).mailbox = s.mailbox := rfl

@[simp] theorem State.modCtx_identity (s : State) (i : Nat) (f : Context → Context) : (s.modCtx i f).identity = s.identity := rfl

@[simp] theorem State.modCtx_capMap (s : State) (i : Nat) (f : Context → Context) : (s.modCtx i f).capMap = s.capMap := rfl

@[simp] theorem State.modCtx_phase (s : State) (i : Nat) (f : Context → Context) : (s.modCtx i f).phase = s.phase := rfl

@[simp] theorem State.modCtx_firmware (s : State) (i : Nat) (f : Context → Context) : (s.modCtx i f).firmware = s.firmware := rfl

@[simp] theorem State.modCtx_config (s : State) (i : Nat) (f : Context → Context) : (s.modCtx i f).config = s.config := rfl

@[simp] theorem State.modCtx_throttle (s : State) (i : Nat) (f : Context → Context) : (s.modCtx i f).throttle = s.throttle := rfl

@[simp] theorem State.modCtx_cycles (s : State) (i : Nat) (f : Context → Context) : (s.modCtx i f).cycles = s.cycles := rfl

@[simp] theorem State.modCtx_corrected (s : State) (i : Nat) (f : Context → Context) : (s.modCtx i f).corrected = s.corrected := rfl

@[simp] theorem State.modCtx_outbox (s : State) (i : Nat) (f : Context → Context) : (s.modCtx i f).outbox = s.outbox := rfl

@[simp] theorem State.modCtx_replies (s : State) (i : Nat) (f : Context → Context) : (s.modCtx i f).replies = s.replies := rfl

@[simp] theorem State.modCtx_hostData (s : State) (i : Nat) (f : Context → Context) : (s.modCtx i f).hostData = s.hostData := rfl

@[simp] theorem State.modCtx_report (s : State) (i : Nat) (f : Context → Context) : (s.modCtx i f).report = s.report := rfl

@[simp] theorem State.modCtx_skew (s : State) (i : Nat) (f : Context → Context) : (s.modCtx i f).skew = s.skew := rfl

@[simp] theorem State.modCtx_lastSync (s : State) (i : Nat) (f : Context → Context) : (s.modCtx i f).lastSync = s.lastSync := rfl

@[simp] theorem State.modCtx_ref (s : State) (i : Nat) (f : Context → Context) : (s.modCtx i f).ref = s.ref := rfl

@[simp] theorem State.modCtx_vacating (s : State) (i : Nat) (f : Context → Context) : (s.modCtx i f).vacating = s.vacating := rfl

@[simp] theorem State.modCtx_repairs (s : State) (i : Nat) (f : Context → Context) : (s.modCtx i f).repairs = s.repairs := rfl

@[simp] theorem State.modCtx_hostWrites (s : State) (i : Nat) (f : Context → Context) : (s.modCtx i f).hostWrites = s.hostWrites := rfl

/-! `State.takeSeq` -/

@[simp] theorem State.takeSeq_agenda (s : State) : (s.takeSeq).agenda = s.agenda := rfl

@[simp] theorem State.takeSeq_focus (s : State) : (s.takeSeq).focus = s.focus := rfl

@[simp] theorem State.takeSeq_free (s : State) : (s.takeSeq).free = s.free := rfl

@[simp] theorem State.takeSeq_tick (s : State) : (s.takeSeq).tick = s.tick := rfl

@[simp] theorem State.takeSeq_now (s : State) : (s.takeSeq).now = s.now := rfl

@[simp] theorem State.takeSeq_mem (s : State) : (s.takeSeq).mem = s.mem := rfl

@[simp] theorem State.takeSeq_hostMem (s : State) : (s.takeSeq).hostMem = s.hostMem := rfl

@[simp] theorem State.takeSeq_sram (s : State) : (s.takeSeq).sram = s.sram := rfl

@[simp] theorem State.takeSeq_zeroBanks (s : State) : (s.takeSeq).zeroBanks = s.zeroBanks := rfl

@[simp] theorem State.takeSeq_spStamp (s : State) : (s.takeSeq).spStamp = s.spStamp := rfl

@[simp] theorem State.takeSeq_homeCache (s : State) : (s.takeSeq).homeCache = s.homeCache := rfl

@[simp] theorem State.takeSeq_remaps (s : State) : (s.takeSeq).remaps = s.remaps := rfl

@[simp] theorem State.takeSeq_units (s : State) : (s.takeSeq).units = s.units := rfl

@[simp] theorem State.takeSeq_teams (s : State) : (s.takeSeq).teams = s.teams := rfl

@[simp] theorem State.takeSeq_grids (s : State) : (s.takeSeq).grids = s.grids := rfl

@[simp] theorem State.takeSeq_contexts (s : State) : (s.takeSeq).contexts = s.contexts := rfl

@[simp] theorem State.takeSeq_doorbells (s : State) : (s.takeSeq).doorbells = s.doorbells := rfl

@[simp] theorem State.takeSeq_l1 (s : State) : (s.takeSeq).l1 = s.l1 := rfl

@[simp] theorem State.takeSeq_l2 (s : State) : (s.takeSeq).l2 = s.l2 := rfl

@[simp] theorem State.takeSeq_recalls (s : State) : (s.takeSeq).recalls = s.recalls := rfl

@[simp] theorem State.takeSeq_evictedLease (s : State) : (s.takeSeq).evictedLease = s.evictedLease := rfl

@[simp] theorem State.takeSeq_evictedStamp (s : State) : (s.takeSeq).evictedStamp = s.evictedStamp := rfl

@[simp] theorem State.takeSeq_towerStamp (s : State) : (s.takeSeq).towerStamp = s.towerStamp := rfl

@[simp] theorem State.takeSeq_signals (s : State) : (s.takeSeq).signals = s.signals := rfl

@[simp] theorem State.takeSeq_batches (s : State) : (s.takeSeq).batches = s.batches := rfl

@[simp] theorem State.takeSeq_copies (s : State) : (s.takeSeq).copies = s.copies := rfl

@[simp] theorem State.takeSeq_gathers (s : State) : (s.takeSeq).gathers = s.gathers := rfl

@[simp] theorem State.takeSeq_versions (s : State) : (s.takeSeq).versions = s.versions := rfl

@[simp] theorem State.takeSeq_readers (s : State) : (s.takeSeq).readers = s.readers := rfl

@[simp] theorem State.takeSeq_edges (s : State) : (s.takeSeq).edges = s.edges := rfl

@[simp] theorem State.takeSeq_deferred (s : State) : (s.takeSeq).deferred = s.deferred := rfl

@[simp] theorem State.takeSeq_regions (s : State) : (s.takeSeq).regions = s.regions := rfl

@[simp] theorem State.takeSeq_regionCount (s : State) : (s.takeSeq).regionCount = s.regionCount := rfl

@[simp] theorem State.takeSeq_pubs (s : State) : (s.takeSeq).pubs = s.pubs := rfl

@[simp] theorem State.takeSeq_subs (s : State) : (s.takeSeq).subs = s.subs := rfl

@[simp] theorem State.takeSeq_msgs (s : State) : (s.takeSeq).msgs = s.msgs := rfl

@[simp] theorem State.takeSeq_saved (s : State) : (s.takeSeq).saved = s.saved := rfl

@[simp] theorem State.takeSeq_poisonMem (s : State) : (s.takeSeq).poisonMem = s.poisonMem := rfl

@[simp] theorem State.takeSeq_poisonSram (s : State) : (s.takeSeq).poisonSram = s.poisonSram := rfl

@[simp] theorem State.takeSeq_poisonL1 (s : State) : (s.takeSeq).poisonL1 = s.poisonL1 := rfl

@[simp] theorem State.takeSeq_poisonL2 (s : State) : (s.takeSeq).poisonL2 = s.poisonL2 := rfl

@[simp] theorem State.takeSeq_keys (s : State) : (s.takeSeq).keys = s.keys := rfl

@[simp] theorem State.takeSeq_lineKeys (s : State) : (s.takeSeq).lineKeys = s.lineKeys := rfl

@[simp] theorem State.takeSeq_retiredChannels (s : State) : (s.takeSeq).retiredChannels = s.retiredChannels := rfl

@[simp] theorem State.takeSeq_spareClusters (s : State) : (s.takeSeq).spareClusters = s.spareClusters := rfl

@[simp] theorem State.takeSeq_sparedRows (s : State) : (s.takeSeq).sparedRows = s.sparedRows := rfl

@[simp] theorem State.takeSeq_sparedLanes (s : State) : (s.takeSeq).sparedLanes = s.sparedLanes := rfl

@[simp] theorem State.takeSeq_vacated (s : State) : (s.takeSeq).vacated = s.vacated := rfl

@[simp] theorem State.takeSeq_ports (s : State) : (s.takeSeq).ports = s.ports := rfl

@[simp] theorem State.takeSeq_linkWindows (s : State) : (s.takeSeq).linkWindows = s.linkWindows := rfl

@[simp] theorem State.takeSeq_linkAllow (s : State) : (s.takeSeq).linkAllow = s.linkAllow := rfl

@[simp] theorem State.takeSeq_outOfStep (s : State) : (s.takeSeq).outOfStep = s.outOfStep := rfl

@[simp] theorem State.takeSeq_deviceId (s : State) : (s.takeSeq).deviceId = s.deviceId := rfl

@[simp] theorem State.takeSeq_master (s : State) : (s.takeSeq).master = s.master := rfl

@[simp] theorem State.takeSeq_inStep (s : State) : (s.takeSeq).inStep = s.inStep := rfl

@[simp] theorem State.takeSeq_windows (s : State) : (s.takeSeq).windows = s.windows := rfl

@[simp] theorem State.takeSeq_sealedDrops (s : State) : (s.takeSeq).sealedDrops = s.sealedDrops := rfl

@[simp] theorem State.takeSeq_mailbox (s : State) : (s.takeSeq).mailbox = s.mailbox := rfl

@[simp] theorem State.takeSeq_identity (s : State) : (s.takeSeq).identity = s.identity := rfl

@[simp] theorem State.takeSeq_capMap (s : State) : (s.takeSeq).capMap = s.capMap := rfl

@[simp] theorem State.takeSeq_phase (s : State) : (s.takeSeq).phase = s.phase := rfl

@[simp] theorem State.takeSeq_firmware (s : State) : (s.takeSeq).firmware = s.firmware := rfl

@[simp] theorem State.takeSeq_config (s : State) : (s.takeSeq).config = s.config := rfl

@[simp] theorem State.takeSeq_throttle (s : State) : (s.takeSeq).throttle = s.throttle := rfl

@[simp] theorem State.takeSeq_cycles (s : State) : (s.takeSeq).cycles = s.cycles := rfl

@[simp] theorem State.takeSeq_corrected (s : State) : (s.takeSeq).corrected = s.corrected := rfl

@[simp] theorem State.takeSeq_outbox (s : State) : (s.takeSeq).outbox = s.outbox := rfl

@[simp] theorem State.takeSeq_replies (s : State) : (s.takeSeq).replies = s.replies := rfl

@[simp] theorem State.takeSeq_hostData (s : State) : (s.takeSeq).hostData = s.hostData := rfl

@[simp] theorem State.takeSeq_report (s : State) : (s.takeSeq).report = s.report := rfl

@[simp] theorem State.takeSeq_skew (s : State) : (s.takeSeq).skew = s.skew := rfl

@[simp] theorem State.takeSeq_lastSync (s : State) : (s.takeSeq).lastSync = s.lastSync := rfl

@[simp] theorem State.takeSeq_ref (s : State) : (s.takeSeq).ref = s.ref := rfl

@[simp] theorem State.takeSeq_vacating (s : State) : (s.takeSeq).vacating = s.vacating := rfl

@[simp] theorem State.takeSeq_repairs (s : State) : (s.takeSeq).repairs = s.repairs := rfl

@[simp] theorem State.takeSeq_hostWrites (s : State) : (s.takeSeq).hostWrites = s.hostWrites := rfl

/-! `State.fresh` -/

@[simp] theorem State.fresh_agenda (s : State) : (s.fresh).agenda = s.agenda := rfl

@[simp] theorem State.fresh_focus (s : State) : (s.fresh).focus = s.focus := rfl

@[simp] theorem State.fresh_seq (s : State) : (s.fresh).seq = s.seq := rfl

@[simp] theorem State.fresh_tick (s : State) : (s.fresh).tick = s.tick := rfl

@[simp] theorem State.fresh_now (s : State) : (s.fresh).now = s.now := rfl

@[simp] theorem State.fresh_mem (s : State) : (s.fresh).mem = s.mem := rfl

@[simp] theorem State.fresh_hostMem (s : State) : (s.fresh).hostMem = s.hostMem := rfl

@[simp] theorem State.fresh_sram (s : State) : (s.fresh).sram = s.sram := rfl

@[simp] theorem State.fresh_zeroBanks (s : State) : (s.fresh).zeroBanks = s.zeroBanks := rfl

@[simp] theorem State.fresh_spStamp (s : State) : (s.fresh).spStamp = s.spStamp := rfl

@[simp] theorem State.fresh_homeCache (s : State) : (s.fresh).homeCache = s.homeCache := rfl

@[simp] theorem State.fresh_remaps (s : State) : (s.fresh).remaps = s.remaps := rfl

@[simp] theorem State.fresh_units (s : State) : (s.fresh).units = s.units := rfl

@[simp] theorem State.fresh_teams (s : State) : (s.fresh).teams = s.teams := rfl

@[simp] theorem State.fresh_grids (s : State) : (s.fresh).grids = s.grids := rfl

@[simp] theorem State.fresh_contexts (s : State) : (s.fresh).contexts = s.contexts := rfl

@[simp] theorem State.fresh_doorbells (s : State) : (s.fresh).doorbells = s.doorbells := rfl

@[simp] theorem State.fresh_l1 (s : State) : (s.fresh).l1 = s.l1 := rfl

@[simp] theorem State.fresh_l2 (s : State) : (s.fresh).l2 = s.l2 := rfl

@[simp] theorem State.fresh_recalls (s : State) : (s.fresh).recalls = s.recalls := rfl

@[simp] theorem State.fresh_evictedLease (s : State) : (s.fresh).evictedLease = s.evictedLease := rfl

@[simp] theorem State.fresh_evictedStamp (s : State) : (s.fresh).evictedStamp = s.evictedStamp := rfl

@[simp] theorem State.fresh_towerStamp (s : State) : (s.fresh).towerStamp = s.towerStamp := rfl

@[simp] theorem State.fresh_signals (s : State) : (s.fresh).signals = s.signals := rfl

@[simp] theorem State.fresh_batches (s : State) : (s.fresh).batches = s.batches := rfl

@[simp] theorem State.fresh_copies (s : State) : (s.fresh).copies = s.copies := rfl

@[simp] theorem State.fresh_gathers (s : State) : (s.fresh).gathers = s.gathers := rfl

@[simp] theorem State.fresh_versions (s : State) : (s.fresh).versions = s.versions := rfl

@[simp] theorem State.fresh_readers (s : State) : (s.fresh).readers = s.readers := rfl

@[simp] theorem State.fresh_edges (s : State) : (s.fresh).edges = s.edges := rfl

@[simp] theorem State.fresh_deferred (s : State) : (s.fresh).deferred = s.deferred := rfl

@[simp] theorem State.fresh_regions (s : State) : (s.fresh).regions = s.regions := rfl

@[simp] theorem State.fresh_regionCount (s : State) : (s.fresh).regionCount = s.regionCount := rfl

@[simp] theorem State.fresh_pubs (s : State) : (s.fresh).pubs = s.pubs := rfl

@[simp] theorem State.fresh_subs (s : State) : (s.fresh).subs = s.subs := rfl

@[simp] theorem State.fresh_msgs (s : State) : (s.fresh).msgs = s.msgs := rfl

@[simp] theorem State.fresh_saved (s : State) : (s.fresh).saved = s.saved := rfl

@[simp] theorem State.fresh_poisonMem (s : State) : (s.fresh).poisonMem = s.poisonMem := rfl

@[simp] theorem State.fresh_poisonSram (s : State) : (s.fresh).poisonSram = s.poisonSram := rfl

@[simp] theorem State.fresh_poisonL1 (s : State) : (s.fresh).poisonL1 = s.poisonL1 := rfl

@[simp] theorem State.fresh_poisonL2 (s : State) : (s.fresh).poisonL2 = s.poisonL2 := rfl

@[simp] theorem State.fresh_keys (s : State) : (s.fresh).keys = s.keys := rfl

@[simp] theorem State.fresh_lineKeys (s : State) : (s.fresh).lineKeys = s.lineKeys := rfl

@[simp] theorem State.fresh_retiredChannels (s : State) : (s.fresh).retiredChannels = s.retiredChannels := rfl

@[simp] theorem State.fresh_spareClusters (s : State) : (s.fresh).spareClusters = s.spareClusters := rfl

@[simp] theorem State.fresh_sparedRows (s : State) : (s.fresh).sparedRows = s.sparedRows := rfl

@[simp] theorem State.fresh_sparedLanes (s : State) : (s.fresh).sparedLanes = s.sparedLanes := rfl

@[simp] theorem State.fresh_vacated (s : State) : (s.fresh).vacated = s.vacated := rfl

@[simp] theorem State.fresh_ports (s : State) : (s.fresh).ports = s.ports := rfl

@[simp] theorem State.fresh_linkWindows (s : State) : (s.fresh).linkWindows = s.linkWindows := rfl

@[simp] theorem State.fresh_linkAllow (s : State) : (s.fresh).linkAllow = s.linkAllow := rfl

@[simp] theorem State.fresh_outOfStep (s : State) : (s.fresh).outOfStep = s.outOfStep := rfl

@[simp] theorem State.fresh_deviceId (s : State) : (s.fresh).deviceId = s.deviceId := rfl

@[simp] theorem State.fresh_master (s : State) : (s.fresh).master = s.master := rfl

@[simp] theorem State.fresh_inStep (s : State) : (s.fresh).inStep = s.inStep := rfl

@[simp] theorem State.fresh_windows (s : State) : (s.fresh).windows = s.windows := rfl

@[simp] theorem State.fresh_sealedDrops (s : State) : (s.fresh).sealedDrops = s.sealedDrops := rfl

@[simp] theorem State.fresh_mailbox (s : State) : (s.fresh).mailbox = s.mailbox := rfl

@[simp] theorem State.fresh_identity (s : State) : (s.fresh).identity = s.identity := rfl

@[simp] theorem State.fresh_capMap (s : State) : (s.fresh).capMap = s.capMap := rfl

@[simp] theorem State.fresh_phase (s : State) : (s.fresh).phase = s.phase := rfl

@[simp] theorem State.fresh_firmware (s : State) : (s.fresh).firmware = s.firmware := rfl

@[simp] theorem State.fresh_config (s : State) : (s.fresh).config = s.config := rfl

@[simp] theorem State.fresh_throttle (s : State) : (s.fresh).throttle = s.throttle := rfl

@[simp] theorem State.fresh_cycles (s : State) : (s.fresh).cycles = s.cycles := rfl

@[simp] theorem State.fresh_corrected (s : State) : (s.fresh).corrected = s.corrected := rfl

@[simp] theorem State.fresh_outbox (s : State) : (s.fresh).outbox = s.outbox := rfl

@[simp] theorem State.fresh_replies (s : State) : (s.fresh).replies = s.replies := rfl

@[simp] theorem State.fresh_hostData (s : State) : (s.fresh).hostData = s.hostData := rfl

@[simp] theorem State.fresh_report (s : State) : (s.fresh).report = s.report := rfl

@[simp] theorem State.fresh_skew (s : State) : (s.fresh).skew = s.skew := rfl

@[simp] theorem State.fresh_lastSync (s : State) : (s.fresh).lastSync = s.lastSync := rfl

@[simp] theorem State.fresh_ref (s : State) : (s.fresh).ref = s.ref := rfl

@[simp] theorem State.fresh_vacating (s : State) : (s.fresh).vacating = s.vacating := rfl

@[simp] theorem State.fresh_repairs (s : State) : (s.fresh).repairs = s.repairs := rfl

@[simp] theorem State.fresh_hostWrites (s : State) : (s.fresh).hostWrites = s.hostWrites := rfl

/-! `State.elapse` -/

@[simp] theorem State.elapse_agenda (s : State) (n : Nat) : (s.elapse n).agenda = s.agenda := rfl

@[simp] theorem State.elapse_focus (s : State) (n : Nat) : (s.elapse n).focus = s.focus := rfl

@[simp] theorem State.elapse_seq (s : State) (n : Nat) : (s.elapse n).seq = s.seq := rfl

@[simp] theorem State.elapse_mem (s : State) (n : Nat) : (s.elapse n).mem = s.mem := rfl

@[simp] theorem State.elapse_hostMem (s : State) (n : Nat) : (s.elapse n).hostMem = s.hostMem := rfl

@[simp] theorem State.elapse_sram (s : State) (n : Nat) : (s.elapse n).sram = s.sram := rfl

@[simp] theorem State.elapse_zeroBanks (s : State) (n : Nat) : (s.elapse n).zeroBanks = s.zeroBanks := rfl

@[simp] theorem State.elapse_spStamp (s : State) (n : Nat) : (s.elapse n).spStamp = s.spStamp := rfl

@[simp] theorem State.elapse_homeCache (s : State) (n : Nat) : (s.elapse n).homeCache = s.homeCache := rfl

@[simp] theorem State.elapse_remaps (s : State) (n : Nat) : (s.elapse n).remaps = s.remaps := rfl

@[simp] theorem State.elapse_units (s : State) (n : Nat) : (s.elapse n).units = s.units := rfl

@[simp] theorem State.elapse_teams (s : State) (n : Nat) : (s.elapse n).teams = s.teams := rfl

@[simp] theorem State.elapse_grids (s : State) (n : Nat) : (s.elapse n).grids = s.grids := rfl

@[simp] theorem State.elapse_contexts (s : State) (n : Nat) : (s.elapse n).contexts = s.contexts := rfl

@[simp] theorem State.elapse_doorbells (s : State) (n : Nat) : (s.elapse n).doorbells = s.doorbells := rfl

@[simp] theorem State.elapse_l1 (s : State) (n : Nat) : (s.elapse n).l1 = s.l1 := rfl

@[simp] theorem State.elapse_l2 (s : State) (n : Nat) : (s.elapse n).l2 = s.l2 := rfl

@[simp] theorem State.elapse_recalls (s : State) (n : Nat) : (s.elapse n).recalls = s.recalls := rfl

@[simp] theorem State.elapse_evictedLease (s : State) (n : Nat) : (s.elapse n).evictedLease = s.evictedLease := rfl

@[simp] theorem State.elapse_evictedStamp (s : State) (n : Nat) : (s.elapse n).evictedStamp = s.evictedStamp := rfl

@[simp] theorem State.elapse_towerStamp (s : State) (n : Nat) : (s.elapse n).towerStamp = s.towerStamp := rfl

@[simp] theorem State.elapse_signals (s : State) (n : Nat) : (s.elapse n).signals = s.signals := rfl

@[simp] theorem State.elapse_batches (s : State) (n : Nat) : (s.elapse n).batches = s.batches := rfl

@[simp] theorem State.elapse_copies (s : State) (n : Nat) : (s.elapse n).copies = s.copies := rfl

@[simp] theorem State.elapse_gathers (s : State) (n : Nat) : (s.elapse n).gathers = s.gathers := rfl

@[simp] theorem State.elapse_versions (s : State) (n : Nat) : (s.elapse n).versions = s.versions := rfl

@[simp] theorem State.elapse_readers (s : State) (n : Nat) : (s.elapse n).readers = s.readers := rfl

@[simp] theorem State.elapse_edges (s : State) (n : Nat) : (s.elapse n).edges = s.edges := rfl

@[simp] theorem State.elapse_deferred (s : State) (n : Nat) : (s.elapse n).deferred = s.deferred := rfl

@[simp] theorem State.elapse_regions (s : State) (n : Nat) : (s.elapse n).regions = s.regions := rfl

@[simp] theorem State.elapse_regionCount (s : State) (n : Nat) : (s.elapse n).regionCount = s.regionCount := rfl

@[simp] theorem State.elapse_pubs (s : State) (n : Nat) : (s.elapse n).pubs = s.pubs := rfl

@[simp] theorem State.elapse_subs (s : State) (n : Nat) : (s.elapse n).subs = s.subs := rfl

@[simp] theorem State.elapse_msgs (s : State) (n : Nat) : (s.elapse n).msgs = s.msgs := rfl

@[simp] theorem State.elapse_saved (s : State) (n : Nat) : (s.elapse n).saved = s.saved := rfl

@[simp] theorem State.elapse_poisonMem (s : State) (n : Nat) : (s.elapse n).poisonMem = s.poisonMem := rfl

@[simp] theorem State.elapse_poisonSram (s : State) (n : Nat) : (s.elapse n).poisonSram = s.poisonSram := rfl

@[simp] theorem State.elapse_poisonL1 (s : State) (n : Nat) : (s.elapse n).poisonL1 = s.poisonL1 := rfl

@[simp] theorem State.elapse_poisonL2 (s : State) (n : Nat) : (s.elapse n).poisonL2 = s.poisonL2 := rfl

@[simp] theorem State.elapse_keys (s : State) (n : Nat) : (s.elapse n).keys = s.keys := rfl

@[simp] theorem State.elapse_lineKeys (s : State) (n : Nat) : (s.elapse n).lineKeys = s.lineKeys := rfl

@[simp] theorem State.elapse_retiredChannels (s : State) (n : Nat) : (s.elapse n).retiredChannels = s.retiredChannels := rfl

@[simp] theorem State.elapse_spareClusters (s : State) (n : Nat) : (s.elapse n).spareClusters = s.spareClusters := rfl

@[simp] theorem State.elapse_sparedRows (s : State) (n : Nat) : (s.elapse n).sparedRows = s.sparedRows := rfl

@[simp] theorem State.elapse_sparedLanes (s : State) (n : Nat) : (s.elapse n).sparedLanes = s.sparedLanes := rfl

@[simp] theorem State.elapse_vacated (s : State) (n : Nat) : (s.elapse n).vacated = s.vacated := rfl

@[simp] theorem State.elapse_ports (s : State) (n : Nat) : (s.elapse n).ports = s.ports := rfl

@[simp] theorem State.elapse_linkWindows (s : State) (n : Nat) : (s.elapse n).linkWindows = s.linkWindows := rfl

@[simp] theorem State.elapse_linkAllow (s : State) (n : Nat) : (s.elapse n).linkAllow = s.linkAllow := rfl

@[simp] theorem State.elapse_outOfStep (s : State) (n : Nat) : (s.elapse n).outOfStep = s.outOfStep := rfl

@[simp] theorem State.elapse_deviceId (s : State) (n : Nat) : (s.elapse n).deviceId = s.deviceId := rfl

@[simp] theorem State.elapse_master (s : State) (n : Nat) : (s.elapse n).master = s.master := rfl

@[simp] theorem State.elapse_inStep (s : State) (n : Nat) : (s.elapse n).inStep = s.stepHolds n := rfl

@[simp] theorem State.elapse_windows (s : State) (n : Nat) : (s.elapse n).windows = s.windows := rfl

@[simp] theorem State.elapse_sealedDrops (s : State) (n : Nat) : (s.elapse n).sealedDrops = s.sealedDrops := rfl

@[simp] theorem State.elapse_mailbox (s : State) (n : Nat) : (s.elapse n).mailbox = s.mailbox := rfl

@[simp] theorem State.elapse_identity (s : State) (n : Nat) : (s.elapse n).identity = s.identity := rfl

@[simp] theorem State.elapse_capMap (s : State) (n : Nat) : (s.elapse n).capMap = s.capMap := rfl

@[simp] theorem State.elapse_phase (s : State) (n : Nat) : (s.elapse n).phase = s.phase := rfl

@[simp] theorem State.elapse_firmware (s : State) (n : Nat) : (s.elapse n).firmware = s.firmware := rfl

@[simp] theorem State.elapse_config (s : State) (n : Nat) : (s.elapse n).config = s.config := rfl

@[simp] theorem State.elapse_throttle (s : State) (n : Nat) : (s.elapse n).throttle = s.throttle := rfl

@[simp] theorem State.elapse_cycles (s : State) (n : Nat) : (s.elapse n).cycles = s.cycles := rfl

@[simp] theorem State.elapse_corrected (s : State) (n : Nat) : (s.elapse n).corrected = s.corrected := rfl

@[simp] theorem State.elapse_outbox (s : State) (n : Nat) : (s.elapse n).outbox = s.outbox := rfl

@[simp] theorem State.elapse_replies (s : State) (n : Nat) : (s.elapse n).replies = s.replies := rfl

@[simp] theorem State.elapse_hostData (s : State) (n : Nat) : (s.elapse n).hostData = s.hostData := rfl

@[simp] theorem State.elapse_report (s : State) (n : Nat) : (s.elapse n).report = s.report := rfl

@[simp] theorem State.elapse_skew (s : State) (n : Nat) : (s.elapse n).skew = s.skew - s.slew n := rfl

@[simp] theorem State.elapse_lastSync (s : State) (n : Nat) : (s.elapse n).lastSync = s.lastSync := rfl

@[simp] theorem State.elapse_free (s : State) (n : Nat) : (s.elapse n).free = s.free + 1 := rfl

@[simp] theorem State.elapse_tick (s : State) (n : Nat) : (s.elapse n).tick = s.tick + 1 := rfl

@[simp] theorem State.elapse_ref (s : State) (n : Nat) : (s.elapse n).ref = s.refAfter n := rfl

@[simp] theorem State.elapse_vacating (s : State) (n : Nat) : (s.elapse n).vacating = s.vacating := rfl

@[simp] theorem State.elapse_repairs (s : State) (n : Nat) : (s.elapse n).repairs = s.repairs := rfl

@[simp] theorem State.elapse_hostWrites (s : State) (n : Nat) : (s.elapse n).hostWrites = s.hostWrites := rfl

@[simp] theorem State.setUnit_units (s : State) (u : Nat) (x : Unit) : (s.setUnit u x).units = modNth (fun _ => x) s.units u := rfl

@[simp] theorem State.modUnit_units (s : State) (u : Nat) (f : Unit → Unit) : (s.modUnit u f).units = modNth f s.units u := rfl

@[simp] theorem State.modTeam_teams (s : State) (i : Nat) (f : Team → Team) : (s.modTeam i f).teams = modNth f s.teams i := rfl

@[simp] theorem State.takeSeq_seq (s : State) : s.takeSeq.seq = s.seq + 1 := rfl

@[simp] theorem State.fresh_free (s : State) : s.fresh.free = s.free + 1 := rfl

@[simp] theorem State.elapse_now (s : State) (n : Nat) : (s.elapse n).now = s.now + n := rfl

end Sys2Proof.Machine
end

