-- ==== Sys2Proof/Laws/Ops.lean ====
section
/-!
SUPPORT. What the shared operations of a word's meaning do, once for each: lists by place, the frame of a word that passes its checks, and the frames of lane operations.
-/

namespace Sys2Proof.Machine

theorem nth?_modNth {α : Type} (f : α → α) : ∀ (xs : List α) (i j : Nat), nth? (modNth f xs i) j = if i = j then (nth? xs j).map f else nth? xs j
  | [], i, j => by cases i <;> cases j <;> simp [modNth, nth?]
  | x :: xs, 0, 0 => by simp [modNth, nth?]
  | x :: xs, 0, j + 1 => by simp [modNth, nth?]
  | x :: xs, i + 1, 0 => by simp [modNth, nth?]
  | x :: xs, i + 1, j + 1 => by simp [modNth, nth?, nth?_modNth f xs i j]

@[simp] theorem length_modNth {α : Type} (f : α → α) : ∀ (xs : List α) (i : Nat), (modNth f xs i).length = xs.length
  | [], _ => by simp [modNth]
  | x :: xs, 0 => by simp [modNth]
  | x :: xs, i + 1 => by simp [modNth, length_modNth f xs i]

theorem State.unit?_setUnit (s : State) (u v : Nat) (x : Unit) : (s.setUnit u x).unit? v = if u = v then (s.unit? v).map fun _ => x else s.unit? v :=
  nth?_modNth _ _ _ _

theorem State.unit?_modUnit (s : State) (u v : Nat) (f : Unit → Unit) : (s.modUnit u f).unit? v = if u = v then (s.unit? v).map f else s.unit? v :=
  nth?_modNth _ _ _ _

theorem State.team?_modTeam (s : State) (i j : Nat) (f : Team → Team) : (s.modTeam i f).team? j = if i = j then (s.team? j).map f else s.team? j :=
  nth?_modNth _ _ _ _

/-- The checks let a word go when it passes every one of them. -/
theorem State.gate_go {s : State} {u : Unit} {sh : Shape} (h : s.Passes u sh) : s.gate u sh = .go := by
  obtain ⟨h1, h2, h3, h4, h5, h6, h7⟩ := h
  have hu : u.converged = false → sh.csr = false ∨ u.inHandler = false → sh.pipe = false ∧ sh.uniforms = [] := by
    rcases h4 with h | ⟨h, k⟩ | ⟨h, k⟩ <;> simp [*]
  have hr : sh.role = none ∨ sh.role = some u.role := by
    cases hr : sh.role with
    | none => exact .inl rfl
    | some r => exact .inr (by rw [h2 r hr])
  have hs : sh.stale u = none ∨ s.team? u.team = none ∨ ∃ t, s.team? u.team = some t ∧ t.chk = false := by
    rcases h7 with h | h
    · cases ht : s.team? u.team with
      | none => exact .inr (.inl rfl)
      | some t => exact .inr (.inr ⟨t, rfl, h t ht⟩)
    · exact .inl h
  unfold State.gate
  rcases hr with hr | hr <;> rcases hs with hs | hs | ⟨t, hs, hc⟩ <;> simp [h1, h3, h5, h6, hr, hs] <;> simpa [*] using hu

/-- A unit in focus runs what the frame of a word gives it. -/
theorem State.withUnit_of {s : State} {uid : Nat} {u : Unit} (h : s.Issues uid u) (k : Nat → Unit → Out) : s.withUnit k = k uid u := by
  obtain ⟨hf, x, hx, ha, rfl⟩ := h
  simp [State.withUnit, hf, hx, ha]

/-- A word that passes its checks does what its meaning says. -/
theorem State.issueBy_of {s : State} {uid : Nat} {u : Unit} {sh : Unit → Shape} (h : s.Clear uid u (sh u)) (k : Nat → Unit → State) :
    s.issueBy sh k = .next (k uid (u.touchAll (sh u))) := by
  rw [State.issueBy, State.withUnit_of h.1, State.gate_go h.2]

theorem State.issue_of {s : State} {uid : Nat} {u : Unit} {sh : Shape} (h : s.Clear uid u sh) (k : Nat → Unit → State) :
    s.issue sh k = .next (k uid (u.touchAll sh)) := State.issueBy_of (sh := fun _ => sh) h k

/-- Without a decided abort a global access does what its meaning says. -/
theorem State.issueGlobal_of {s : State} {uid : Nat} {u : Unit} {sh : Shape} (h : s.Clear uid u sh) (hp : s.abortPending (u.touchAll sh) = false)
    (k : Nat → Unit → State) : s.issueGlobal sh k = .next (k uid (u.touchAll sh)) := by
  rw [State.issueGlobal, State.issue_of h]
  simp [hp]

/-- A lane operation of fixed latency that passes its checks. -/
theorem fixedOp_of {s : State} {uid : Nat} {u : Unit} {sh : Shape} (h : s.Clear uid u sh) (lat : Nat) (f : State → Unit → Nat → LaneRes) :
    fixedOp sh lat f s =
      let u' := u.touchAll sh
      let rows := u'.rows sh.guard (f s u')
      .next (s.retire uid (u'.writeFixed lat (laneWrites sh.dsts rows) (laneFlags rows)) sh) := State.issue_of h _

/-- A lane operation of variable latency that passes its checks. -/
theorem varOp_of {s : State} {uid : Nat} {u : Unit} {sh : Shape} (h : s.Clear uid u sh) (f : State → Unit → Nat → LaneRes) :
    varOp sh f s =
      let u' := u.touchAll sh
      let rows := u'.rows sh.guard (f s u')
      .next (s.retire uid (u'.writeVar (laneWrites sh.dsts rows) (laneFlags rows)) sh) := State.issue_of h _

/-- A group's registers are not cached: reading them changes nothing of it (R151 is for fragments). -/
theorem Unit.touchAll_group {u : Unit} (h : u.frag = none) (sh : Shape) : u.touchAll sh = u := by
  have go : ∀ rs : List (RegKind × Nat), rs.foldl (fun (a : Unit) (x : RegKind × Nat) =>
      if x.1 = .v ∧ (a.frag.elim false fun f => f.cache.any fun c => c.1 == x.2) = true then a.touch x.2 false else a) u = u := by
    intro rs
    induction rs with
    | nil => rfl
    | cons x xs ih => simp [h] at ih ⊢; exact ih
  simp [Unit.touchAll, go]

/-- R27: a trap of a unit with nothing of its own on its way is taken at once. -/
theorem State.raise_drained {s : State} {u : Unit} (h : u.drained = true) (uid len cause : Nat) (tval : W64) :
    s.raise uid u len cause tval =
      (s.setUnit uid { u with lastIssue := s.tick }).takeTrap uid cause tval ((u.pc + BitVec.ofNat 57 len).signExtend 64) := by
  simp [State.raise, h]

/-- R27: a trap of a group outside a handler, with a vector, does exactly this. -/
theorem State.takeTrap_vector {s : State} {uid : Nat} {u : Unit} {t : Team} (hu : s.unit? uid = some u) (ht : s.team? u.team = some t)
    (hf : u.frag = none) (hh : u.inHandler = false) (hv : t.desc.tvec ≠ 0) (cause : Nat) (tval next : W64) :
    s.takeTrap uid cause tval next = s.setUnit uid { u.landAll with
      tcause := BitVec.ofNat 8 cause
      tepc := if cause = 0x0F ∨ cause = 0x10 then next else u.pc.signExtend 64
      tval := tval
      inHandler := true
      pc := (t.desc.tvec &&& ~~~1#64).setWidth 57
      step := u.step + 1
      wait := .none
      synced := none } := by
  simp only [State.takeTrap, hu, ht, hf, hh, hv, Bool.false_eq_true, or_self, if_false]

/-- A step on one unit changes the list of units only. -/
theorem State.setUnit_eq (s : State) (uid : Nat) (u : Unit) : s.setUnit uid u = { s with units := (s.setUnit uid u).units } := rfl

/-- Marking dirty bits changes units only. -/
theorem State.markDirty_eq (s : State) (uid : Nat) (rs : List Nat) : s.markDirty uid rs = { s with units := (s.markDirty uid rs).units } := by
  unfold State.markDirty
  split
  · rfl
  · simp only
    split <;> rfl

/-- Marking dirty bits changes of each unit its dirty bits only. -/
theorem State.markDirty_unit? (s : State) (uid : Nat) (rs : List Nat) (k : Nat) {x : Unit} (h : s.unit? k = some x) :
    ∃ d, (s.markDirty uid rs).unit? k = some { x with dirty := d } := by
  have hx : some x = some { x with dirty := x.dirty } := rfl
  unfold State.markDirty
  split
  · exact ⟨x.dirty, h⟩
  · simp only
    split
    · rename_i f hf
      by_cases h1 : uid = k <;> by_cases h2 : f.parent = k <;> simp [State.unit?_modUnit, h, h1, h2] <;> exact ⟨_, rfl⟩
    · by_cases h1 : uid = k <;> simp [State.unit?_modUnit, h, h1] <;> exact ⟨_, rfl⟩

/-- R25, R151: another unit keeps its dirty bits too, unless it is the parent of a fragment thread that writes. -/
theorem State.markDirty_other (s : State) (uid : Nat) (rs : List Nat) {k : Nat} {x : Unit} (hk : k ≠ uid) (h : s.unit? k = some x)
    (hp : ∀ y f, s.unit? uid = some y → y.frag = some f → f.parent ≠ k) : (s.markDirty uid rs).unit? k = some x := by
  unfold State.markDirty
  split
  · exact h
  · simp only
    split
    · rename_i f hf
      cases hu : s.unit? uid with
      | none => simp [hu] at hf
      | some y => simp [hu] at hf; simp [State.unit?_modUnit, h, hk.symm, hp y f hu hf]
    · simp [State.unit?_modUnit, h, hk.symm]

@[simp] theorem State.length_setUnit (s : State) (uid : Nat) (u : Unit) : (s.setUnit uid u).units.length = s.units.length := length_modNth _ _ _

@[simp] theorem State.length_markDirty (s : State) (uid : Nat) (rs : List Nat) : (s.markDirty uid rs).units.length = s.units.length := by
  unfold State.markDirty State.modUnit
  split
  · rfl
  · simp only
    split <;> simp

/-- R15, R19, R25: a word that is done changes units only. -/
theorem State.retire_eq (s : State) (uid : Nat) (u : Unit) (sh : Shape) : s.retire uid u sh = { s with units := (s.retire uid u sh).units } := by
  unfold State.retire
  rw [State.markDirty_eq]
  rfl

@[simp] theorem State.length_retire (s : State) (uid : Nat) (u : Unit) (sh : Shape) : (s.retire uid u sh).units.length = s.units.length := by
  simp [State.retire]

/-- Its own unit stands behind it; but for dirty bits it is the unit the word made. -/
theorem State.retire_unit? {s : State} {uid : Nat} (h : (s.unit? uid).isSome) (u : Unit) (sh : Shape) :
    ∃ d, (s.retire uid u sh).unit? uid = some { u.advance sh.len sh.stall s.tick with dirty := d } := by
  obtain ⟨x, hx⟩ := Option.isSome_iff_exists.mp h
  exact State.markDirty_unit? _ _ _ _ (x := u.advance sh.len sh.stall s.tick) (by simp [State.unit?_setUnit, hx])

/-- Every other unit is as it was, a parent of a fragment thread but for dirty bits. -/
theorem State.retire_other (s : State) (uid : Nat) (u : Unit) (sh : Shape) {k : Nat} {x : Unit} (hk : k ≠ uid) (h : s.unit? k = some x) :
    ∃ d, (s.retire uid u sh).unit? k = some { x with dirty := d } ∧ ((∀ f, u.frag = some f → f.parent ≠ k) → d = x.dirty) := by
  have h' : (s.setUnit uid (u.advance sh.len sh.stall s.tick)).unit? k = some x := by simp [State.unit?_setUnit, h, hk.symm]
  by_cases hp : ∀ f, u.frag = some f → f.parent ≠ k
  · refine ⟨x.dirty, State.markDirty_other _ _ _ hk h' fun y f hy hf => ?_, fun _ => rfl⟩
    have hy2 : some y = (s.unit? uid).map fun _ => u.advance sh.len sh.stall s.tick := by rw [← hy]; simp [State.unit?_setUnit]
    cases hu : s.unit? uid with
    | none => simp [hu] at hy2
    | some z => simp [hu] at hy2; subst hy2; exact hp f hf
  · obtain ⟨d, hd⟩ := State.markDirty_unit? _ uid (vecDsts sh.dsts) k h'
    exact ⟨d, hd, fun h => absurd h hp⟩

end Sys2Proof.Machine
end

