-- ==== Sys2Proof/Laws/Sparse.lean ====
section
/-!
SUPPORT. The laws of sparse stores: a read after a write, writes that keep the canonical form, and equality of canonical stores that read alike.
-/

namespace Sys2Proof.Machine

theorem swfFrom_mono {w lo hi : Nat} : ∀ {m : Sparse w}, swfFrom hi m = true → lo ≤ hi → swfFrom lo m = true
  | [], _, _ => rfl
  | (k, v) :: rest, h, hle => by
    simp only [swfFrom, Bool.and_eq_true, decide_eq_true_eq] at h ⊢
    exact ⟨⟨Nat.le_trans hle h.1.1, h.1.2⟩, h.2⟩

theorem sget_of_lt {w lo a : Nat} : ∀ {m : Sparse w}, swfFrom lo m = true → a < lo → sget m a = 0
  | [], _, _ => rfl
  | (k, v) :: rest, h, hlt => by
    simp only [swfFrom, Bool.and_eq_true, decide_eq_true_eq] at h
    simp only [sget]
    rw [if_pos (Nat.lt_of_lt_of_le hlt h.1.1)]

theorem swfFrom_scons {w lo k : Nat} {v : BitVec w} {m : Sparse w} (h : swfFrom (k + 1) m = true) (hle : lo ≤ k) : swfFrom lo (scons k v m) = true := by
  unfold scons
  split
  · exact swfFrom_mono h (by omega)
  · rename_i hv
    simp only [swfFrom, Bool.and_eq_true, decide_eq_true_eq]
    exact ⟨⟨hle, hv⟩, h⟩

theorem swfFrom_sset {w lo a : Nat} {x : BitVec w} : ∀ {m : Sparse w}, swfFrom lo m = true → lo ≤ a → swfFrom lo (sset m a x) = true
  | [], _, hle => swfFrom_scons rfl hle
  | (k, v) :: rest, h, hle => by
    have h' := h
    simp only [swfFrom, Bool.and_eq_true, decide_eq_true_eq] at h
    simp only [sset]
    split
    · refine swfFrom_scons ?_ hle
      simp only [swfFrom, Bool.and_eq_true, decide_eq_true_eq]
      exact ⟨⟨by omega, h.1.2⟩, h.2⟩
    · split
      · subst a; exact swfFrom_scons h.2 hle
      · simp only [swfFrom, Bool.and_eq_true, decide_eq_true_eq]
        exact ⟨h.1, swfFrom_sset h.2 (by omega)⟩

/-- A write keeps the canonical form. -/
theorem swf_sset {w : Nat} {m : Sparse w} (h : swf m = true) (a : Nat) (x : BitVec w) : swf (sset m a x) = true := swfFrom_sset h (Nat.zero_le a)

/-- Writes of a list keep the canonical form. -/
theorem swf_ssetMany {w : Nat} : ∀ (vs : List (BitVec w)) {m : Sparse w} (a : Nat), swf m = true → swf (ssetMany m a vs) = true
  | [], _, _, h => h
  | v :: vs, _, a, h => swf_ssetMany vs (a + 1) (swf_sset h a v)

theorem swfFrom_sclear {w lo i j : Nat} : ∀ {m : Sparse w}, swfFrom lo m = true → swfFrom lo (sclear m i j) = true
  | [], h => h
  | (k, v) :: rest, h => by
    simp only [swfFrom, Bool.and_eq_true, decide_eq_true_eq] at h
    simp only [sclear]
    split
    · exact swfFrom_mono (swfFrom_sclear h.2) (by omega)
    · simp only [swfFrom, Bool.and_eq_true, decide_eq_true_eq]
      exact ⟨h.1, swfFrom_sclear h.2⟩

/-- Clearing a range keeps the canonical form. -/
theorem swf_sclear {w : Nat} {m : Sparse w} (h : swf m = true) (i j : Nat) : swf (sclear m i j) = true := swfFrom_sclear h

/-- A fold of steps that keep the canonical form keeps it. -/
theorem swf_foldl {w : Nat} {α : Type} (f : Sparse w → α → Sparse w) (hf : ∀ m x, swf m = true → swf (f m x) = true) :
    ∀ (xs : List α) {m : Sparse w}, swf m = true → swf (xs.foldl f m) = true
  | [], _, h => h
  | x :: xs, _, h => swf_foldl f hf xs (hf _ x h)

theorem sget_scons {w k a lo : Nat} {v : BitVec w} {m : Sparse w} (h : swfFrom lo m = true) (hlt : k < lo) :
    sget (scons k v m) a = if k = a then v else sget m a := by
  unfold scons
  split
  · split
    · subst a; rw [sget_of_lt h hlt]; simp [*]
    · rfl
  · simp only [sget]
    split
    · rw [if_neg (by omega), sget_of_lt h (by omega)]
    · rfl

theorem sget_sset_from {w lo a b : Nat} {x : BitVec w} : ∀ {m : Sparse w}, swfFrom lo m = true → sget (sset m a x) b = if a = b then x else sget m b
  | [], _ => by rw [sset, sget_scons (lo := a + 1) rfl (by omega)]
  | (k, v) :: rest, h => by
    simp only [swfFrom, Bool.and_eq_true, decide_eq_true_eq] at h
    simp only [sset]
    split
    · rw [sget_scons (lo := a + 1) _ (by omega)]
      simp only [swfFrom, Bool.and_eq_true, decide_eq_true_eq]
      exact ⟨⟨by omega, h.1.2⟩, h.2⟩
    · split
      · subst a
        rw [sget_scons h.2 (by omega)]
        simp only [sget]
        split
        · rfl
        · rename_i hne
          split
          · rename_i hlt
            exact sget_of_lt h.2 (by omega)
          · rfl
      · simp only [sget]
        rw [sget_sset_from h.2]
        split
        · rw [if_neg (by omega)]
        · split
          · rw [if_neg (by omega)]
          · rfl

/-- A read after a write: the value written at its key, and every other key as before. -/
theorem sget_sset {w : Nat} {m : Sparse w} (h : swf m = true) (a b : Nat) (x : BitVec w) : sget (sset m a x) b = if a = b then x else sget m b := sget_sset_from h

theorem sget_sset_same {w : Nat} {m : Sparse w} (h : swf m = true) (a : Nat) (x : BitVec w) : sget (sset m a x) a = x := by simp [sget_sset h]

theorem sget_sset_other {w : Nat} {m : Sparse w} (h : swf m = true) {a b : Nat} (x : BitVec w) (hne : a ≠ b) : sget (sset m a x) b = sget m b := by
  simp [sget_sset h, hne]

/-- A read after writes of a list at ascending keys. -/
theorem sget_ssetMany {w : Nat} : ∀ (vs : List (BitVec w)) {m : Sparse w} (a b : Nat), swf m = true →
    sget (ssetMany m a vs) b = if a ≤ b ∧ b < a + vs.length then vs.getD (b - a) 0 else sget m b
  | [], m, a, b, h => by simp only [ssetMany, List.length_nil]; rw [if_neg (by omega)]
  | v :: vs, m, a, b, h => by
    simp only [ssetMany]
    rw [sget_ssetMany vs (a + 1) b (swf_sset h a v), sget_sset h]
    simp only [List.length_cons]
    by_cases h1 : a = b
    · subst b; rw [if_neg (by omega), if_pos rfl, if_pos (by omega)]; simp
    · by_cases h2 : a + 1 ≤ b ∧ b < a + 1 + vs.length
      · rw [if_pos h2, if_pos (by omega), show b - a = (b - (a + 1)) + 1 by omega]; simp
      · rw [if_neg h2, if_neg h1, if_neg (by omega)]

theorem sget_sclear_from {w lo i j b : Nat} : ∀ {m : Sparse w}, swfFrom lo m = true → sget (sclear m i j) b = if i ≤ b ∧ b < j then 0 else sget m b
  | [], _ => by simp [sclear, sget]
  | (k, v) :: rest, h => by
    simp only [swfFrom, Bool.and_eq_true, decide_eq_true_eq] at h
    simp only [sclear]
    split
    · rename_i hk
      rw [sget_sclear_from h.2]
      simp only [sget]
      split
      · rfl
      · split
        · exact sget_of_lt h.2 (by omega)
        · rw [if_neg (by omega)]
    · rename_i hk
      simp only [sget]
      rw [sget_sclear_from h.2]
      split
      · split <;> rfl
      · split
        · subst b; rw [if_neg hk]
        · rfl

/-- A read after a range is cleared. -/
theorem sget_sclear {w : Nat} {m : Sparse w} (h : swf m = true) (i j b : Nat) : sget (sclear m i j) b = if i ≤ b ∧ b < j then 0 else sget m b :=
  sget_sclear_from h

end Sys2Proof.Machine
end

