-- ==== Sys2Proof/Laws/Memory.lean ====
section
/-!
SUPPORT. Every operation that writes a byte memory keeps its canonical form, a write reads back at its own bytes alone, and a clock stays near global time.
-/

namespace Sys2Proof.Machine

/-- A state whose four memories are those of another keeps their form. -/
theorem memoryOk_of_eq {s t : State} (h : s.MemoryOk) (h1 : t.mem = s.mem) (h2 : t.hostMem = s.hostMem) (h3 : t.sram = s.sram)
    (h4 : t.mailbox = s.mailbox) : t.MemoryOk := by
  obtain ⟨a, b, c, d⟩ := h
  exact ⟨h1 ▸ a, h2 ▸ b, h3 ▸ c, h4 ▸ d⟩

/-- The memories of reset are in canonical form. -/
theorem memoryOk_empty {s : State} (h1 : s.mem = []) (h2 : s.hostMem = []) (h3 : s.sram = []) (h4 : s.mailbox = []) : s.MemoryOk := by
  refine ⟨?_, ?_, ?_, ?_⟩ <;> simp only [Memory.wf, h1, h2, h3, h4] <;> rfl

theorem putMem_keeps {s : State} (h : s.MemoryOk) (pa : Nat) (bs : List Byte) : (s.putMem pa bs).MemoryOk :=
  ⟨swf_ssetMany bs pa h.1, h.2.1, h.2.2.1, h.2.2.2⟩

theorem hostWrite_keeps {s : State} (h : s.MemoryOk) (a : Nat) (bs : List Byte) : { s with hostMem := ssetMany s.hostMem a bs }.MemoryOk :=
  ⟨h.1, swf_ssetMany bs a h.2.1, h.2.2.1, h.2.2.2⟩

theorem mailboxWrite_keeps {s : State} (h : s.MemoryOk) (a : Nat) (bs : List Byte) : { s with mailbox := ssetMany s.mailbox a bs }.MemoryOk :=
  ⟨h.1, h.2.1, h.2.2.1, swf_ssetMany bs a h.2.2.2⟩

theorem lineKeys_keeps {s : State} (h : s.MemoryOk) (m : Sparse 513) : { s with lineKeys := m }.MemoryOk := h

theorem putKey_keeps {s : State} (h : s.MemoryOk) (slot pa : Nat) (bs : List Byte) : (s.putKey slot pa bs).MemoryOk := by
  unfold State.putKey
  refine lineKeys_keeps (putMem_keeps ?_ _ _) _
  split
  · exact h
  · exact putMem_keeps h _ _

theorem frameWrite_keeps {s : State} (h : s.MemoryOk) (x : Xlate) (size : Nat) (d : BitVec 128) (floor : Nat) :
    (s.frameWrite x size d floor).MemoryOk := by
  unfold State.frameWrite
  split
  · exact memoryOk_of_eq h rfl rfl rfl rfl
  · split
    · exact hostWrite_keeps h _ _
    · unfold State.raiseTowerStamp
      repeat' split
      all_goals exact putKey_keeps h x.attr.key x.pa (bytesOf size d.toNat)

theorem sramPut_keeps {s : State} (h : s.MemoryOk) (cluster addr : Nat) (bs : List Byte) : (s.sramPut cluster addr bs).MemoryOk :=
  ⟨h.1, h.2.1, swf_ssetMany bs _ h.2.2.1, h.2.2.2⟩

theorem sramZero_keeps {s : State} (h : s.MemoryOk) (cluster idx : Nat) : (s.sramZero cluster idx).MemoryOk :=
  ⟨h.1, h.2.1, swf_sclear h.2.2.1 _ _, h.2.2.2⟩

theorem sramWrite_keeps {s : State} (h : s.MemoryOk) (team cluster addr : Nat) (bs : List Byte) : (s.sramWrite team cluster addr bs).MemoryOk := by
  unfold State.sramWrite
  split
  · exact h
  · split
    · exact sramPut_keeps h _ _ _
    · exact memoryOk_of_eq (sramPut_keeps h cluster addr bs) rfl rfl rfl rfl

/-- The scratchpad bytes of an image go back to their banks. -/
theorem restoreSram_keeps {s : State} (h : s.MemoryOk) (cluster : Nat) (x : Sparse 8) :
    { s with sram := x.foldl (fun (m : Sparse 8) (y : Nat × Byte) => sset m (sramKey cluster y.1) y.2) s.sram }.MemoryOk :=
  ⟨h.1, h.2.1, swf_foldl _ (fun _ _ hm => swf_sset hm _ _) _ h.2.2.1, h.2.2.2⟩

/-- A list of operations that each keep the form keeps it. -/
theorem foldl_keeps {α : Type} (f : State → α → State) (hf : ∀ s x, s.MemoryOk → (f s x).MemoryOk) :
    ∀ (xs : List α) {s : State}, s.MemoryOk → (xs.foldl f s).MemoryOk
  | [], _, h => h
  | x :: xs, _, h => foldl_keeps f hf xs (hf _ x h)

theorem cleanL2_keeps {s : State} (h : s.MemoryOk) (asid line : Nat) : (s.cleanL2 asid line).MemoryOk := by
  unfold State.cleanL2
  split
  · exact h
  · exact foldl_keeps _ (fun _ _ hm => putKey_keeps hm _ _ _) _ h

theorem evictL2_keeps {s : State} (h : s.MemoryOk) (asid line : Nat) : (s.evictL2 asid line).MemoryOk := by
  unfold State.evictL2
  split
  · exact h
  · exact cleanL2_keeps h asid line

theorem nth_eq {α : Type} (d : α) : ∀ (xs : List α) (i : Nat), nth d xs i = xs.getD i d
  | [], _ => rfl
  | _ :: _, 0 => rfl
  | _ :: xs, i + 1 => by rw [nth, nth_eq d xs i]; rfl

/-- A byte of a tower after a write: the byte written there, or what it was. -/
theorem sget_putMem {s : State} (h : s.MemoryOk) (pa a : Nat) (bs : List Byte) :
    sget (s.putMem pa bs).mem a = if pa ≤ a ∧ a < pa + bs.length then nth 0 bs (a - pa) else sget s.mem a := by
  rw [State.putMem, sget_ssetMany bs pa a h.1]
  simp [nth_eq]

/-- A byte of scratchpad after a write. -/
theorem sget_sramPut {s : State} (h : s.MemoryOk) (cluster addr a : Nat) (bs : List Byte) :
    sget (s.sramPut cluster addr bs).sram a =
      if sramKey cluster addr ≤ a ∧ a < sramKey cluster addr + bs.length then nth 0 bs (a - sramKey cluster addr) else sget s.sram a := by
  rw [State.sramPut, sget_ssetMany bs _ a h.2.2.1]
  simp [nth_eq]

/-- R223, R402: while the device is in step, a clock is within 20 ns of global time. -/
theorem State.clock_near {s : State} (h : s.inStep = true) (k : Nat) : s.now ≤ s.clock k + 20 ∧ s.clock k ≤ s.now + 20 := by
  simp only [State.clock, h, if_true]
  omega

end Sys2Proof.Machine
end

