-- ==== Sys2Proof/Laws/PerInstr.lean ====
section
/-!
SUPPORT. The family of statements made of every instruction apart: its word decodes to it, with every operand at every value that the encoding admits.
-/

namespace Sys2Proof

theorem fieldsC16_bits (op : BitVec 4) (w : C16) :
    fieldsC16 ((bitsC16 op w).setWidth 64) = w ∧ ((bitsC16 op w).setWidth 64).extractLsb' 2 4 = op := by
  obtain ⟨b, d, s⟩ := w
  simp only [fieldsC16, bitsC16, C16.mk.injEq]
  refine ⟨⟨?_, ?_, ?_⟩, ?_⟩ <;> ext i hi <;> simp [BitVec.getElem_extractLsb', BitVec.getLsbD_setWidth] <;> grind

theorem fieldsB32_bits (m : BitVec 6) (w : B32) :
    fieldsB32 ((bitsB32 m w).setWidth 64) = w ∧ ((bitsB32 m w).setWidth 64).extractLsb' 5 6 = m := by
  obtain ⟨b, a, d, st⟩ := w
  simp only [fieldsB32, bitsB32, B32.mk.injEq]
  refine ⟨⟨?_, ?_, ?_, ?_⟩, ?_⟩ <;> ext i hi <;> simp [BitVec.getElem_extractLsb', BitVec.getLsbD_setWidth] <;> grind

theorem A64.ofHigh_high (w : A64) : A64.ofHigh w.high w.rd w.guard w.stall = w := by
  obtain ⟨rc, pb, rb, pa, ra, rd, g, st⟩ := w
  simp only [A64.ofHigh, A64.high, A64.mk.injEq]
  refine ⟨?_, ?_, ?_, ?_, ?_, trivial, trivial, trivial⟩ <;> ext i hi <;> simp [BitVec.getElem_extractLsb'] <;> grind

theorem A64.high_ofHigh (h : BitVec 37) (rd : BitVec 7) (g : BitVec 4) (st : BitVec 3) : (A64.ofHigh h rd g st).high = h := by
  ext i hi
  simp only [A64.ofHigh, A64.high]
  grind

theorem fieldsA64_bits (c : BitVec 5) (o : BitVec 6) (w : A64) :
    fieldsA64 (bitsA64 c o w) = w ∧ (bitsA64 c o w).extractLsb' 11 5 = c ∧ (bitsA64 c o w).extractLsb' 5 6 = o := by
  have h1 : (bitsA64 c o w).extractLsb' 27 37 = w.high := by
    ext i hi; simp [bitsA64, BitVec.getElem_extractLsb']; grind
  have h2 : (bitsA64 c o w).extractLsb' 20 7 = w.rd := by
    ext i hi; simp [bitsA64, BitVec.getElem_extractLsb']; grind
  have h3 : (bitsA64 c o w).extractLsb' 16 4 = w.guard := by
    ext i hi; simp [bitsA64, BitVec.getElem_extractLsb']; grind
  have h4 : (bitsA64 c o w).extractLsb' 2 3 = w.stall := by
    ext i hi; simp [bitsA64, BitVec.getElem_extractLsb']; grind
  refine ⟨?_, ?_, ?_⟩
  · rw [fieldsA64, h1, h2, h3, h4, A64.ofHigh_high]
  · ext i hi; simp [bitsA64, BitVec.getElem_extractLsb']; grind
  · ext i hi; simp [bitsA64, BitVec.getElem_extractLsb']; grind

theorem AI.toAI_toA64 (w : AI) : w.toA64.aiHigh = 0 ∧ w.toA64.toAI = w := by
  obtain ⟨imm, rd, g, st⟩ := w
  simp only [A64.aiHigh, A64.toAI, AI.toA64, A64.high_ofHigh]
  refine ⟨?_, ?_⟩
  · ext i hi; simp; grind
  · simp only [A64.ofHigh, AI.mk.injEq, and_true]
    ext i hi; simp; grind

theorem AM.toAM_toA64 (w : AM) : w.toA64.toAM w.mode w.code = w := by
  obtain ⟨mode, code, off, scope, rtype, scale, vindex, sbase, rd, g, st⟩ := w
  simp only [A64.toAM, AM.toA64, A64.high_ofHigh]
  simp only [A64.ofHigh, AM.mk.injEq, and_true, true_and]
  refine ⟨?_, ?_, ?_, ?_, ?_, ?_⟩ <;> ext i hi <;> simp <;> grind

theorem AMT.toAMT_toA64 (w : AMT) : w.toA64.toAMT w.code = w := by
  obtain ⟨code, off, ety, mode, scope, rtype, scale, vindex, sbase, rd, g, st⟩ := w
  simp only [A64.toAMT, AMT.toA64, A64.high_ofHigh]
  simp only [A64.ofHigh, AMT.mk.injEq, and_true, true_and]
  refine ⟨?_, ?_, ?_, ?_, ?_, ?_, ?_, ?_⟩ <;> ext i hi <;> simp <;> grind

theorem modeCode (m : BitVec 2) (c : BitVec 4) : (m ++ c).extractLsb' 4 2 = m ∧ (m ++ c).extractLsb' 0 4 = c := by
  refine ⟨?_, ?_⟩ <;> ext i hi <;> simp <;> grind

theorem decodeWord_c16 {op : BitVec 4} {w : C16} {i : Instr} (h : decodeC16 op w = i) (hw : i.wf = true) (hz : (bitsC16 op w).setWidth 64 ≠ 0) :
    decodeWord 2 ((bitsC16 op w).setWidth 64) = .ok i := by
  have hf := fieldsC16_bits op w
  simp only [decodeWord, decodeFields, hz, and_false, if_false, hf.1, hf.2, h, hw, if_true]

theorem decodeWord_b32 {m : BitVec 6} {w : B32} {i : Instr} (h : decodeB32 m w = i) (hw : i.wf = true) :
    decodeWord 4 ((bitsB32 m w).setWidth 64) = .ok i := by
  have hf := fieldsB32_bits m w
  simp [decodeWord, decodeFields, hf.1, hf.2, h, hw]

theorem decodeWord_a64 {c : BitVec 5} {o : BitVec 6} {w : A64} {i : Instr} (h : decodeA64 c o w = some i) (hw : i.wf = true) :
    decodeWord 8 (bitsA64 c o w) = .ok i := by
  have hf := fieldsA64_bits c o w
  simp [decodeWord, decodeFields, hf.1, hf.2.1, hf.2.2, h, hw]

/-- A C16 word whose op or fields are not all zero is not the zero parcel. -/
theorem bitsC16_ne {op : BitVec 4} {w : C16} (h : op ≠ 0 ∨ w.b ≠ 0 ∨ w.d ≠ 0 ∨ w.s ≠ 0) : (bitsC16 op w).setWidth 64 ≠ 0 := by
  intro hz
  have hf := fieldsC16_bits op w
  rw [hz] at hf
  obtain ⟨hw, ho⟩ := hf
  rw [← hw, ← ho] at h
  exact absurd h (by decide)

theorem bit_cases : ∀ b : BitVec 1, b = 0 ∨ b = 1 := by decide

theorem code_cases : ∀ r : BitVec 3, r = 0 ∨ r = 1 ∨ r = 2 ∨ r = 3 ∨ r = 4 ∨ r = 5 ∨ r = 6 ∨ r = 7 := by decide

/-- The word of an instruction decodes to it. -/
def Laws.RoundTrip.Statement (i : Instr) : Prop := i.wf = true → i.raw ≠ .none → decodeWord i.raw.len i.raw.bits = .ok i

theorem Laws.RoundTrip.movB32C16 (w : C16) : Laws.RoundTrip.Statement (.movB32C16 w) := by
  intro h _
  refine decodeWord_c16 rfl h (bitsC16_ne ?_)
  simp only [Instr.wf, Bool.not_eq_true', Bool.and_eq_false_iff, beq_eq_false_iff_ne] at h
  rcases h with (h | h) | h
  · exact .inr (.inl h)
  · exact .inr (.inr (.inl h))
  · exact .inr (.inr (.inr h))

theorem Laws.RoundTrip.addS32C16 (w : C16) : Laws.RoundTrip.Statement (.addS32C16 w) := fun h _ => decodeWord_c16 rfl h (bitsC16_ne (.inl (by decide)))

theorem Laws.RoundTrip.subS32C16 (w : C16) : Laws.RoundTrip.Statement (.subS32C16 w) := fun h _ => decodeWord_c16 rfl h (bitsC16_ne (.inl (by decide)))

theorem Laws.RoundTrip.andB32C16 (w : C16) : Laws.RoundTrip.Statement (.andB32C16 w) := fun h _ => decodeWord_c16 rfl h (bitsC16_ne (.inl (by decide)))

theorem Laws.RoundTrip.orB32C16 (w : C16) : Laws.RoundTrip.Statement (.orB32C16 w) := fun h _ => decodeWord_c16 rfl h (bitsC16_ne (.inl (by decide)))

theorem Laws.RoundTrip.xorB32C16 (w : C16) : Laws.RoundTrip.Statement (.xorB32C16 w) := fun h _ => decodeWord_c16 rfl h (bitsC16_ne (.inl (by decide)))

theorem Laws.RoundTrip.shlB32C16 (w : C16) : Laws.RoundTrip.Statement (.shlB32C16 w) := fun h _ => decodeWord_c16 rfl h (bitsC16_ne (.inl (by decide)))

theorem Laws.RoundTrip.shrB32C16 (w : C16) : Laws.RoundTrip.Statement (.shrB32C16 w) := fun h _ => decodeWord_c16 rfl h (bitsC16_ne (.inl (by decide)))

theorem Laws.RoundTrip.sarB32C16 (w : C16) : Laws.RoundTrip.Statement (.sarB32C16 w) := fun h _ => decodeWord_c16 rfl h (bitsC16_ne (.inl (by decide)))

theorem Laws.RoundTrip.minS32C16 (w : C16) : Laws.RoundTrip.Statement (.minS32C16 w) := fun h _ => decodeWord_c16 rfl h (bitsC16_ne (.inl (by decide)))

theorem Laws.RoundTrip.maxS32C16 (w : C16) : Laws.RoundTrip.Statement (.maxS32C16 w) := fun h _ => decodeWord_c16 rfl h (bitsC16_ne (.inl (by decide)))

theorem Laws.RoundTrip.faddF32C16 (w : C16) : Laws.RoundTrip.Statement (.faddF32C16 w) := fun h _ => decodeWord_c16 rfl h (bitsC16_ne (.inl (by decide)))

theorem Laws.RoundTrip.fsubF32C16 (w : C16) : Laws.RoundTrip.Statement (.fsubF32C16 w) := fun h _ => decodeWord_c16 rfl h (bitsC16_ne (.inl (by decide)))

theorem Laws.RoundTrip.fmulF32C16 (w : C16) : Laws.RoundTrip.Statement (.fmulF32C16 w) := fun h _ => decodeWord_c16 rfl h (bitsC16_ne (.inl (by decide)))

theorem Laws.RoundTrip.fminF32C16 (w : C16) : Laws.RoundTrip.Statement (.fminF32C16 w) := fun h _ => decodeWord_c16 rfl h (bitsC16_ne (.inl (by decide)))

theorem Laws.RoundTrip.fmaxF32C16 (w : C16) : Laws.RoundTrip.Statement (.fmaxF32C16 w) := fun h _ => decodeWord_c16 rfl h (bitsC16_ne (.inl (by decide)))

theorem Laws.RoundTrip.addS32B32 (w : B32) : Laws.RoundTrip.Statement (.addS32B32 w) := fun h _ => decodeWord_b32 rfl h

theorem Laws.RoundTrip.addS32ImmB32 (w : B32) : Laws.RoundTrip.Statement (.addS32ImmB32 w) := fun h _ => decodeWord_b32 rfl h

theorem Laws.RoundTrip.subS32B32 (w : B32) : Laws.RoundTrip.Statement (.subS32B32 w) := fun h _ => decodeWord_b32 rfl h

theorem Laws.RoundTrip.subS32ImmB32 (w : B32) : Laws.RoundTrip.Statement (.subS32ImmB32 w) := fun h _ => decodeWord_b32 rfl h

theorem Laws.RoundTrip.minS32B32 (w : B32) : Laws.RoundTrip.Statement (.minS32B32 w) := fun h _ => decodeWord_b32 rfl h

theorem Laws.RoundTrip.maxS32B32 (w : B32) : Laws.RoundTrip.Statement (.maxS32B32 w) := fun h _ => decodeWord_b32 rfl h

theorem Laws.RoundTrip.minN32B32 (w : B32) : Laws.RoundTrip.Statement (.minN32B32 w) := fun h _ => decodeWord_b32 rfl h

theorem Laws.RoundTrip.maxN32B32 (w : B32) : Laws.RoundTrip.Statement (.maxN32B32 w) := fun h _ => decodeWord_b32 rfl h

theorem Laws.RoundTrip.absS32B32 (w : B32) : Laws.RoundTrip.Statement (.absS32B32 w) := fun h _ => decodeWord_b32 rfl h

theorem Laws.RoundTrip.addSatS32B32 (w : B32) : Laws.RoundTrip.Statement (.addSatS32B32 w) := fun h _ => decodeWord_b32 rfl h

theorem Laws.RoundTrip.mulLoS32B32 (w : B32) : Laws.RoundTrip.Statement (.mulLoS32B32 w) := fun h _ => decodeWord_b32 rfl h

theorem Laws.RoundTrip.mulHiN32B32 (w : B32) : Laws.RoundTrip.Statement (.mulHiN32B32 w) := fun h _ => decodeWord_b32 rfl h

theorem Laws.RoundTrip.madLoS32B32 (w : B32) : Laws.RoundTrip.Statement (.madLoS32B32 w) := fun h _ => decodeWord_b32 rfl h

theorem Laws.RoundTrip.dp4S8B32 (w : B32) : Laws.RoundTrip.Statement (.dp4S8B32 w) := fun h _ => decodeWord_b32 rfl h

theorem Laws.RoundTrip.andB32B32 (w : B32) : Laws.RoundTrip.Statement (.andB32B32 w) := fun h _ => decodeWord_b32 rfl h

theorem Laws.RoundTrip.orB32B32 (w : B32) : Laws.RoundTrip.Statement (.orB32B32 w) := fun h _ => decodeWord_b32 rfl h

theorem Laws.RoundTrip.xorB32B32 (w : B32) : Laws.RoundTrip.Statement (.xorB32B32 w) := fun h _ => decodeWord_b32 rfl h

theorem Laws.RoundTrip.andnB32B32 (w : B32) : Laws.RoundTrip.Statement (.andnB32B32 w) := fun h _ => decodeWord_b32 rfl h

theorem Laws.RoundTrip.andB32ImmB32 (w : B32) : Laws.RoundTrip.Statement (.andB32ImmB32 w) := fun h _ => decodeWord_b32 rfl h

theorem Laws.RoundTrip.orB32ImmB32 (w : B32) : Laws.RoundTrip.Statement (.orB32ImmB32 w) := fun h _ => decodeWord_b32 rfl h

theorem Laws.RoundTrip.notB32B32 (w : B32) : Laws.RoundTrip.Statement (.notB32B32 w) := fun h _ => decodeWord_b32 rfl h

theorem Laws.RoundTrip.shlB32B32 (w : B32) : Laws.RoundTrip.Statement (.shlB32B32 w) := fun h _ => decodeWord_b32 rfl h

theorem Laws.RoundTrip.shrB32B32 (w : B32) : Laws.RoundTrip.Statement (.shrB32B32 w) := fun h _ => decodeWord_b32 rfl h

theorem Laws.RoundTrip.sarB32B32 (w : B32) : Laws.RoundTrip.Statement (.sarB32B32 w) := fun h _ => decodeWord_b32 rfl h

theorem Laws.RoundTrip.shlB32ImmB32 (w : B32) : Laws.RoundTrip.Statement (.shlB32ImmB32 w) := fun h _ => decodeWord_b32 rfl h

theorem Laws.RoundTrip.shrB32ImmB32 (w : B32) : Laws.RoundTrip.Statement (.shrB32ImmB32 w) := fun h _ => decodeWord_b32 rfl h

theorem Laws.RoundTrip.sarB32ImmB32 (w : B32) : Laws.RoundTrip.Statement (.sarB32ImmB32 w) := fun h _ => decodeWord_b32 rfl h

theorem Laws.RoundTrip.popcB32B32 (w : B32) : Laws.RoundTrip.Statement (.popcB32B32 w) := fun h _ => decodeWord_b32 rfl h

theorem Laws.RoundTrip.popcLoB32B32 (w : B32) : Laws.RoundTrip.Statement (.popcLoB32B32 w) := fun h _ => decodeWord_b32 rfl h

theorem Laws.RoundTrip.clzB32B32 (w : B32) : Laws.RoundTrip.Statement (.clzB32B32 w) := fun h _ => decodeWord_b32 rfl h

theorem Laws.RoundTrip.hcellB32 (w : B32) : Laws.RoundTrip.Statement (.hcellB32 w) := fun h _ => decodeWord_b32 rfl h

theorem Laws.RoundTrip.movB32B32 (w : B32) : Laws.RoundTrip.Statement (.movB32B32 w) := fun h _ => decodeWord_b32 rfl h

theorem Laws.RoundTrip.cmpEqS32B32 (w : B32) : Laws.RoundTrip.Statement (.cmpEqS32B32 w) := fun h _ => decodeWord_b32 rfl h

theorem Laws.RoundTrip.cmpLtS32B32 (w : B32) : Laws.RoundTrip.Statement (.cmpLtS32B32 w) := fun h _ => decodeWord_b32 rfl h

theorem Laws.RoundTrip.cmpLtN32B32 (w : B32) : Laws.RoundTrip.Statement (.cmpLtN32B32 w) := fun h _ => decodeWord_b32 rfl h

theorem Laws.RoundTrip.cmpGeS32B32 (w : B32) : Laws.RoundTrip.Statement (.cmpGeS32B32 w) := fun h _ => decodeWord_b32 rfl h

theorem Laws.RoundTrip.fcmpLtF32B32 (w : B32) : Laws.RoundTrip.Statement (.fcmpLtF32B32 w) := fun h _ => decodeWord_b32 rfl h

theorem Laws.RoundTrip.fcmpGeF32B32 (w : B32) : Laws.RoundTrip.Statement (.fcmpGeF32B32 w) := fun h _ => decodeWord_b32 rfl h

theorem Laws.RoundTrip.faddF32B32 (w : B32) : Laws.RoundTrip.Statement (.faddF32B32 w) := fun h _ => decodeWord_b32 rfl h

theorem Laws.RoundTrip.fsubF32B32 (w : B32) : Laws.RoundTrip.Statement (.fsubF32B32 w) := fun h _ => decodeWord_b32 rfl h

theorem Laws.RoundTrip.fmulF32B32 (w : B32) : Laws.RoundTrip.Statement (.fmulF32B32 w) := fun h _ => decodeWord_b32 rfl h

theorem Laws.RoundTrip.ffmaF32B32 (w : B32) : Laws.RoundTrip.Statement (.ffmaF32B32 w) := fun h _ => decodeWord_b32 rfl h

theorem Laws.RoundTrip.fminF32B32 (w : B32) : Laws.RoundTrip.Statement (.fminF32B32 w) := fun h _ => decodeWord_b32 rfl h

theorem Laws.RoundTrip.fmaxF32B32 (w : B32) : Laws.RoundTrip.Statement (.fmaxF32B32 w) := fun h _ => decodeWord_b32 rfl h

theorem Laws.RoundTrip.fabsF32B32 (w : B32) : Laws.RoundTrip.Statement (.fabsF32B32 w) := fun h _ => decodeWord_b32 rfl h

theorem Laws.RoundTrip.fnegF32B32 (w : B32) : Laws.RoundTrip.Statement (.fnegF32B32 w) := fun h _ => decodeWord_b32 rfl h

theorem Laws.RoundTrip.faddF16x2B32 (w : B32) : Laws.RoundTrip.Statement (.faddF16x2B32 w) := fun h _ => decodeWord_b32 rfl h

theorem Laws.RoundTrip.fmulF16x2B32 (w : B32) : Laws.RoundTrip.Statement (.fmulF16x2B32 w) := fun h _ => decodeWord_b32 rfl h

theorem Laws.RoundTrip.ffmaF16x2B32 (w : B32) : Laws.RoundTrip.Statement (.ffmaF16x2B32 w) := fun h _ => decodeWord_b32 rfl h

theorem Laws.RoundTrip.faddBf16x2B32 (w : B32) : Laws.RoundTrip.Statement (.faddBf16x2B32 w) := fun h _ => decodeWord_b32 rfl h

theorem Laws.RoundTrip.fmulBf16x2B32 (w : B32) : Laws.RoundTrip.Statement (.fmulBf16x2B32 w) := fun h _ => decodeWord_b32 rfl h

theorem Laws.RoundTrip.ffmaBf16x2B32 (w : B32) : Laws.RoundTrip.Statement (.ffmaBf16x2B32 w) := fun h _ => decodeWord_b32 rfl h

theorem Laws.RoundTrip.faddF64B32 (w : B32) : Laws.RoundTrip.Statement (.faddF64B32 w) := fun h _ => decodeWord_b32 rfl h

theorem Laws.RoundTrip.fmulF64B32 (w : B32) : Laws.RoundTrip.Statement (.fmulF64B32 w) := fun h _ => decodeWord_b32 rfl h

theorem Laws.RoundTrip.ffmaF64B32 (w : B32) : Laws.RoundTrip.Statement (.ffmaF64B32 w) := fun h _ => decodeWord_b32 rfl h

theorem Laws.RoundTrip.cvtF32S32B32 (w : B32) : Laws.RoundTrip.Statement (.cvtF32S32B32 w) := fun h _ => decodeWord_b32 rfl h

theorem Laws.RoundTrip.cvtRzS32F32B32 (w : B32) : Laws.RoundTrip.Statement (.cvtRzS32F32B32 w) := fun h _ => decodeWord_b32 rfl h

theorem Laws.RoundTrip.frcpF32B32 (w : B32) : Laws.RoundTrip.Statement (.frcpF32B32 w) := fun h _ => decodeWord_b32 rfl h

theorem Laws.RoundTrip.frsqF32B32 (w : B32) : Laws.RoundTrip.Statement (.frsqF32B32 w) := fun h _ => decodeWord_b32 rfl h

theorem Laws.RoundTrip.fexp2F32B32 (w : B32) : Laws.RoundTrip.Statement (.fexp2F32B32 w) := fun h _ => decodeWord_b32 rfl h

theorem Laws.RoundTrip.flog2F32B32 (w : B32) : Laws.RoundTrip.Statement (.flog2F32B32 w) := fun h _ => decodeWord_b32 rfl h

theorem Laws.RoundTrip.sAddB32 (w : B32) : Laws.RoundTrip.Statement (.sAddB32 w) := fun h _ => decodeWord_b32 rfl h

theorem Laws.RoundTrip.sAddImmB32 (w : B32) : Laws.RoundTrip.Statement (.sAddImmB32 w) := fun h _ => decodeWord_b32 rfl h

theorem Laws.RoundTrip.sMovB32 (w : B32) : Laws.RoundTrip.Statement (.sMovB32 w) := fun h _ => decodeWord_b32 rfl h

theorem Laws.RoundTrip.add (w : A64) : Laws.RoundTrip.Statement (.add w) := fun h _ => decodeWord_a64 rfl h

theorem Laws.RoundTrip.sub (w : A64) : Laws.RoundTrip.Statement (.sub w) := fun h _ => decodeWord_a64 rfl h

theorem Laws.RoundTrip.addc (w : A64) : Laws.RoundTrip.Statement (.addc w) := fun h _ => decodeWord_a64 rfl h

theorem Laws.RoundTrip.subb (w : A64) : Laws.RoundTrip.Statement (.subb w) := fun h _ => decodeWord_a64 rfl h

theorem Laws.RoundTrip.addSatS32 (w : A64) : Laws.RoundTrip.Statement (.addSatS32 w) := fun h _ => decodeWord_a64 rfl h

theorem Laws.RoundTrip.addSatN32 (w : A64) : Laws.RoundTrip.Statement (.addSatN32 w) := fun h _ => decodeWord_a64 rfl h

theorem Laws.RoundTrip.subSatS32 (w : A64) : Laws.RoundTrip.Statement (.subSatS32 w) := fun h _ => decodeWord_a64 rfl h

theorem Laws.RoundTrip.subSatN32 (w : A64) : Laws.RoundTrip.Statement (.subSatN32 w) := fun h _ => decodeWord_a64 rfl h

theorem Laws.RoundTrip.minS32 (w : A64) : Laws.RoundTrip.Statement (.minS32 w) := fun h _ => decodeWord_a64 rfl h

theorem Laws.RoundTrip.minN32 (w : A64) : Laws.RoundTrip.Statement (.minN32 w) := fun h _ => decodeWord_a64 rfl h

theorem Laws.RoundTrip.maxS32 (w : A64) : Laws.RoundTrip.Statement (.maxS32 w) := fun h _ => decodeWord_a64 rfl h

theorem Laws.RoundTrip.maxN32 (w : A64) : Laws.RoundTrip.Statement (.maxN32 w) := fun h _ => decodeWord_a64 rfl h

theorem Laws.RoundTrip.absS32 (w : A64) : Laws.RoundTrip.Statement (.absS32 w) := fun h _ => decodeWord_a64 rfl h

theorem Laws.RoundTrip.negS32 (w : A64) : Laws.RoundTrip.Statement (.negS32 w) := fun h _ => decodeWord_a64 rfl h

theorem Laws.RoundTrip.addB64 (w : A64) : Laws.RoundTrip.Statement (.addB64 w) := fun h _ => decodeWord_a64 rfl h

theorem Laws.RoundTrip.subB64 (w : A64) : Laws.RoundTrip.Statement (.subB64 w) := fun h _ => decodeWord_a64 rfl h

theorem Laws.RoundTrip.minS64 (w : A64) : Laws.RoundTrip.Statement (.minS64 w) := fun h _ => decodeWord_a64 rfl h

theorem Laws.RoundTrip.minN64 (w : A64) : Laws.RoundTrip.Statement (.minN64 w) := fun h _ => decodeWord_a64 rfl h

theorem Laws.RoundTrip.maxS64 (w : A64) : Laws.RoundTrip.Statement (.maxS64 w) := fun h _ => decodeWord_a64 rfl h

theorem Laws.RoundTrip.maxN64 (w : A64) : Laws.RoundTrip.Statement (.maxN64 w) := fun h _ => decodeWord_a64 rfl h

theorem Laws.RoundTrip.mulLo (w : A64) : Laws.RoundTrip.Statement (.mulLo w) := fun h _ => decodeWord_a64 rfl h

theorem Laws.RoundTrip.mulHiS32 (w : A64) : Laws.RoundTrip.Statement (.mulHiS32 w) := fun h _ => decodeWord_a64 rfl h

theorem Laws.RoundTrip.mulHiN32 (w : A64) : Laws.RoundTrip.Statement (.mulHiN32 w) := fun h _ => decodeWord_a64 rfl h

theorem Laws.RoundTrip.madLo (w : A64) : Laws.RoundTrip.Statement (.madLo w) := fun h _ => decodeWord_a64 rfl h

theorem Laws.RoundTrip.madHiS32 (w : A64) : Laws.RoundTrip.Statement (.madHiS32 w) := fun h _ => decodeWord_a64 rfl h

theorem Laws.RoundTrip.madHiN32 (w : A64) : Laws.RoundTrip.Statement (.madHiN32 w) := fun h _ => decodeWord_a64 rfl h

theorem Laws.RoundTrip.divS32 (w : A64) : Laws.RoundTrip.Statement (.divS32 w) := fun h _ => decodeWord_a64 rfl h

theorem Laws.RoundTrip.divN32 (w : A64) : Laws.RoundTrip.Statement (.divN32 w) := fun h _ => decodeWord_a64 rfl h

theorem Laws.RoundTrip.remS32 (w : A64) : Laws.RoundTrip.Statement (.remS32 w) := fun h _ => decodeWord_a64 rfl h

theorem Laws.RoundTrip.remN32 (w : A64) : Laws.RoundTrip.Statement (.remN32 w) := fun h _ => decodeWord_a64 rfl h

theorem Laws.RoundTrip.dp4S8 (w : A64) : Laws.RoundTrip.Statement (.dp4S8 w) := fun h _ => decodeWord_a64 rfl h

theorem Laws.RoundTrip.dp4N8 (w : A64) : Laws.RoundTrip.Statement (.dp4N8 w) := fun h _ => decodeWord_a64 rfl h

theorem Laws.RoundTrip.and (w : A64) : Laws.RoundTrip.Statement (.and w) := fun h _ => decodeWord_a64 rfl h

theorem Laws.RoundTrip.or (w : A64) : Laws.RoundTrip.Statement (.or w) := fun h _ => decodeWord_a64 rfl h

theorem Laws.RoundTrip.xor (w : A64) : Laws.RoundTrip.Statement (.xor w) := fun h _ => decodeWord_a64 rfl h

theorem Laws.RoundTrip.andn (w : A64) : Laws.RoundTrip.Statement (.andn w) := fun h _ => decodeWord_a64 rfl h

theorem Laws.RoundTrip.not (w : A64) : Laws.RoundTrip.Statement (.not w) := fun h _ => decodeWord_a64 rfl h

theorem Laws.RoundTrip.shl (w : A64) : Laws.RoundTrip.Statement (.shl w) := fun h _ => decodeWord_a64 rfl h

theorem Laws.RoundTrip.shr (w : A64) : Laws.RoundTrip.Statement (.shr w) := fun h _ => decodeWord_a64 rfl h

theorem Laws.RoundTrip.sar (w : A64) : Laws.RoundTrip.Statement (.sar w) := fun h _ => decodeWord_a64 rfl h

theorem Laws.RoundTrip.rol (w : A64) : Laws.RoundTrip.Statement (.rol w) := fun h _ => decodeWord_a64 rfl h

theorem Laws.RoundTrip.bfeS32 (w : A64) : Laws.RoundTrip.Statement (.bfeS32 w) := fun h _ => decodeWord_a64 rfl h

theorem Laws.RoundTrip.bfeN32 (w : A64) : Laws.RoundTrip.Statement (.bfeN32 w) := fun h _ => decodeWord_a64 rfl h

theorem Laws.RoundTrip.bfi (w : A64) : Laws.RoundTrip.Statement (.bfi w) := fun h _ => decodeWord_a64 rfl h

theorem Laws.RoundTrip.brev (w : A64) : Laws.RoundTrip.Statement (.brev w) := fun h _ => decodeWord_a64 rfl h

theorem Laws.RoundTrip.popc (w : A64) : Laws.RoundTrip.Statement (.popc w) := fun h _ => decodeWord_a64 rfl h

theorem Laws.RoundTrip.popcLo (w : A64) : Laws.RoundTrip.Statement (.popcLo w) := fun h _ => decodeWord_a64 rfl h

theorem Laws.RoundTrip.clz (w : A64) : Laws.RoundTrip.Statement (.clz w) := fun h _ => decodeWord_a64 rfl h

theorem Laws.RoundTrip.ctz (w : A64) : Laws.RoundTrip.Statement (.ctz w) := fun h _ => decodeWord_a64 rfl h

theorem Laws.RoundTrip.hcell (w : A64) : Laws.RoundTrip.Statement (.hcell w) := fun h _ => decodeWord_a64 rfl h

theorem Laws.RoundTrip.shlB64 (w : A64) : Laws.RoundTrip.Statement (.shlB64 w) := fun h _ => decodeWord_a64 rfl h

theorem Laws.RoundTrip.shrB64 (w : A64) : Laws.RoundTrip.Statement (.shrB64 w) := fun h _ => decodeWord_a64 rfl h

theorem Laws.RoundTrip.sarB64 (w : A64) : Laws.RoundTrip.Statement (.sarB64 w) := fun h _ => decodeWord_a64 rfl h

theorem Laws.RoundTrip.cmp (w : A64) : Laws.RoundTrip.Statement (.cmp w) := fun h _ => decodeWord_a64 rfl h

theorem Laws.RoundTrip.fcmp (w : A64) : Laws.RoundTrip.Statement (.fcmp w) := fun h _ => decodeWord_a64 rfl h

theorem Laws.RoundTrip.sel (w : A64) : Laws.RoundTrip.Statement (.sel w) := fun h _ => decodeWord_a64 rfl h

theorem Laws.RoundTrip.mov (w : A64) : Laws.RoundTrip.Statement (.mov w) := fun h _ => decodeWord_a64 rfl h

theorem Laws.RoundTrip.li (w : AI) : Laws.RoundTrip.Statement (.li w) := by
  intro h _
  refine decodeWord_a64 ?_ h
  simp [decodeA64, decodeClass3, AI.toAI_toA64]

theorem Laws.RoundTrip.pand (w : A64) : Laws.RoundTrip.Statement (.pand w) := fun h _ => decodeWord_a64 rfl h

theorem Laws.RoundTrip.por (w : A64) : Laws.RoundTrip.Statement (.por w) := fun h _ => decodeWord_a64 rfl h

theorem Laws.RoundTrip.pxor (w : A64) : Laws.RoundTrip.Statement (.pxor w) := fun h _ => decodeWord_a64 rfl h

theorem Laws.RoundTrip.pnot (w : A64) : Laws.RoundTrip.Statement (.pnot w) := fun h _ => decodeWord_a64 rfl h

theorem Laws.RoundTrip.faddF32 (w : A64) : Laws.RoundTrip.Statement (.faddF32 w) := fun h _ => decodeWord_a64 rfl h

theorem Laws.RoundTrip.fsubF32 (w : A64) : Laws.RoundTrip.Statement (.fsubF32 w) := fun h _ => decodeWord_a64 rfl h

theorem Laws.RoundTrip.fmulF32 (w : A64) : Laws.RoundTrip.Statement (.fmulF32 w) := fun h _ => decodeWord_a64 rfl h

theorem Laws.RoundTrip.fdivF32 (w : A64) : Laws.RoundTrip.Statement (.fdivF32 w) := fun h _ => decodeWord_a64 rfl h

theorem Laws.RoundTrip.fsqrtF32 (w : A64) : Laws.RoundTrip.Statement (.fsqrtF32 w) := fun h _ => decodeWord_a64 rfl h

theorem Laws.RoundTrip.frndF32 (w : A64) : Laws.RoundTrip.Statement (.frndF32 w) := fun h _ => decodeWord_a64 rfl h

theorem Laws.RoundTrip.ldexpF32 (w : A64) : Laws.RoundTrip.Statement (.ldexpF32 w) := fun h _ => decodeWord_a64 rfl h

theorem Laws.RoundTrip.fminF32 (w : A64) : Laws.RoundTrip.Statement (.fminF32 w) := fun h _ => decodeWord_a64 rfl h

theorem Laws.RoundTrip.fmaxF32 (w : A64) : Laws.RoundTrip.Statement (.fmaxF32 w) := fun h _ => decodeWord_a64 rfl h

theorem Laws.RoundTrip.fminNanF32 (w : A64) : Laws.RoundTrip.Statement (.fminNanF32 w) := fun h _ => decodeWord_a64 rfl h

theorem Laws.RoundTrip.fmaxNanF32 (w : A64) : Laws.RoundTrip.Statement (.fmaxNanF32 w) := fun h _ => decodeWord_a64 rfl h

theorem Laws.RoundTrip.fabsF32 (w : A64) : Laws.RoundTrip.Statement (.fabsF32 w) := fun h _ => decodeWord_a64 rfl h

theorem Laws.RoundTrip.fnegF32 (w : A64) : Laws.RoundTrip.Statement (.fnegF32 w) := fun h _ => decodeWord_a64 rfl h

theorem Laws.RoundTrip.fclassF32 (w : A64) : Laws.RoundTrip.Statement (.fclassF32 w) := fun h _ => decodeWord_a64 rfl h

theorem Laws.RoundTrip.ffmaF32 (rm : BitVec 3) (w : A64) : Laws.RoundTrip.Statement (.ffmaF32 rm w) := by
  intro h _
  refine decodeWord_a64 ?_ h
  clear h
  rcases code_cases rm with rfl | rfl | rfl | rfl | rfl | rfl | rfl | rfl <;> rfl

theorem Laws.RoundTrip.faddX2 (bf : BitVec 1) (w : A64) : Laws.RoundTrip.Statement (.faddX2 bf w) := by
  intro h _
  refine decodeWord_a64 ?_ h
  clear h
  rcases bit_cases bf with rfl | rfl <;> rfl

theorem Laws.RoundTrip.fsubX2 (bf : BitVec 1) (w : A64) : Laws.RoundTrip.Statement (.fsubX2 bf w) := by
  intro h _
  refine decodeWord_a64 ?_ h
  clear h
  rcases bit_cases bf with rfl | rfl <;> rfl

theorem Laws.RoundTrip.fmulX2 (bf : BitVec 1) (w : A64) : Laws.RoundTrip.Statement (.fmulX2 bf w) := by
  intro h _
  refine decodeWord_a64 ?_ h
  clear h
  rcases bit_cases bf with rfl | rfl <;> rfl

theorem Laws.RoundTrip.fminX2 (bf : BitVec 1) (w : A64) : Laws.RoundTrip.Statement (.fminX2 bf w) := by
  intro h _
  refine decodeWord_a64 ?_ h
  clear h
  rcases bit_cases bf with rfl | rfl <;> rfl

theorem Laws.RoundTrip.fmaxX2 (bf : BitVec 1) (w : A64) : Laws.RoundTrip.Statement (.fmaxX2 bf w) := by
  intro h _
  refine decodeWord_a64 ?_ h
  clear h
  rcases bit_cases bf with rfl | rfl <;> rfl

theorem Laws.RoundTrip.fminNanX2 (bf : BitVec 1) (w : A64) : Laws.RoundTrip.Statement (.fminNanX2 bf w) := by
  intro h _
  refine decodeWord_a64 ?_ h
  clear h
  rcases bit_cases bf with rfl | rfl <;> rfl

theorem Laws.RoundTrip.fmaxNanX2 (bf : BitVec 1) (w : A64) : Laws.RoundTrip.Statement (.fmaxNanX2 bf w) := by
  intro h _
  refine decodeWord_a64 ?_ h
  clear h
  rcases bit_cases bf with rfl | rfl <;> rfl

theorem Laws.RoundTrip.fabsX2 (bf : BitVec 1) (w : A64) : Laws.RoundTrip.Statement (.fabsX2 bf w) := by
  intro h _
  refine decodeWord_a64 ?_ h
  clear h
  rcases bit_cases bf with rfl | rfl <;> rfl

theorem Laws.RoundTrip.fnegX2 (bf : BitVec 1) (w : A64) : Laws.RoundTrip.Statement (.fnegX2 bf w) := by
  intro h _
  refine decodeWord_a64 ?_ h
  clear h
  rcases bit_cases bf with rfl | rfl <;> rfl

theorem Laws.RoundTrip.ffmaX2 (bf : BitVec 1) (rm : BitVec 3) (w : A64) : Laws.RoundTrip.Statement (.ffmaX2 bf rm w) := by
  intro h _
  refine decodeWord_a64 ?_ h
  clear h
  rcases bit_cases bf with rfl | rfl <;> rcases code_cases rm with rfl | rfl | rfl | rfl | rfl | rfl | rfl | rfl <;> rfl

theorem Laws.RoundTrip.faddF64 (w : A64) : Laws.RoundTrip.Statement (.faddF64 w) := fun h _ => decodeWord_a64 rfl h

theorem Laws.RoundTrip.fsubF64 (w : A64) : Laws.RoundTrip.Statement (.fsubF64 w) := fun h _ => decodeWord_a64 rfl h

theorem Laws.RoundTrip.fmulF64 (w : A64) : Laws.RoundTrip.Statement (.fmulF64 w) := fun h _ => decodeWord_a64 rfl h

theorem Laws.RoundTrip.fdivF64 (w : A64) : Laws.RoundTrip.Statement (.fdivF64 w) := fun h _ => decodeWord_a64 rfl h

theorem Laws.RoundTrip.fsqrtF64 (w : A64) : Laws.RoundTrip.Statement (.fsqrtF64 w) := fun h _ => decodeWord_a64 rfl h

theorem Laws.RoundTrip.frndF64 (w : A64) : Laws.RoundTrip.Statement (.frndF64 w) := fun h _ => decodeWord_a64 rfl h

theorem Laws.RoundTrip.ldexpF64 (w : A64) : Laws.RoundTrip.Statement (.ldexpF64 w) := fun h _ => decodeWord_a64 rfl h

theorem Laws.RoundTrip.fminF64 (w : A64) : Laws.RoundTrip.Statement (.fminF64 w) := fun h _ => decodeWord_a64 rfl h

theorem Laws.RoundTrip.fmaxF64 (w : A64) : Laws.RoundTrip.Statement (.fmaxF64 w) := fun h _ => decodeWord_a64 rfl h

theorem Laws.RoundTrip.fminNanF64 (w : A64) : Laws.RoundTrip.Statement (.fminNanF64 w) := fun h _ => decodeWord_a64 rfl h

theorem Laws.RoundTrip.fmaxNanF64 (w : A64) : Laws.RoundTrip.Statement (.fmaxNanF64 w) := fun h _ => decodeWord_a64 rfl h

theorem Laws.RoundTrip.fabsF64 (w : A64) : Laws.RoundTrip.Statement (.fabsF64 w) := fun h _ => decodeWord_a64 rfl h

theorem Laws.RoundTrip.fnegF64 (w : A64) : Laws.RoundTrip.Statement (.fnegF64 w) := fun h _ => decodeWord_a64 rfl h

theorem Laws.RoundTrip.fclassF64 (w : A64) : Laws.RoundTrip.Statement (.fclassF64 w) := fun h _ => decodeWord_a64 rfl h

theorem Laws.RoundTrip.ffmaF64 (rm : BitVec 3) (w : A64) : Laws.RoundTrip.Statement (.ffmaF64 rm w) := by
  intro h _
  refine decodeWord_a64 ?_ h
  clear h
  rcases code_cases rm with rfl | rfl | rfl | rfl | rfl | rfl | rfl | rfl <;> rfl

theorem Laws.RoundTrip.cvt (w : A64) : Laws.RoundTrip.Statement (.cvt w) := fun h _ => decodeWord_a64 rfl h

theorem Laws.RoundTrip.q4xEnc (w : A64) : Laws.RoundTrip.Statement (.q4xEnc w) := fun h _ => decodeWord_a64 rfl h

theorem Laws.RoundTrip.q4xDec (w : A64) : Laws.RoundTrip.Statement (.q4xDec w) := fun h _ => decodeWord_a64 rfl h

theorem Laws.RoundTrip.frcp (w : A64) : Laws.RoundTrip.Statement (.frcp w) := fun h _ => decodeWord_a64 rfl h

theorem Laws.RoundTrip.frsq (w : A64) : Laws.RoundTrip.Statement (.frsq w) := fun h _ => decodeWord_a64 rfl h

theorem Laws.RoundTrip.fexp2 (w : A64) : Laws.RoundTrip.Statement (.fexp2 w) := fun h _ => decodeWord_a64 rfl h

theorem Laws.RoundTrip.flog2 (w : A64) : Laws.RoundTrip.Statement (.flog2 w) := fun h _ => decodeWord_a64 rfl h

theorem Laws.RoundTrip.fsin (w : A64) : Laws.RoundTrip.Statement (.fsin w) := fun h _ => decodeWord_a64 rfl h

theorem Laws.RoundTrip.fcos (w : A64) : Laws.RoundTrip.Statement (.fcos w) := fun h _ => decodeWord_a64 rfl h

theorem Laws.RoundTrip.ftanh (w : A64) : Laws.RoundTrip.Statement (.ftanh w) := fun h _ => decodeWord_a64 rfl h

theorem Laws.RoundTrip.br (w : AI) : Laws.RoundTrip.Statement (.br w) := by
  intro h _
  refine decodeWord_a64 ?_ h
  simp [decodeA64, decodeClass9, AI.toAI_toA64]

theorem Laws.RoundTrip.brInd (w : A64) : Laws.RoundTrip.Statement (.brInd w) := fun h _ => decodeWord_a64 rfl h

theorem Laws.RoundTrip.call (w : AI) : Laws.RoundTrip.Statement (.call w) := by
  intro h _
  refine decodeWord_a64 ?_ h
  simp [decodeA64, decodeClass9, AI.toAI_toA64]

theorem Laws.RoundTrip.ret (w : A64) : Laws.RoundTrip.Statement (.ret w) := fun h _ => decodeWord_a64 rfl h

theorem Laws.RoundTrip.exit (w : A64) : Laws.RoundTrip.Statement (.exit w) := fun h _ => decodeWord_a64 rfl h

theorem Laws.RoundTrip.nop (w : A64) : Laws.RoundTrip.Statement (.nop w) := fun h _ => decodeWord_a64 rfl h

theorem Laws.RoundTrip.yield (w : A64) : Laws.RoundTrip.Statement (.yield w) := fun h _ => decodeWord_a64 rfl h

theorem Laws.RoundTrip.trap (w : AI) : Laws.RoundTrip.Statement (.trap w) := by
  intro h _
  refine decodeWord_a64 ?_ h
  simp [decodeA64, decodeClass9, AI.toAI_toA64]

theorem Laws.RoundTrip.brk (w : A64) : Laws.RoundTrip.Statement (.brk w) := fun h _ => decodeWord_a64 rfl h

theorem Laws.RoundTrip.tret (w : A64) : Laws.RoundTrip.Statement (.tret w) := fun h _ => decodeWord_a64 rfl h

theorem Laws.RoundTrip.movSr (w : A64) : Laws.RoundTrip.Statement (.movSr w) := fun h _ => decodeWord_a64 rfl h

theorem Laws.RoundTrip.csrRd (w : AI) : Laws.RoundTrip.Statement (.csrRd w) := by
  intro h _
  refine decodeWord_a64 ?_ h
  simp [decodeA64, decodeClass10, AI.toAI_toA64]

theorem Laws.RoundTrip.csrWr (w : AI) : Laws.RoundTrip.Statement (.csrWr w) := by
  intro h _
  refine decodeWord_a64 ?_ h
  simp [decodeA64, decodeClass10, AI.toAI_toA64]

theorem Laws.RoundTrip.rget (w : A64) : Laws.RoundTrip.Statement (.rget w) := fun h _ => decodeWord_a64 rfl h

theorem Laws.RoundTrip.rput (w : A64) : Laws.RoundTrip.Statement (.rput w) := fun h _ => decodeWord_a64 rfl h

theorem Laws.RoundTrip.sAdd (w : A64) : Laws.RoundTrip.Statement (.sAdd w) := fun h _ => decodeWord_a64 rfl h

theorem Laws.RoundTrip.sSub (w : A64) : Laws.RoundTrip.Statement (.sSub w) := fun h _ => decodeWord_a64 rfl h

theorem Laws.RoundTrip.sMul (w : A64) : Laws.RoundTrip.Statement (.sMul w) := fun h _ => decodeWord_a64 rfl h

theorem Laws.RoundTrip.sAnd (w : A64) : Laws.RoundTrip.Statement (.sAnd w) := fun h _ => decodeWord_a64 rfl h

theorem Laws.RoundTrip.sOr (w : A64) : Laws.RoundTrip.Statement (.sOr w) := fun h _ => decodeWord_a64 rfl h

theorem Laws.RoundTrip.sXor (w : A64) : Laws.RoundTrip.Statement (.sXor w) := fun h _ => decodeWord_a64 rfl h

theorem Laws.RoundTrip.sShl (w : A64) : Laws.RoundTrip.Statement (.sShl w) := fun h _ => decodeWord_a64 rfl h

theorem Laws.RoundTrip.sShr (w : A64) : Laws.RoundTrip.Statement (.sShr w) := fun h _ => decodeWord_a64 rfl h

theorem Laws.RoundTrip.sSar (w : A64) : Laws.RoundTrip.Statement (.sSar w) := fun h _ => decodeWord_a64 rfl h

theorem Laws.RoundTrip.sLi (w : AI) : Laws.RoundTrip.Statement (.sLi w) := by
  intro h _
  refine decodeWord_a64 ?_ h
  simp [decodeA64, decodeClass11, AI.toAI_toA64]

theorem Laws.RoundTrip.sMov (w : A64) : Laws.RoundTrip.Statement (.sMov w) := fun h _ => decodeWord_a64 rfl h

theorem Laws.RoundTrip.sCmp (w : A64) : Laws.RoundTrip.Statement (.sCmp w) := fun h _ => decodeWord_a64 rfl h

theorem Laws.RoundTrip.sSel (w : A64) : Laws.RoundTrip.Statement (.sSel w) := fun h _ => decodeWord_a64 rfl h

theorem Laws.RoundTrip.sLd (w : AM) : Laws.RoundTrip.Statement (.sLd w) := by
  intro h _
  refine decodeWord_a64 ?_ h
  simp only [Instr.wf, Bool.and_eq_true, beq_iff_eq] at h
  have e := AM.toAM_toA64 w
  rw [h.1.1.2, h.1.2] at e
  simpa [decodeA64, decodeClass11] using e

theorem Laws.RoundTrip.sRdl (w : A64) : Laws.RoundTrip.Statement (.sRdl w) := fun h _ => decodeWord_a64 rfl h

theorem Laws.RoundTrip.shfl (w : A64) : Laws.RoundTrip.Statement (.shfl w) := fun h _ => decodeWord_a64 rfl h

theorem Laws.RoundTrip.voteAny (w : A64) : Laws.RoundTrip.Statement (.voteAny w) := fun h _ => decodeWord_a64 rfl h

theorem Laws.RoundTrip.voteAll (w : A64) : Laws.RoundTrip.Statement (.voteAll w) := fun h _ => decodeWord_a64 rfl h

theorem Laws.RoundTrip.voteBallot (w : A64) : Laws.RoundTrip.Statement (.voteBallot w) := fun h _ => decodeWord_a64 rfl h

theorem Laws.RoundTrip.matchEq (w : A64) : Laws.RoundTrip.Statement (.matchEq w) := fun h _ => decodeWord_a64 rfl h

theorem Laws.RoundTrip.redLane (w : A64) : Laws.RoundTrip.Statement (.redLane w) := fun h _ => decodeWord_a64 rfl h

theorem Laws.RoundTrip.scanLane (w : A64) : Laws.RoundTrip.Statement (.scanLane w) := fun h _ => decodeWord_a64 rfl h

theorem Laws.RoundTrip.segred (w : A64) : Laws.RoundTrip.Statement (.segred w) := fun h _ => decodeWord_a64 rfl h

theorem Laws.RoundTrip.lsync (w : A64) : Laws.RoundTrip.Statement (.lsync w) := fun h _ => decodeWord_a64 rfl h

theorem Laws.RoundTrip.topkIns (w : A64) : Laws.RoundTrip.Statement (.topkIns w) := fun h _ => decodeWord_a64 rfl h

theorem Laws.RoundTrip.brDiv (w : AI) : Laws.RoundTrip.Statement (.brDiv w) := by
  intro h _
  refine decodeWord_a64 ?_ h
  simp [decodeA64, decodeClass13, AI.toAI_toA64]

theorem Laws.RoundTrip.join (w : A64) : Laws.RoundTrip.Statement (.join w) := fun h _ => decodeWord_a64 rfl h

theorem Laws.RoundTrip.barInit (w : A64) : Laws.RoundTrip.Statement (.barInit w) := fun h _ => decodeWord_a64 rfl h

theorem Laws.RoundTrip.barArr (w : A64) : Laws.RoundTrip.Statement (.barArr w) := fun h _ => decodeWord_a64 rfl h

theorem Laws.RoundTrip.barWait (w : A64) : Laws.RoundTrip.Statement (.barWait w) := fun h _ => decodeWord_a64 rfl h

theorem Laws.RoundTrip.barSync (w : A64) : Laws.RoundTrip.Statement (.barSync w) := fun h _ => decodeWord_a64 rfl h

theorem Laws.RoundTrip.stgAcq (w : A64) : Laws.RoundTrip.Statement (.stgAcq w) := fun h _ => decodeWord_a64 rfl h

theorem Laws.RoundTrip.stgRel (w : A64) : Laws.RoundTrip.Statement (.stgRel w) := fun h _ => decodeWord_a64 rfl h

theorem Laws.RoundTrip.ld (w : AM) : Laws.RoundTrip.Statement (.ld w) := by
  intro h _
  refine decodeWord_a64 ?_ h
  have hc : w.code.toNat ≤ 6 := by simp only [Instr.wf, AM.okLd, Bool.and_eq_true, decide_eq_true_eq] at h; omega
  have e := AM.toAM_toA64 w
  simp only [decodeA64, decodeClass14, modeCode, e]
  simp [hc]

theorem Laws.RoundTrip.st (w : AM) : Laws.RoundTrip.Statement (.st w) := by
  intro h _
  refine decodeWord_a64 ?_ h
  have hc : 8 ≤ w.code.toNat ∧ w.code.toNat ≤ 12 := by simp only [Instr.wf, AM.okSt, Bool.and_eq_true, decide_eq_true_eq] at h; omega
  have hn : ¬ w.code.toNat ≤ 6 := by omega
  have e := AM.toAM_toA64 w
  simp only [decodeA64, decodeClass14, modeCode, e]
  simp [hc, hn]

theorem Laws.RoundTrip.prefetch (w : AM) : Laws.RoundTrip.Statement (.prefetch w) := by
  intro h _
  refine decodeWord_a64 ?_ h
  have hc : w.code = 13 := by simp only [Instr.wf, Bool.and_eq_true, beq_iff_eq] at h; exact h.1.2
  have e := AM.toAM_toA64 w
  simp only [decodeA64, decodeClass14, modeCode, e]
  simp [hc]

theorem Laws.RoundTrip.ldSp (w : AM) : Laws.RoundTrip.Statement (.ldSp w) := by
  intro h _
  refine decodeWord_a64 ?_ h
  have hc : w.code.toNat ≤ 6 := by simp only [Instr.wf, AM.okLd, Bool.and_eq_true, decide_eq_true_eq] at h; omega
  have e := AM.toAM_toA64 w
  simp only [decodeA64, decodeClass15, modeCode, e]
  simp [hc]

theorem Laws.RoundTrip.stSp (w : AM) : Laws.RoundTrip.Statement (.stSp w) := by
  intro h _
  refine decodeWord_a64 ?_ h
  have hc : 8 ≤ w.code.toNat ∧ w.code.toNat ≤ 12 := by simp only [Instr.wf, AM.okSt, Bool.and_eq_true, decide_eq_true_eq] at h; omega
  have hn : ¬ w.code.toNat ≤ 6 := by omega
  have e := AM.toAM_toA64 w
  simp only [decodeA64, decodeClass15, modeCode, e]
  simp [hc, hn]

theorem Laws.RoundTrip.atom (w : AMT) : Laws.RoundTrip.Statement (.atom w) := by
  intro h _
  refine decodeWord_a64 ?_ h
  have h7 : w.code ≠ 7 ∧ w.code ≠ 8 := by simp only [Instr.wf, Bool.and_eq_true, bne_iff_ne] at h; exact ⟨h.1.1.2, h.1.2⟩
  have e := AMT.toAMT_toA64 w
  simp only [decodeA64, decodeClass16, modeCode, e]
  simp [show ¬ w.code = 7#4 from h7.1, show ¬ w.code = 8#4 from h7.2]

theorem Laws.RoundTrip.atomCas (w : AMT) : Laws.RoundTrip.Statement (.atomCas w) := by
  intro h _
  refine decodeWord_a64 ?_ h
  have h7 : w.code = 7 := by simp only [Instr.wf, Bool.and_eq_true, beq_iff_eq] at h; exact h.2
  have e := AMT.toAMT_toA64 w
  simp only [decodeA64, decodeClass16, modeCode, e]
  simp [show w.code = 7#4 from h7]

theorem Laws.RoundTrip.atomAddlim (w : AMT) : Laws.RoundTrip.Statement (.atomAddlim w) := by
  intro h _
  refine decodeWord_a64 ?_ h
  have h7 : w.code = 8 := by simp only [Instr.wf, Bool.and_eq_true, beq_iff_eq] at h; exact h.2
  have e := AMT.toAMT_toA64 w
  simp only [decodeA64, decodeClass16, modeCode, e]
  simp [show w.code = 8#4 from h7]

theorem Laws.RoundTrip.atomSp (w : AMT) : Laws.RoundTrip.Statement (.atomSp w) := by
  intro h _
  refine decodeWord_a64 ?_ h
  have e := AMT.toAMT_toA64 w
  simp only [decodeA64, decodeClass16, modeCode, e]
  simp

theorem Laws.RoundTrip.red (w : AMT) : Laws.RoundTrip.Statement (.red w) := by
  intro h _
  refine decodeWord_a64 ?_ h
  have e := AMT.toAMT_toA64 w
  simp only [decodeA64, decodeClass16, modeCode, e]
  simp

theorem Laws.RoundTrip.waitCnt (w : A64) : Laws.RoundTrip.Statement (.waitCnt w) := fun h _ => decodeWord_a64 rfl h

theorem Laws.RoundTrip.waitWct (w : A64) : Laws.RoundTrip.Statement (.waitWct w) := fun h _ => decodeWord_a64 rfl h

theorem Laws.RoundTrip.waitTl (w : A64) : Laws.RoundTrip.Statement (.waitTl w) := fun h _ => decodeWord_a64 rfl h

theorem Laws.RoundTrip.inval (w : A64) : Laws.RoundTrip.Statement (.inval w) := fun h _ => decodeWord_a64 rfl h

theorem Laws.RoundTrip.wb (w : A64) : Laws.RoundTrip.Statement (.wb w) := fun h _ => decodeWord_a64 rfl h

theorem Laws.RoundTrip.seal (w : A64) : Laws.RoundTrip.Statement (.seal w) := fun h _ => decodeWord_a64 rfl h

theorem Laws.RoundTrip.unseal (w : A64) : Laws.RoundTrip.Statement (.unseal w) := fun h _ => decodeWord_a64 rfl h

theorem Laws.RoundTrip.l2Pin (w : A64) : Laws.RoundTrip.Statement (.l2Pin w) := fun h _ => decodeWord_a64 rfl h

theorem Laws.RoundTrip.l2Unpin (w : A64) : Laws.RoundTrip.Statement (.l2Unpin w) := fun h _ => decodeWord_a64 rfl h

theorem Laws.RoundTrip.bankCfgCache (w : A64) : Laws.RoundTrip.Statement (.bankCfgCache w) := by
  intro h _
  refine decodeWord_a64 ?_ h
  have hm : w.rc.toNat % 4 = 0 := by
    simp only [Instr.wf, A64.okBank, Bool.and_eq_true, beq_iff_eq] at h
    omega
  simp [decodeA64, decodeClass17, hm]

theorem Laws.RoundTrip.bankCfgSp (w : A64) : Laws.RoundTrip.Statement (.bankCfgSp w) := by
  intro h _
  refine decodeWord_a64 ?_ h
  have hm : w.rc.toNat % 4 = 1 := by
    simp only [Instr.wf, A64.okBank, Bool.and_eq_true, beq_iff_eq] at h
    omega
  simp [decodeA64, decodeClass17, hm]

theorem Laws.RoundTrip.bankCfgFifo (w : A64) : Laws.RoundTrip.Statement (.bankCfgFifo w) := by
  intro h _
  refine decodeWord_a64 ?_ h
  have hm : w.rc.toNat % 4 = 2 := by
    simp only [Instr.wf, A64.okBank, Bool.and_eq_true, beq_iff_eq] at h
    omega
  simp [decodeA64, decodeClass17, hm]

theorem Laws.RoundTrip.bankCfgQuery (w : A64) : Laws.RoundTrip.Statement (.bankCfgQuery w) := by
  intro h _
  refine decodeWord_a64 ?_ h
  have hm : w.rc.toNat % 4 = 3 := by
    simp only [Instr.wf, A64.okBank, Bool.and_eq_true, beq_iff_eq] at h
    omega
  simp [decodeA64, decodeClass17, hm]

theorem Laws.RoundTrip.farBegin (w : AI) : Laws.RoundTrip.Statement (.farBegin w) := by
  intro h _
  refine decodeWord_a64 ?_ h
  simp [decodeA64, decodeClass18, AI.toAI_toA64]

theorem Laws.RoundTrip.farEnd (w : A64) : Laws.RoundTrip.Statement (.farEnd w) := fun h _ => decodeWord_a64 rfl h

theorem Laws.RoundTrip.farAbort (w : A64) : Laws.RoundTrip.Statement (.farAbort w) := fun h _ => decodeWord_a64 rfl h

theorem Laws.RoundTrip.farStat (w : A64) : Laws.RoundTrip.Statement (.farStat w) := fun h _ => decodeWord_a64 rfl h

theorem Laws.RoundTrip.subOpen (w : A64) : Laws.RoundTrip.Statement (.subOpen w) := fun h _ => decodeWord_a64 rfl h

theorem Laws.RoundTrip.subClose (w : A64) : Laws.RoundTrip.Statement (.subClose w) := fun h _ => decodeWord_a64 rfl h

theorem Laws.RoundTrip.subFlush (w : A64) : Laws.RoundTrip.Statement (.subFlush w) := fun h _ => decodeWord_a64 rfl h

theorem Laws.RoundTrip.msgSend (w : A64) : Laws.RoundTrip.Statement (.msgSend w) := fun h _ => decodeWord_a64 rfl h

theorem Laws.RoundTrip.msgWait (w : A64) : Laws.RoundTrip.Statement (.msgWait w) := fun h _ => decodeWord_a64 rfl h

theorem Laws.RoundTrip.msgPop (w : A64) : Laws.RoundTrip.Statement (.msgPop w) := fun h _ => decodeWord_a64 rfl h

theorem Laws.RoundTrip.cp (w : A64) : Laws.RoundTrip.Statement (.cp w) := fun h _ => decodeWord_a64 rfl h

theorem Laws.RoundTrip.cpCommit (w : A64) : Laws.RoundTrip.Statement (.cpCommit w) := fun h _ => decodeWord_a64 rfl h

theorem Laws.RoundTrip.cpTile (w : A64) : Laws.RoundTrip.Statement (.cpTile w) := fun h _ => decodeWord_a64 rfl h

theorem Laws.RoundTrip.cpZero (w : A64) : Laws.RoundTrip.Statement (.cpZero w) := fun h _ => decodeWord_a64 rfl h

theorem Laws.RoundTrip.cpGather (w : A64) : Laws.RoundTrip.Statement (.cpGather w) := fun h _ => decodeWord_a64 rfl h

theorem Laws.RoundTrip.cpScatter (w : A64) : Laws.RoundTrip.Statement (.cpScatter w) := fun h _ => decodeWord_a64 rfl h

theorem Laws.RoundTrip.cpUnpack (w : A64) : Laws.RoundTrip.Statement (.cpUnpack w) := fun h _ => decodeWord_a64 rfl h

theorem Laws.RoundTrip.cpPack (w : A64) : Laws.RoundTrip.Statement (.cpPack w) := fun h _ => decodeWord_a64 rfl h

theorem Laws.RoundTrip.cpIsect (w : A64) : Laws.RoundTrip.Statement (.cpIsect w) := fun h _ => decodeWord_a64 rfl h

theorem Laws.RoundTrip.cpMerge (w : A64) : Laws.RoundTrip.Statement (.cpMerge w) := fun h _ => decodeWord_a64 rfl h

theorem Laws.RoundTrip.mma (w : A64) : Laws.RoundTrip.Statement (.mma w) := fun h _ => decodeWord_a64 rfl h

theorem Laws.RoundTrip.mmaReuse (w : A64) : Laws.RoundTrip.Statement (.mmaReuse w) := fun h _ => decodeWord_a64 rfl h

theorem Laws.RoundTrip.mloop (w : A64) : Laws.RoundTrip.Statement (.mloop w) := fun h _ => decodeWord_a64 rfl h

theorem Laws.RoundTrip.maccZero (w : A64) : Laws.RoundTrip.Statement (.maccZero w) := fun h _ => decodeWord_a64 rfl h

theorem Laws.RoundTrip.maccLd (w : A64) : Laws.RoundTrip.Statement (.maccLd w) := fun h _ => decodeWord_a64 rfl h

theorem Laws.RoundTrip.maccSt (w : A64) : Laws.RoundTrip.Statement (.maccSt w) := fun h _ => decodeWord_a64 rfl h

theorem Laws.RoundTrip.mhad (w : A64) : Laws.RoundTrip.Statement (.mhad w) := fun h _ => decodeWord_a64 rfl h

theorem Laws.RoundTrip.lqPush (w : A64) : Laws.RoundTrip.Statement (.lqPush w) := fun h _ => decodeWord_a64 rfl h

theorem Laws.RoundTrip.lqPoll (w : A64) : Laws.RoundTrip.Statement (.lqPoll w) := fun h _ => decodeWord_a64 rfl h

theorem Laws.RoundTrip.remoteArrival (k : Nat) : Laws.RoundTrip.Statement (.remoteArrival k) := fun _ h => absurd rfl h

theorem Laws.RoundTrip.stageToggle (k : Nat) : Laws.RoundTrip.Statement (.stageToggle k) := fun _ h => absurd rfl h

theorem Laws.RoundTrip.counterAdvance (k : Nat) : Laws.RoundTrip.Statement (.counterAdvance k) := fun _ h => absurd rfl h

theorem Laws.RoundTrip.subscriptionUpdate (k : Nat) : Laws.RoundTrip.Statement (.subscriptionUpdate k) := fun _ h => absurd rfl h

theorem Laws.RoundTrip.subBufferTimeout (k : Nat) : Laws.RoundTrip.Statement (.subBufferTimeout k) := fun _ h => absurd rfl h

theorem Laws.RoundTrip.sliceRequest (u : Nat) (r : Nat) (l : Nat) (act : ReqAction) : Laws.RoundTrip.Statement (.sliceRequest u r l act) := fun _ h => absurd rfl h

theorem Laws.RoundTrip.wordRecall (k : Nat) : Laws.RoundTrip.Statement (.wordRecall k) := fun _ h => absurd rfl h

theorem Laws.RoundTrip.lineRecall (k : Nat) : Laws.RoundTrip.Statement (.lineRecall k) := fun _ h => absurd rfl h

theorem Laws.RoundTrip.towerRequest (k : Nat) : Laws.RoundTrip.Statement (.towerRequest k) := fun _ h => absurd rfl h

theorem Laws.RoundTrip.redirectReply (cluster : Nat) (asid : Nat) (vpn : Nat) : Laws.RoundTrip.Statement (.redirectReply cluster asid vpn) := fun _ h => absurd rfl h

theorem Laws.RoundTrip.regionEdge (k : Nat) : Laws.RoundTrip.Statement (.regionEdge k) := fun _ h => absurd rfl h

theorem Laws.RoundTrip.loadReturn (u : Nat) (r : Nat) : Laws.RoundTrip.Statement (.loadReturn u r) := fun _ h => absurd rfl h

theorem Laws.RoundTrip.storeCompletion (u : Nat) (r : Nat) : Laws.RoundTrip.Statement (.storeCompletion u r) := fun _ h => absurd rfl h

theorem Laws.RoundTrip.atomicReturn (u : Nat) (r : Nat) : Laws.RoundTrip.Statement (.atomicReturn u r) := fun _ h => absurd rfl h

theorem Laws.RoundTrip.spAccessPerformed (u : Nat) : Laws.RoundTrip.Statement (.spAccessPerformed u) := fun _ h => absurd rfl h

theorem Laws.RoundTrip.leaseExpiry (k : Nat) : Laws.RoundTrip.Statement (.leaseExpiry k) := fun _ h => absurd rfl h

theorem Laws.RoundTrip.pinExpiry (k : Nat) : Laws.RoundTrip.Statement (.pinExpiry k) := fun _ h => absurd rfl h

theorem Laws.RoundTrip.fragmentLaunch (u : Nat) : Laws.RoundTrip.Statement (.fragmentLaunch u) := fun _ h => absurd rfl h

theorem Laws.RoundTrip.registerPull (u : Nat) (reg : Nat) : Laws.RoundTrip.Statement (.registerPull u reg) := fun _ h => absurd rfl h

theorem Laws.RoundTrip.writeBack (u : Nat) : Laws.RoundTrip.Statement (.writeBack u) := fun _ h => absurd rfl h

theorem Laws.RoundTrip.joinCompletion (u : Nat) : Laws.RoundTrip.Statement (.joinCompletion u) := fun _ h => absurd rfl h

theorem Laws.RoundTrip.regionCommit (r : Nat) : Laws.RoundTrip.Statement (.regionCommit r) := fun _ h => absurd rfl h

theorem Laws.RoundTrip.abortTaken (u : Nat) : Laws.RoundTrip.Statement (.abortTaken u) := fun _ h => absurd rfl h

theorem Laws.RoundTrip.regionTimeout (r : Nat) : Laws.RoundTrip.Statement (.regionTimeout r) := fun _ h => absurd rfl h

theorem Laws.RoundTrip.ringMessage (k : Nat) : Laws.RoundTrip.Statement (.ringMessage k) := fun _ h => absurd rfl h

theorem Laws.RoundTrip.messageRetry (k : Nat) : Laws.RoundTrip.Statement (.messageRetry k) := fun _ h => absurd rfl h

theorem Laws.RoundTrip.ringAgentMessage (k : Nat) : Laws.RoundTrip.Statement (.ringAgentMessage k) := fun _ h => absurd rfl h

theorem Laws.RoundTrip.backoffExpiry (k : Nat) : Laws.RoundTrip.Statement (.backoffExpiry k) := fun _ h => absurd rfl h

theorem Laws.RoundTrip.copyPiece (k : Nat) : Laws.RoundTrip.Statement (.copyPiece k) := fun _ h => absurd rfl h

theorem Laws.RoundTrip.gatherElement (k : Nat) : Laws.RoundTrip.Statement (.gatherElement k) := fun _ h => absurd rfl h

theorem Laws.RoundTrip.scatterElement (k : Nat) : Laws.RoundTrip.Statement (.scatterElement k) := fun _ h => absurd rfl h

theorem Laws.RoundTrip.sparseConversion (k : Nat) : Laws.RoundTrip.Statement (.sparseConversion k) := fun _ h => absurd rfl h

theorem Laws.RoundTrip.batchLanding (u : Nat) : Laws.RoundTrip.Statement (.batchLanding u) := fun _ h => absurd rfl h

theorem Laws.RoundTrip.towerTicketAdvance (t : Nat) : Laws.RoundTrip.Statement (.towerTicketAdvance t) := fun _ h => absurd rfl h

theorem Laws.RoundTrip.engineFault (t : Nat) : Laws.RoundTrip.Statement (.engineFault t) := fun _ h => absurd rfl h

theorem Laws.RoundTrip.spillRingFault (c : Nat) (reason : Nat) : Laws.RoundTrip.Statement (.spillRingFault c reason) := fun _ h => absurd rfl h

theorem Laws.RoundTrip.matrixStep (t : Nat) : Laws.RoundTrip.Statement (.matrixStep t) := fun _ h => absurd rfl h

theorem Laws.RoundTrip.matrixTileMove (t : Nat) : Laws.RoundTrip.Statement (.matrixTileMove t) := fun _ h => absurd rfl h

theorem Laws.RoundTrip.hadamardTransform (t : Nat) : Laws.RoundTrip.Statement (.hadamardTransform t) := fun _ h => absurd rfl h

theorem Laws.RoundTrip.matrixTimelineAdvance (t : Nat) : Laws.RoundTrip.Statement (.matrixTimelineAdvance t) := fun _ h => absurd rfl h

theorem Laws.RoundTrip.lqPushPublish (u : Nat) : Laws.RoundTrip.Statement (.lqPushPublish u) := fun _ h => absurd rfl h

theorem Laws.RoundTrip.queueHeaderJudge (c : Nat) (q : Nat) : Laws.RoundTrip.Statement (.queueHeaderJudge c q) := fun _ h => absurd rfl h

theorem Laws.RoundTrip.recordConsume (c : Nat) (q : Nat) : Laws.RoundTrip.Statement (.recordConsume c q) := fun _ h => absurd rfl h

theorem Laws.RoundTrip.gridStart (g : Nat) : Laws.RoundTrip.Statement (.gridStart g) := fun _ h => absurd rfl h

theorem Laws.RoundTrip.teamPlacement (g : Nat) (core : Nat) : Laws.RoundTrip.Statement (.teamPlacement g core) := fun _ h => absurd rfl h

theorem Laws.RoundTrip.teamStart (t : Nat) : Laws.RoundTrip.Statement (.teamStart t) := fun _ h => absurd rfl h

theorem Laws.RoundTrip.teamExited (t : Nat) : Laws.RoundTrip.Statement (.teamExited t) := fun _ h => absurd rfl h

theorem Laws.RoundTrip.teamSave (t : Nat) : Laws.RoundTrip.Statement (.teamSave t) := fun _ h => absurd rfl h

theorem Laws.RoundTrip.teamRestore (t : Nat) : Laws.RoundTrip.Statement (.teamRestore t) := fun _ h => absurd rfl h

theorem Laws.RoundTrip.imageSignalApply (k : Nat) : Laws.RoundTrip.Statement (.imageSignalApply k) := fun _ h => absurd rfl h

theorem Laws.RoundTrip.powerGate (core : Nat) : Laws.RoundTrip.Statement (.powerGate core) := fun _ h => absurd rfl h

theorem Laws.RoundTrip.powerGateRestore (t : Nat) : Laws.RoundTrip.Statement (.powerGateRestore t) := fun _ h => absurd rfl h

theorem Laws.RoundTrip.coreReset (core : Nat) : Laws.RoundTrip.Statement (.coreReset core) := fun _ h => absurd rfl h

theorem Laws.RoundTrip.watchdogPreempt (t : Nat) : Laws.RoundTrip.Statement (.watchdogPreempt t) := fun _ h => absurd rfl h

theorem Laws.RoundTrip.watchdogStall (t : Nat) : Laws.RoundTrip.Statement (.watchdogStall t) := fun _ h => absurd rfl h

theorem Laws.RoundTrip.softError (site : ErrorSite) : Laws.RoundTrip.Statement (.softError site) := fun _ h => absurd rfl h

theorem Laws.RoundTrip.patrolScrub (site : ErrorSite) : Laws.RoundTrip.Statement (.patrolScrub site) := fun _ h => absurd rfl h

theorem Laws.RoundTrip.rowSparing (tower : Nat) : Laws.RoundTrip.Statement (.rowSparing tower) := fun _ h => absurd rfl h

theorem Laws.RoundTrip.pseudoChannelRetirement (tower : Nat) : Laws.RoundTrip.Statement (.pseudoChannelRetirement tower) := fun _ h => absurd rfl h

theorem Laws.RoundTrip.clusterRetirement (cluster : Nat) : Laws.RoundTrip.Statement (.clusterRetirement cluster) := fun _ h => absurd rfl h

theorem Laws.RoundTrip.laneSparing (port : Nat) : Laws.RoundTrip.Statement (.laneSparing port) := fun _ h => absurd rfl h

theorem Laws.RoundTrip.shootdown (asid : Nat) (base : BitVec 64) (len : Nat) : Laws.RoundTrip.Statement (.shootdown asid base len) := fun _ h => absurd rfl h

theorem Laws.RoundTrip.dataFlit (port : Nat) (f : Flit) : Laws.RoundTrip.Statement (.dataFlit port f) := fun _ h => absurd rfl h

theorem Laws.RoundTrip.idleFlit (port : Nat) (f : Flit) : Laws.RoundTrip.Statement (.idleFlit port f) := fun _ h => absurd rfl h

theorem Laws.RoundTrip.retryRequest (port : Nat) (f : Flit) : Laws.RoundTrip.Statement (.retryRequest port f) := fun _ h => absurd rfl h

theorem Laws.RoundTrip.auditPoint (port : Nat) : Laws.RoundTrip.Statement (.auditPoint port) := fun _ h => absurd rfl h

theorem Laws.RoundTrip.audit (port : Nat) (f : Flit) : Laws.RoundTrip.Statement (.audit port f) := fun _ h => absurd rfl h

theorem Laws.RoundTrip.resync (port : Nat) (f : Flit) : Laws.RoundTrip.Statement (.resync port f) := fun _ h => absurd rfl h

theorem Laws.RoundTrip.timeSync (port : Nat) (f : SyncFlit) : Laws.RoundTrip.Statement (.timeSync port f) := fun _ h => absurd rfl h

theorem Laws.RoundTrip.timeSyncTimer (port : Nat) : Laws.RoundTrip.Statement (.timeSyncTimer port) := fun _ h => absurd rfl h

theorem Laws.RoundTrip.linkRetrain (port : Nat) (ok : Bool) : Laws.RoundTrip.Statement (.linkRetrain port ok) := fun _ h => absurd rfl h

theorem Laws.RoundTrip.deviceOutOfStep (dev : Nat) : Laws.RoundTrip.Statement (.deviceOutOfStep dev) := fun _ h => absurd rfl h

theorem Laws.RoundTrip.deviceInStep (dev : Nat) : Laws.RoundTrip.Statement (.deviceInStep dev) := fun _ h => absurd rfl h

theorem Laws.RoundTrip.remoteRequest (q : RemoteReq) : Laws.RoundTrip.Statement (.remoteRequest q) := fun _ h => absurd rfl h

theorem Laws.RoundTrip.hostRead (pa : Nat) (len : Nat) : Laws.RoundTrip.Statement (.hostRead pa len) := fun _ h => absurd rfl h

theorem Laws.RoundTrip.hostWrite (pa : Nat) (bytes : List (BitVec 8)) : Laws.RoundTrip.Statement (.hostWrite pa bytes) := fun _ h => absurd rfl h

theorem Laws.RoundTrip.hostWindowWrite (k : Nat) (part : Nat) (value : BitVec 64) : Laws.RoundTrip.Statement (.hostWindowWrite k part value) := fun _ h => absurd rfl h

theorem Laws.RoundTrip.register (slot : Nat) (entry : Nat) : Laws.RoundTrip.Statement (.register slot entry) := fun _ h => absurd rfl h

theorem Laws.RoundTrip.enable (slot : Nat) : Laws.RoundTrip.Statement (.enable slot) := fun _ h => absurd rfl h

theorem Laws.RoundTrip.disable (slot : Nat) : Laws.RoundTrip.Statement (.disable slot) := fun _ h => absurd rfl h

theorem Laws.RoundTrip.preEmpt (slot : Nat) : Laws.RoundTrip.Statement (.preEmpt slot) := fun _ h => absurd rfl h

theorem Laws.RoundTrip.restore (slot : Nat) : Laws.RoundTrip.Statement (.restore slot) := fun _ h => absurd rfl h

theorem Laws.RoundTrip.kill (slot : Nat) : Laws.RoundTrip.Statement (.kill slot) := fun _ h => absurd rfl h

theorem Laws.RoundTrip.destroy (slot : Nat) : Laws.RoundTrip.Statement (.destroy slot) := fun _ h => absurd rfl h

theorem Laws.RoundTrip.doorbellIllegalCommand (slot : Nat) (value : BitVec 64) : Laws.RoundTrip.Statement (.doorbellIllegalCommand slot value) := fun _ h => absurd rfl h

theorem Laws.RoundTrip.faultResponseReplay (slot : Nat) (id : Nat) : Laws.RoundTrip.Statement (.faultResponseReplay slot id) := fun _ h => absurd rfl h

theorem Laws.RoundTrip.faultResponseDeliver (slot : Nat) (id : Nat) : Laws.RoundTrip.Statement (.faultResponseDeliver slot id) := fun _ h => absurd rfl h

theorem Laws.RoundTrip.faultResponseTerminate (slot : Nat) (id : Nat) : Laws.RoundTrip.Statement (.faultResponseTerminate slot id) := fun _ h => absurd rfl h

theorem Laws.RoundTrip.registerWrite (off : Nat) (value : BitVec 64) : Laws.RoundTrip.Statement (.registerWrite off value) := fun _ h => absurd rfl h

theorem Laws.RoundTrip.linkPolicyWrite (p : LinkPolicy) : Laws.RoundTrip.Statement (.linkPolicyWrite p) := fun _ h => absurd rfl h

theorem Laws.RoundTrip.hostVacateReply (tower : Nat) : Laws.RoundTrip.Statement (.hostVacateReply tower) := fun _ h => absurd rfl h

theorem Laws.RoundTrip.attestationReport (nonce : List (BitVec 8)) : Laws.RoundTrip.Statement (.attestationReport nonce) := fun _ h => absurd rfl h

theorem Laws.RoundTrip.keyLoad (k : KeySlot) : Laws.RoundTrip.Statement (.keyLoad k) := fun _ h => absurd rfl h

theorem Laws.RoundTrip.moduleReset (fw : Firmware) (cfg : ConfigRecord) : Laws.RoundTrip.Statement (.moduleReset fw cfg) := fun _ h => absurd rfl h

theorem Laws.RoundTrip.thermalThrottle (level : Nat) : Laws.RoundTrip.Statement (.thermalThrottle level) := fun _ h => absurd rfl h

theorem Laws.RoundTrip.thermalShutdown : Laws.RoundTrip.Statement .thermalShutdown := fun _ h => absurd rfl h

theorem Laws.RoundTrip.illegalEncoding (nbytes : Nat) (raw : BitVec 64) : Laws.RoundTrip.Statement (.illegalEncoding nbytes raw) := fun _ h => absurd rfl h

theorem Laws.RoundTrip.variableLatencyResult (u : Nat) (k : Nat) : Laws.RoundTrip.Statement (.variableLatencyResult u k) := fun _ h => absurd rfl h

theorem Laws.RoundTrip.wctPassed (u : Nat) : Laws.RoundTrip.Statement (.wctPassed u) := fun _ h => absurd rfl h

theorem Laws.RoundTrip.linkTraining (port : Nat) : Laws.RoundTrip.Statement (.linkTraining port) := fun _ h => absurd rfl h

theorem Laws.RoundTrip.hostCompletion (u : Nat) (r : Nat) : Laws.RoundTrip.Statement (.hostCompletion u r) := fun _ h => absurd rfl h

end Sys2Proof
end

