-- ==== Sys2Proof/Tests/Slice0.lean ====
section
/-!
SUPPORT. The model's own tests: words laid out by hand from the encoding tables and what they decode to, ill-formed terms that the checks refuse, single steps, and for each statement with hypotheses a state that meets them.
-/

set_option maxRecDepth 100000
set_option Elab.async false

namespace Sys2Proof.Tests

open Sys2Proof Sys2Proof.Machine

/-- Table 2.2: one word of each operation, laid out by hand from the tables of the manual. -/
theorem test_decode_c16_1 :
    decodeWord 2 0xa982 = .ok (.movB32C16 { b := 21, d := 6, s := 1 }) ∧
    decodeWord 2 0xa986 = .ok (.addS32C16 { b := 21, d := 6, s := 1 }) ∧
    decodeWord 2 0xa98a = .ok (.subS32C16 { b := 21, d := 6, s := 1 }) ∧
    decodeWord 2 0xa98e = .ok (.andB32C16 { b := 21, d := 6, s := 1 }) ∧
    decodeWord 2 0xa992 = .ok (.orB32C16 { b := 21, d := 6, s := 1 }) ∧
    decodeWord 2 0xa996 = .ok (.xorB32C16 { b := 21, d := 6, s := 1 }) ∧
    decodeWord 2 0xa99a = .ok (.shlB32C16 { b := 21, d := 6, s := 1 }) ∧
    decodeWord 2 0xa99e = .ok (.shrB32C16 { b := 21, d := 6, s := 1 }) ∧
    decodeWord 2 0xa9a2 = .ok (.sarB32C16 { b := 21, d := 6, s := 1 }) ∧
    decodeWord 2 0xa9a6 = .ok (.minS32C16 { b := 21, d := 6, s := 1 }) ∧
    decodeWord 2 0xa9aa = .ok (.maxS32C16 { b := 21, d := 6, s := 1 }) ∧
    decodeWord 2 0xa9ae = .ok (.faddF32C16 { b := 21, d := 6, s := 1 }) := by
  decide +kernel

/-- Table 2.2: one word of each operation, laid out by hand from the tables of the manual. -/
theorem test_decode_c16_2 :
    decodeWord 2 0xa9b2 = .ok (.fsubF32C16 { b := 21, d := 6, s := 1 }) ∧
    decodeWord 2 0xa9b6 = .ok (.fmulF32C16 { b := 21, d := 6, s := 1 }) ∧
    decodeWord 2 0xa9ba = .ok (.fminF32C16 { b := 21, d := 6, s := 1 }) ∧
    decodeWord 2 0xa9be = .ok (.fmaxF32C16 { b := 21, d := 6, s := 1 }) := by
  decide +kernel

/-- Table 2.4: one word of each operation, laid out by hand from the tables of the manual. -/
theorem test_decode_b32_1 :
    decodeWord 4 0xa8898015 = .ok (.addS32B32 { b := 84, a := 34, d := 48, stall := 5 }) ∧
    decodeWord 4 0xa8898035 = .ok (.addS32ImmB32 { b := 84, a := 34, d := 48, stall := 5 }) ∧
    decodeWord 4 0xa8898055 = .ok (.subS32B32 { b := 84, a := 34, d := 48, stall := 5 }) ∧
    decodeWord 4 0xa8898075 = .ok (.subS32ImmB32 { b := 84, a := 34, d := 48, stall := 5 }) ∧
    decodeWord 4 0xa8898095 = .ok (.minS32B32 { b := 84, a := 34, d := 48, stall := 5 }) ∧
    decodeWord 4 0xa88980b5 = .ok (.maxS32B32 { b := 84, a := 34, d := 48, stall := 5 }) ∧
    decodeWord 4 0xa88980d5 = .ok (.minN32B32 { b := 84, a := 34, d := 48, stall := 5 }) ∧
    decodeWord 4 0xa88980f5 = .ok (.maxN32B32 { b := 84, a := 34, d := 48, stall := 5 }) ∧
    decodeWord 4 0x00898115 = .ok (.absS32B32 { b := 0, a := 34, d := 48, stall := 5 }) ∧
    decodeWord 4 0xa8898135 = .ok (.addSatS32B32 { b := 84, a := 34, d := 48, stall := 5 }) ∧
    decodeWord 4 0xa8898155 = .ok (.mulLoS32B32 { b := 84, a := 34, d := 48, stall := 5 }) ∧
    decodeWord 4 0xa8898175 = .ok (.mulHiN32B32 { b := 84, a := 34, d := 48, stall := 5 }) := by
  decide +kernel

/-- Table 2.4: one word of each operation, laid out by hand from the tables of the manual. -/
theorem test_decode_b32_2 :
    decodeWord 4 0xa8898195 = .ok (.madLoS32B32 { b := 84, a := 34, d := 48, stall := 5 }) ∧
    decodeWord 4 0xa88981b5 = .ok (.dp4S8B32 { b := 84, a := 34, d := 48, stall := 5 }) ∧
    decodeWord 4 0xa88981d5 = .ok (.andB32B32 { b := 84, a := 34, d := 48, stall := 5 }) ∧
    decodeWord 4 0xa88981f5 = .ok (.orB32B32 { b := 84, a := 34, d := 48, stall := 5 }) ∧
    decodeWord 4 0xa8898215 = .ok (.xorB32B32 { b := 84, a := 34, d := 48, stall := 5 }) ∧
    decodeWord 4 0xa8898235 = .ok (.andnB32B32 { b := 84, a := 34, d := 48, stall := 5 }) ∧
    decodeWord 4 0xa8898255 = .ok (.andB32ImmB32 { b := 84, a := 34, d := 48, stall := 5 }) ∧
    decodeWord 4 0xa8898275 = .ok (.orB32ImmB32 { b := 84, a := 34, d := 48, stall := 5 }) ∧
    decodeWord 4 0x00898295 = .ok (.notB32B32 { b := 0, a := 34, d := 48, stall := 5 }) ∧
    decodeWord 4 0xa88982b5 = .ok (.shlB32B32 { b := 84, a := 34, d := 48, stall := 5 }) ∧
    decodeWord 4 0xa88982d5 = .ok (.shrB32B32 { b := 84, a := 34, d := 48, stall := 5 }) ∧
    decodeWord 4 0xa88982f5 = .ok (.sarB32B32 { b := 84, a := 34, d := 48, stall := 5 }) := by
  decide +kernel

/-- Table 2.4: one word of each operation, laid out by hand from the tables of the manual. -/
theorem test_decode_b32_3 :
    decodeWord 4 0xa8898315 = .ok (.shlB32ImmB32 { b := 84, a := 34, d := 48, stall := 5 }) ∧
    decodeWord 4 0xa8898335 = .ok (.shrB32ImmB32 { b := 84, a := 34, d := 48, stall := 5 }) ∧
    decodeWord 4 0xa8898355 = .ok (.sarB32ImmB32 { b := 84, a := 34, d := 48, stall := 5 }) ∧
    decodeWord 4 0x00898375 = .ok (.popcB32B32 { b := 0, a := 34, d := 48, stall := 5 }) ∧
    decodeWord 4 0xa8898395 = .ok (.popcLoB32B32 { b := 84, a := 34, d := 48, stall := 5 }) ∧
    decodeWord 4 0x008983b5 = .ok (.clzB32B32 { b := 0, a := 34, d := 48, stall := 5 }) ∧
    decodeWord 4 0xa88983d5 = .ok (.hcellB32 { b := 84, a := 34, d := 48, stall := 5 }) ∧
    decodeWord 4 0x008983f5 = .ok (.movB32B32 { b := 0, a := 34, d := 48, stall := 5 }) ∧
    decodeWord 4 0xa8883415 = .ok (.cmpEqS32B32 { b := 84, a := 34, d := 6, stall := 5 }) ∧
    decodeWord 4 0xa8883435 = .ok (.cmpLtS32B32 { b := 84, a := 34, d := 6, stall := 5 }) ∧
    decodeWord 4 0xa8883455 = .ok (.cmpLtN32B32 { b := 84, a := 34, d := 6, stall := 5 }) ∧
    decodeWord 4 0xa8883475 = .ok (.cmpGeS32B32 { b := 84, a := 34, d := 6, stall := 5 }) := by
  decide +kernel

/-- Table 2.4: one word of each operation, laid out by hand from the tables of the manual. -/
theorem test_decode_b32_4 :
    decodeWord 4 0xa8883495 = .ok (.fcmpLtF32B32 { b := 84, a := 34, d := 6, stall := 5 }) ∧
    decodeWord 4 0xa88834b5 = .ok (.fcmpGeF32B32 { b := 84, a := 34, d := 6, stall := 5 }) ∧
    decodeWord 4 0xa88984d5 = .ok (.faddF32B32 { b := 84, a := 34, d := 48, stall := 5 }) ∧
    decodeWord 4 0xa88984f5 = .ok (.fsubF32B32 { b := 84, a := 34, d := 48, stall := 5 }) ∧
    decodeWord 4 0xa8898515 = .ok (.fmulF32B32 { b := 84, a := 34, d := 48, stall := 5 }) ∧
    decodeWord 4 0xa8898535 = .ok (.ffmaF32B32 { b := 84, a := 34, d := 48, stall := 5 }) ∧
    decodeWord 4 0xa8898555 = .ok (.fminF32B32 { b := 84, a := 34, d := 48, stall := 5 }) ∧
    decodeWord 4 0xa8898575 = .ok (.fmaxF32B32 { b := 84, a := 34, d := 48, stall := 5 }) ∧
    decodeWord 4 0x00898595 = .ok (.fabsF32B32 { b := 0, a := 34, d := 48, stall := 5 }) ∧
    decodeWord 4 0x008985b5 = .ok (.fnegF32B32 { b := 0, a := 34, d := 48, stall := 5 }) ∧
    decodeWord 4 0xa88985d5 = .ok (.faddF16x2B32 { b := 84, a := 34, d := 48, stall := 5 }) ∧
    decodeWord 4 0xa88985f5 = .ok (.fmulF16x2B32 { b := 84, a := 34, d := 48, stall := 5 }) := by
  decide +kernel

/-- Table 2.4: one word of each operation, laid out by hand from the tables of the manual. -/
theorem test_decode_b32_5 :
    decodeWord 4 0xa8898615 = .ok (.ffmaF16x2B32 { b := 84, a := 34, d := 48, stall := 5 }) ∧
    decodeWord 4 0xa8898635 = .ok (.faddBf16x2B32 { b := 84, a := 34, d := 48, stall := 5 }) ∧
    decodeWord 4 0xa8898655 = .ok (.fmulBf16x2B32 { b := 84, a := 34, d := 48, stall := 5 }) ∧
    decodeWord 4 0xa8898675 = .ok (.ffmaBf16x2B32 { b := 84, a := 34, d := 48, stall := 5 }) ∧
    decodeWord 4 0xa8898695 = .ok (.faddF64B32 { b := 84, a := 34, d := 48, stall := 5 }) ∧
    decodeWord 4 0xa88986b5 = .ok (.fmulF64B32 { b := 84, a := 34, d := 48, stall := 5 }) ∧
    decodeWord 4 0xa88986d5 = .ok (.ffmaF64B32 { b := 84, a := 34, d := 48, stall := 5 }) ∧
    decodeWord 4 0x008986f5 = .ok (.cvtF32S32B32 { b := 0, a := 34, d := 48, stall := 5 }) ∧
    decodeWord 4 0x00898715 = .ok (.cvtRzS32F32B32 { b := 0, a := 34, d := 48, stall := 5 }) ∧
    decodeWord 4 0x00898735 = .ok (.frcpF32B32 { b := 0, a := 34, d := 48, stall := 5 }) ∧
    decodeWord 4 0x00898755 = .ok (.frsqF32B32 { b := 0, a := 34, d := 48, stall := 5 }) ∧
    decodeWord 4 0x00898775 = .ok (.fexp2F32B32 { b := 0, a := 34, d := 48, stall := 5 }) := by
  decide +kernel

/-- Table 2.4: one word of each operation, laid out by hand from the tables of the manual. -/
theorem test_decode_b32_6 :
    decodeWord 4 0x00898795 = .ok (.flog2F32B32 { b := 0, a := 34, d := 48, stall := 5 }) ∧
    decodeWord 4 0x2824b7b5 = .ok (.sAddB32 { b := 20, a := 9, d := 22, stall := 5 }) ∧
    decodeWord 4 0xa824b7d5 = .ok (.sAddImmB32 { b := 84, a := 9, d := 22, stall := 5 }) ∧
    decodeWord 4 0x0024b7f5 = .ok (.sMovB32 { b := 0, a := 9, d := 22, stall := 5 }) := by
  decide +kernel

/-- Table 2.10: one word of each operation, laid out by hand from the tables of the manual. -/
theorem test_decode_class0_1 :
    decodeWord 8 0x010f550f5b5b0017 = .ok (.add { rc := 0, pb := 0x87, rb := 0x55, pa := 0x43, ra := 0x6b, rd := 0x35, guard := 0xb, stall := 5 }) ∧
    decodeWord 8 0x010f550f5b5b0037 = .ok (.sub { rc := 0, pb := 0x87, rb := 0x55, pa := 0x43, ra := 0x6b, rd := 0x35, guard := 0xb, stall := 5 }) ∧
    decodeWord 8 0x290f550f5b5b0057 = .ok (.addc { rc := 0x14, pb := 0x87, rb := 0x55, pa := 0x43, ra := 0x6b, rd := 0x35, guard := 0xb, stall := 5 }) ∧
    decodeWord 8 0x290f550f5b5b0077 = .ok (.subb { rc := 0x14, pb := 0x87, rb := 0x55, pa := 0x43, ra := 0x6b, rd := 0x35, guard := 0xb, stall := 5 }) ∧
    decodeWord 8 0x010f550f5b5b0097 = .ok (.addSatS32 { rc := 0, pb := 0x87, rb := 0x55, pa := 0x43, ra := 0x6b, rd := 0x35, guard := 0xb, stall := 5 }) ∧
    decodeWord 8 0x010f550f5b5b00b7 = .ok (.addSatN32 { rc := 0, pb := 0x87, rb := 0x55, pa := 0x43, ra := 0x6b, rd := 0x35, guard := 0xb, stall := 5 }) ∧
    decodeWord 8 0x010f550f5b5b00d7 = .ok (.subSatS32 { rc := 0, pb := 0x87, rb := 0x55, pa := 0x43, ra := 0x6b, rd := 0x35, guard := 0xb, stall := 5 }) ∧
    decodeWord 8 0x010f550f5b5b00f7 = .ok (.subSatN32 { rc := 0, pb := 0x87, rb := 0x55, pa := 0x43, ra := 0x6b, rd := 0x35, guard := 0xb, stall := 5 }) ∧
    decodeWord 8 0x010f550f5b5b0117 = .ok (.minS32 { rc := 0, pb := 0x87, rb := 0x55, pa := 0x43, ra := 0x6b, rd := 0x35, guard := 0xb, stall := 5 }) ∧
    decodeWord 8 0x010f550f5b5b0137 = .ok (.minN32 { rc := 0, pb := 0x87, rb := 0x55, pa := 0x43, ra := 0x6b, rd := 0x35, guard := 0xb, stall := 5 }) ∧
    decodeWord 8 0x010f550f5b5b0157 = .ok (.maxS32 { rc := 0, pb := 0x87, rb := 0x55, pa := 0x43, ra := 0x6b, rd := 0x35, guard := 0xb, stall := 5 }) ∧
    decodeWord 8 0x010f550f5b5b0177 = .ok (.maxN32 { rc := 0, pb := 0x87, rb := 0x55, pa := 0x43, ra := 0x6b, rd := 0x35, guard := 0xb, stall := 5 }) := by
  decide +kernel

/-- Table 2.10: one word of each operation, laid out by hand from the tables of the manual. -/
theorem test_decode_class0_2 :
    decodeWord 8 0x0000010f5b5b0197 = .ok (.absS32 { rc := 0, pb := 0, rb := 0, pa := 0x43, ra := 0x6b, rd := 0x35, guard := 0xb, stall := 5 }) ∧
    decodeWord 8 0x0000010f5b5b01b7 = .ok (.negS32 { rc := 0, pb := 0, rb := 0, pa := 0x43, ra := 0x6b, rd := 0x35, guard := 0xb, stall := 5 }) ∧
    decodeWord 8 0x010f510f534b0217 = .ok (.addB64 { rc := 0, pb := 0x87, rb := 0x54, pa := 0x43, ra := 0x6a, rd := 0x34, guard := 0xb, stall := 5 }) ∧
    decodeWord 8 0x010f510f534b0237 = .ok (.subB64 { rc := 0, pb := 0x87, rb := 0x54, pa := 0x43, ra := 0x6a, rd := 0x34, guard := 0xb, stall := 5 }) ∧
    decodeWord 8 0x010f510f534b0317 = .ok (.minS64 { rc := 0, pb := 0x87, rb := 0x54, pa := 0x43, ra := 0x6a, rd := 0x34, guard := 0xb, stall := 5 }) ∧
    decodeWord 8 0x010f510f534b0337 = .ok (.minN64 { rc := 0, pb := 0x87, rb := 0x54, pa := 0x43, ra := 0x6a, rd := 0x34, guard := 0xb, stall := 5 }) ∧
    decodeWord 8 0x010f510f534b0357 = .ok (.maxS64 { rc := 0, pb := 0x87, rb := 0x54, pa := 0x43, ra := 0x6a, rd := 0x34, guard := 0xb, stall := 5 }) ∧
    decodeWord 8 0x010f510f534b0377 = .ok (.maxN64 { rc := 0, pb := 0x87, rb := 0x54, pa := 0x43, ra := 0x6a, rd := 0x34, guard := 0xb, stall := 5 }) := by
  decide +kernel

/-- Table 2.10: one word of each operation, laid out by hand from the tables of the manual. -/
theorem test_decode_class1 :
    decodeWord 8 0x010f550f5b5b0817 = .ok (.mulLo { rc := 0, pb := 0x87, rb := 0x55, pa := 0x43, ra := 0x6b, rd := 0x35, guard := 0xb, stall := 5 }) ∧
    decodeWord 8 0x010f550f5b5b0837 = .ok (.mulHiS32 { rc := 0, pb := 0x87, rb := 0x55, pa := 0x43, ra := 0x6b, rd := 0x35, guard := 0xb, stall := 5 }) ∧
    decodeWord 8 0x010f550f5b5b0857 = .ok (.mulHiN32 { rc := 0, pb := 0x87, rb := 0x55, pa := 0x43, ra := 0x6b, rd := 0x35, guard := 0xb, stall := 5 }) ∧
    decodeWord 8 0x9b0f550f5b5b0877 = .ok (.madLo { rc := 0x4d, pb := 0x87, rb := 0x55, pa := 0x43, ra := 0x6b, rd := 0x35, guard := 0xb, stall := 5 }) ∧
    decodeWord 8 0x9b0f550f5b5b0897 = .ok (.madHiS32 { rc := 0x4d, pb := 0x87, rb := 0x55, pa := 0x43, ra := 0x6b, rd := 0x35, guard := 0xb, stall := 5 }) ∧
    decodeWord 8 0x9b0f550f5b5b08b7 = .ok (.madHiN32 { rc := 0x4d, pb := 0x87, rb := 0x55, pa := 0x43, ra := 0x6b, rd := 0x35, guard := 0xb, stall := 5 }) ∧
    decodeWord 8 0x010f550f5b5b08d7 = .ok (.divS32 { rc := 0, pb := 0x87, rb := 0x55, pa := 0x43, ra := 0x6b, rd := 0x35, guard := 0xb, stall := 5 }) ∧
    decodeWord 8 0x010f550f5b5b08f7 = .ok (.divN32 { rc := 0, pb := 0x87, rb := 0x55, pa := 0x43, ra := 0x6b, rd := 0x35, guard := 0xb, stall := 5 }) ∧
    decodeWord 8 0x010f550f5b5b0917 = .ok (.remS32 { rc := 0, pb := 0x87, rb := 0x55, pa := 0x43, ra := 0x6b, rd := 0x35, guard := 0xb, stall := 5 }) ∧
    decodeWord 8 0x010f550f5b5b0937 = .ok (.remN32 { rc := 0, pb := 0x87, rb := 0x55, pa := 0x43, ra := 0x6b, rd := 0x35, guard := 0xb, stall := 5 }) ∧
    decodeWord 8 0x9b0f550f5b5b0957 = .ok (.dp4S8 { rc := 0x4d, pb := 0x87, rb := 0x55, pa := 0x43, ra := 0x6b, rd := 0x35, guard := 0xb, stall := 5 }) ∧
    decodeWord 8 0x9b0f550f5b5b0977 = .ok (.dp4N8 { rc := 0x4d, pb := 0x87, rb := 0x55, pa := 0x43, ra := 0x6b, rd := 0x35, guard := 0xb, stall := 5 }) := by
  decide +kernel

/-- Table 2.10: one word of each operation, laid out by hand from the tables of the manual. -/
theorem test_decode_class2_1 :
    decodeWord 8 0x010f550f5b5b1017 = .ok (.and { rc := 0, pb := 0x87, rb := 0x55, pa := 0x43, ra := 0x6b, rd := 0x35, guard := 0xb, stall := 5 }) ∧
    decodeWord 8 0x010f550f5b5b1037 = .ok (.or { rc := 0, pb := 0x87, rb := 0x55, pa := 0x43, ra := 0x6b, rd := 0x35, guard := 0xb, stall := 5 }) ∧
    decodeWord 8 0x010f550f5b5b1057 = .ok (.xor { rc := 0, pb := 0x87, rb := 0x55, pa := 0x43, ra := 0x6b, rd := 0x35, guard := 0xb, stall := 5 }) ∧
    decodeWord 8 0x010f550f5b5b1077 = .ok (.andn { rc := 0, pb := 0x87, rb := 0x55, pa := 0x43, ra := 0x6b, rd := 0x35, guard := 0xb, stall := 5 }) ∧
    decodeWord 8 0x0000010f5b5b1097 = .ok (.not { rc := 0, pb := 0, rb := 0, pa := 0x43, ra := 0x6b, rd := 0x35, guard := 0xb, stall := 5 }) ∧
    decodeWord 8 0x010f550f5b5b10b7 = .ok (.shl { rc := 0, pb := 0x87, rb := 0x55, pa := 0x43, ra := 0x6b, rd := 0x35, guard := 0xb, stall := 5 }) ∧
    decodeWord 8 0x010f550f5b5b10d7 = .ok (.shr { rc := 0, pb := 0x87, rb := 0x55, pa := 0x43, ra := 0x6b, rd := 0x35, guard := 0xb, stall := 5 }) ∧
    decodeWord 8 0x010f550f5b5b10f7 = .ok (.sar { rc := 0, pb := 0x87, rb := 0x55, pa := 0x43, ra := 0x6b, rd := 0x35, guard := 0xb, stall := 5 }) ∧
    decodeWord 8 0x010f550f5b5b1117 = .ok (.rol { rc := 0, pb := 0x87, rb := 0x55, pa := 0x43, ra := 0x6b, rd := 0x35, guard := 0xb, stall := 5 }) ∧
    decodeWord 8 0x9b0f550f5b5b1137 = .ok (.bfeS32 { rc := 0x4d, pb := 0x87, rb := 0x55, pa := 0x43, ra := 0x6b, rd := 0x35, guard := 0xb, stall := 5 }) ∧
    decodeWord 8 0x9b0f550f5b5b1157 = .ok (.bfeN32 { rc := 0x4d, pb := 0x87, rb := 0x55, pa := 0x43, ra := 0x6b, rd := 0x35, guard := 0xb, stall := 5 }) ∧
    decodeWord 8 0x9b0f550f5b5b1177 = .ok (.bfi { rc := 0x4d, pb := 0x87, rb := 0x55, pa := 0x43, ra := 0x6b, rd := 0x35, guard := 0xb, stall := 5 }) := by
  decide +kernel

/-- Table 2.10: one word of each operation, laid out by hand from the tables of the manual. -/
theorem test_decode_class2_2 :
    decodeWord 8 0x0000010f5b5b1197 = .ok (.brev { rc := 0, pb := 0, rb := 0, pa := 0x43, ra := 0x6b, rd := 0x35, guard := 0xb, stall := 5 }) ∧
    decodeWord 8 0x0000010f5b5b11b7 = .ok (.popc { rc := 0, pb := 0, rb := 0, pa := 0x43, ra := 0x6b, rd := 0x35, guard := 0xb, stall := 5 }) ∧
    decodeWord 8 0x010f550f5b5b11d7 = .ok (.popcLo { rc := 0, pb := 0x87, rb := 0x55, pa := 0x43, ra := 0x6b, rd := 0x35, guard := 0xb, stall := 5 }) ∧
    decodeWord 8 0x0000010f5b5b11f7 = .ok (.clz { rc := 0, pb := 0, rb := 0, pa := 0x43, ra := 0x6b, rd := 0x35, guard := 0xb, stall := 5 }) ∧
    decodeWord 8 0x0000010f5b5b1217 = .ok (.ctz { rc := 0, pb := 0, rb := 0, pa := 0x43, ra := 0x6b, rd := 0x35, guard := 0xb, stall := 5 }) ∧
    decodeWord 8 0x9b0f550f5b5b1237 = .ok (.hcell { rc := 0x4d, pb := 0x87, rb := 0x55, pa := 0x43, ra := 0x6b, rd := 0x35, guard := 0xb, stall := 5 }) ∧
    decodeWord 8 0x010f550f534b1317 = .ok (.shlB64 { rc := 0, pb := 0x87, rb := 0x55, pa := 0x43, ra := 0x6a, rd := 0x34, guard := 0xb, stall := 5 }) ∧
    decodeWord 8 0x010f550f534b1337 = .ok (.shrB64 { rc := 0, pb := 0x87, rb := 0x55, pa := 0x43, ra := 0x6a, rd := 0x34, guard := 0xb, stall := 5 }) ∧
    decodeWord 8 0x010f550f534b1357 = .ok (.sarB64 { rc := 0, pb := 0x87, rb := 0x55, pa := 0x43, ra := 0x6a, rd := 0x34, guard := 0xb, stall := 5 }) := by
  decide +kernel

/-- Table 2.10: one word of each operation, laid out by hand from the tables of the manual. -/
theorem test_decode_class3 :
    decodeWord 8 0x290f510f505b1817 = .ok (.cmp { rc := 0x14, pb := 0x87, rb := 0x54, pa := 0x43, ra := 0x6a, rd := 5, guard := 0xb, stall := 5 }) ∧
    decodeWord 8 0x110f510f505b1837 = .ok (.fcmp { rc := 8, pb := 0x87, rb := 0x54, pa := 0x43, ra := 0x6a, rd := 5, guard := 0xb, stall := 5 }) ∧
    decodeWord 8 0x110f550f5b5b1857 = .ok (.sel { rc := 8, pb := 0x87, rb := 0x55, pa := 0x43, ra := 0x6b, rd := 0x35, guard := 0xb, stall := 5 }) ∧
    decodeWord 8 0x0000010f5b5b1877 = .ok (.mov { rc := 0, pb := 0, rb := 0, pa := 0x43, ra := 0x6b, rd := 0x35, guard := 0xb, stall := 5 }) ∧
    decodeWord 8 0x055e6891ab5b1897 = .ok (.li { imm := 0xabcd1235, rd := 0x35, guard := 0xb, stall := 5 }) ∧
    decodeWord 8 0x00001400285b1917 = .ok (.pand { rc := 0, pb := 0, rb := 5, pa := 0, ra := 5, rd := 5, guard := 0xb, stall := 5 }) ∧
    decodeWord 8 0x00001400285b1937 = .ok (.por { rc := 0, pb := 0, rb := 5, pa := 0, ra := 5, rd := 5, guard := 0xb, stall := 5 }) ∧
    decodeWord 8 0x00001400285b1957 = .ok (.pxor { rc := 0, pb := 0, rb := 5, pa := 0, ra := 5, rd := 5, guard := 0xb, stall := 5 }) ∧
    decodeWord 8 0x00000000285b1977 = .ok (.pnot { rc := 0, pb := 0, rb := 0, pa := 0, ra := 5, rd := 5, guard := 0xb, stall := 5 }) := by
  decide +kernel

/-- Table 2.10: one word of each operation, laid out by hand from the tables of the manual. -/
theorem test_decode_class4_1 :
    decodeWord 8 0x070f550f5b5b2017 = .ok (.faddF32 { rc := 3, pb := 0x87, rb := 0x55, pa := 0x43, ra := 0x6b, rd := 0x35, guard := 0xb, stall := 5 }) ∧
    decodeWord 8 0x070f550f5b5b2037 = .ok (.fsubF32 { rc := 3, pb := 0x87, rb := 0x55, pa := 0x43, ra := 0x6b, rd := 0x35, guard := 0xb, stall := 5 }) ∧
    decodeWord 8 0x070f550f5b5b2057 = .ok (.fmulF32 { rc := 3, pb := 0x87, rb := 0x55, pa := 0x43, ra := 0x6b, rd := 0x35, guard := 0xb, stall := 5 }) ∧
    decodeWord 8 0x070f550f5b5b2077 = .ok (.fdivF32 { rc := 3, pb := 0x87, rb := 0x55, pa := 0x43, ra := 0x6b, rd := 0x35, guard := 0xb, stall := 5 }) ∧
    decodeWord 8 0x0600010f5b5b2097 = .ok (.fsqrtF32 { rc := 3, pb := 0, rb := 0, pa := 0x43, ra := 0x6b, rd := 0x35, guard := 0xb, stall := 5 }) ∧
    decodeWord 8 0x0600010f5b5b20b7 = .ok (.frndF32 { rc := 3, pb := 0, rb := 0, pa := 0x43, ra := 0x6b, rd := 0x35, guard := 0xb, stall := 5 }) ∧
    decodeWord 8 0x070f550f5b5b20d7 = .ok (.ldexpF32 { rc := 3, pb := 0x87, rb := 0x55, pa := 0x43, ra := 0x6b, rd := 0x35, guard := 0xb, stall := 5 }) ∧
    decodeWord 8 0x010f550f5b5b20f7 = .ok (.fminF32 { rc := 0, pb := 0x87, rb := 0x55, pa := 0x43, ra := 0x6b, rd := 0x35, guard := 0xb, stall := 5 }) ∧
    decodeWord 8 0x010f550f5b5b2117 = .ok (.fmaxF32 { rc := 0, pb := 0x87, rb := 0x55, pa := 0x43, ra := 0x6b, rd := 0x35, guard := 0xb, stall := 5 }) ∧
    decodeWord 8 0x010f550f5b5b2137 = .ok (.fminNanF32 { rc := 0, pb := 0x87, rb := 0x55, pa := 0x43, ra := 0x6b, rd := 0x35, guard := 0xb, stall := 5 }) ∧
    decodeWord 8 0x010f550f5b5b2157 = .ok (.fmaxNanF32 { rc := 0, pb := 0x87, rb := 0x55, pa := 0x43, ra := 0x6b, rd := 0x35, guard := 0xb, stall := 5 }) ∧
    decodeWord 8 0x0000010f5b5b2177 = .ok (.fabsF32 { rc := 0, pb := 0, rb := 0, pa := 0x43, ra := 0x6b, rd := 0x35, guard := 0xb, stall := 5 }) := by
  decide +kernel

/-- Table 2.10: one word of each operation, laid out by hand from the tables of the manual. -/
theorem test_decode_class4_2 :
    decodeWord 8 0x0000010f5b5b2197 = .ok (.fnegF32 { rc := 0, pb := 0, rb := 0, pa := 0x43, ra := 0x6b, rd := 0x35, guard := 0xb, stall := 5 }) ∧
    decodeWord 8 0x0000010f5b5b21b7 = .ok (.fclassF32 { rc := 0, pb := 0, rb := 0, pa := 0x43, ra := 0x6b, rd := 0x35, guard := 0xb, stall := 5 }) ∧
    decodeWord 8 0x9b0f550f5b5b2237 = .ok (.ffmaF32 1 { rc := 0x4d, pb := 0x87, rb := 0x55, pa := 0x43, ra := 0x6b, rd := 0x35, guard := 0xb, stall := 5 }) := by
  decide +kernel

/-- Table 2.10: one word of each operation, laid out by hand from the tables of the manual. -/
theorem test_decode_class5 :
    decodeWord 8 0x070f550f5b5b2c17 = .ok (.faddX2 1 { rc := 3, pb := 0x87, rb := 0x55, pa := 0x43, ra := 0x6b, rd := 0x35, guard := 0xb, stall := 5 }) ∧
    decodeWord 8 0x070f550f5b5b2c37 = .ok (.fsubX2 1 { rc := 3, pb := 0x87, rb := 0x55, pa := 0x43, ra := 0x6b, rd := 0x35, guard := 0xb, stall := 5 }) ∧
    decodeWord 8 0x070f550f5b5b2c57 = .ok (.fmulX2 1 { rc := 3, pb := 0x87, rb := 0x55, pa := 0x43, ra := 0x6b, rd := 0x35, guard := 0xb, stall := 5 }) ∧
    decodeWord 8 0x010f550f5b5b2cf7 = .ok (.fminX2 1 { rc := 0, pb := 0x87, rb := 0x55, pa := 0x43, ra := 0x6b, rd := 0x35, guard := 0xb, stall := 5 }) ∧
    decodeWord 8 0x010f550f5b5b2d17 = .ok (.fmaxX2 1 { rc := 0, pb := 0x87, rb := 0x55, pa := 0x43, ra := 0x6b, rd := 0x35, guard := 0xb, stall := 5 }) ∧
    decodeWord 8 0x010f550f5b5b2d37 = .ok (.fminNanX2 1 { rc := 0, pb := 0x87, rb := 0x55, pa := 0x43, ra := 0x6b, rd := 0x35, guard := 0xb, stall := 5 }) ∧
    decodeWord 8 0x010f550f5b5b2d57 = .ok (.fmaxNanX2 1 { rc := 0, pb := 0x87, rb := 0x55, pa := 0x43, ra := 0x6b, rd := 0x35, guard := 0xb, stall := 5 }) ∧
    decodeWord 8 0x0000010f5b5b2d77 = .ok (.fabsX2 1 { rc := 0, pb := 0, rb := 0, pa := 0x43, ra := 0x6b, rd := 0x35, guard := 0xb, stall := 5 }) ∧
    decodeWord 8 0x0000010f5b5b2d97 = .ok (.fnegX2 1 { rc := 0, pb := 0, rb := 0, pa := 0x43, ra := 0x6b, rd := 0x35, guard := 0xb, stall := 5 }) ∧
    decodeWord 8 0x9b0f550f5b5b2e37 = .ok (.ffmaX2 1 1 { rc := 0x4d, pb := 0x87, rb := 0x55, pa := 0x43, ra := 0x6b, rd := 0x35, guard := 0xb, stall := 5 }) := by
  decide +kernel

/-- Table 2.10: one word of each operation, laid out by hand from the tables of the manual. -/
theorem test_decode_class6_1 :
    decodeWord 8 0x070f510f534b3017 = .ok (.faddF64 { rc := 3, pb := 0x87, rb := 0x54, pa := 0x43, ra := 0x6a, rd := 0x34, guard := 0xb, stall := 5 }) ∧
    decodeWord 8 0x070f510f534b3037 = .ok (.fsubF64 { rc := 3, pb := 0x87, rb := 0x54, pa := 0x43, ra := 0x6a, rd := 0x34, guard := 0xb, stall := 5 }) ∧
    decodeWord 8 0x070f510f534b3057 = .ok (.fmulF64 { rc := 3, pb := 0x87, rb := 0x54, pa := 0x43, ra := 0x6a, rd := 0x34, guard := 0xb, stall := 5 }) ∧
    decodeWord 8 0x070f510f534b3077 = .ok (.fdivF64 { rc := 3, pb := 0x87, rb := 0x54, pa := 0x43, ra := 0x6a, rd := 0x34, guard := 0xb, stall := 5 }) ∧
    decodeWord 8 0x0600010f534b3097 = .ok (.fsqrtF64 { rc := 3, pb := 0, rb := 0, pa := 0x43, ra := 0x6a, rd := 0x34, guard := 0xb, stall := 5 }) ∧
    decodeWord 8 0x0600010f534b30b7 = .ok (.frndF64 { rc := 3, pb := 0, rb := 0, pa := 0x43, ra := 0x6a, rd := 0x34, guard := 0xb, stall := 5 }) ∧
    decodeWord 8 0x070f550f534b30d7 = .ok (.ldexpF64 { rc := 3, pb := 0x87, rb := 0x55, pa := 0x43, ra := 0x6a, rd := 0x34, guard := 0xb, stall := 5 }) ∧
    decodeWord 8 0x010f510f534b30f7 = .ok (.fminF64 { rc := 0, pb := 0x87, rb := 0x54, pa := 0x43, ra := 0x6a, rd := 0x34, guard := 0xb, stall := 5 }) ∧
    decodeWord 8 0x010f510f534b3117 = .ok (.fmaxF64 { rc := 0, pb := 0x87, rb := 0x54, pa := 0x43, ra := 0x6a, rd := 0x34, guard := 0xb, stall := 5 }) ∧
    decodeWord 8 0x010f510f534b3137 = .ok (.fminNanF64 { rc := 0, pb := 0x87, rb := 0x54, pa := 0x43, ra := 0x6a, rd := 0x34, guard := 0xb, stall := 5 }) ∧
    decodeWord 8 0x010f510f534b3157 = .ok (.fmaxNanF64 { rc := 0, pb := 0x87, rb := 0x54, pa := 0x43, ra := 0x6a, rd := 0x34, guard := 0xb, stall := 5 }) ∧
    decodeWord 8 0x0000010f534b3177 = .ok (.fabsF64 { rc := 0, pb := 0, rb := 0, pa := 0x43, ra := 0x6a, rd := 0x34, guard := 0xb, stall := 5 }) := by
  decide +kernel

/-- Table 2.10: one word of each operation, laid out by hand from the tables of the manual. -/
theorem test_decode_class6_2 :
    decodeWord 8 0x0000010f534b3197 = .ok (.fnegF64 { rc := 0, pb := 0, rb := 0, pa := 0x43, ra := 0x6a, rd := 0x34, guard := 0xb, stall := 5 }) ∧
    decodeWord 8 0x0000010f535b31b7 = .ok (.fclassF64 { rc := 0, pb := 0, rb := 0, pa := 0x43, ra := 0x6a, rd := 0x35, guard := 0xb, stall := 5 }) ∧
    decodeWord 8 0x290f510f534b3237 = .ok (.ffmaF64 1 { rc := 0x14, pb := 0x87, rb := 0x54, pa := 0x43, ra := 0x6a, rd := 0x34, guard := 0xb, stall := 5 }) := by
  decide +kernel

/-- Table 2.10: one word of each operation, laid out by hand from the tables of the manual. -/
theorem test_decode_class7 :
    decodeWord 8 0x101014035b5b3817 = .ok (.cvt { rc := 8, pb := 8, rb := 5, pa := 0, ra := 0x6b, rd := 0x35, guard := 0xb, stall := 5 }) ∧
    decodeWord 8 0x070f550f435b3837 = .ok (.q4xEnc { rc := 3, pb := 0x87, rb := 0x55, pa := 0x43, ra := 0x68, rd := 0x35, guard := 0xb, stall := 5 }) ∧
    decodeWord 8 0x070f550f5b0b3857 = .ok (.q4xDec { rc := 3, pb := 0x87, rb := 0x55, pa := 0x43, ra := 0x6b, rd := 0x30, guard := 0xb, stall := 5 }) := by
  decide +kernel

/-- Table 2.10: one word of each operation, laid out by hand from the tables of the manual. -/
theorem test_decode_class8 :
    decodeWord 8 0x0000010f5b5b4017 = .ok (.frcp { rc := 0, pb := 0, rb := 0, pa := 0x43, ra := 0x6b, rd := 0x35, guard := 0xb, stall := 5 }) ∧
    decodeWord 8 0x0000010f5b5b4037 = .ok (.frsq { rc := 0, pb := 0, rb := 0, pa := 0x43, ra := 0x6b, rd := 0x35, guard := 0xb, stall := 5 }) ∧
    decodeWord 8 0x0000010f5b5b4057 = .ok (.fexp2 { rc := 0, pb := 0, rb := 0, pa := 0x43, ra := 0x6b, rd := 0x35, guard := 0xb, stall := 5 }) ∧
    decodeWord 8 0x0000010f5b5b4077 = .ok (.flog2 { rc := 0, pb := 0, rb := 0, pa := 0x43, ra := 0x6b, rd := 0x35, guard := 0xb, stall := 5 }) ∧
    decodeWord 8 0x0000010f5b5b4097 = .ok (.fsin { rc := 0, pb := 0, rb := 0, pa := 0x43, ra := 0x6b, rd := 0x35, guard := 0xb, stall := 5 }) ∧
    decodeWord 8 0x0000010f5b5b40b7 = .ok (.fcos { rc := 0, pb := 0, rb := 0, pa := 0x43, ra := 0x6b, rd := 0x35, guard := 0xb, stall := 5 }) ∧
    decodeWord 8 0x0000010f5b5b40d7 = .ok (.ftanh { rc := 0, pb := 0, rb := 0, pa := 0x43, ra := 0x6b, rd := 0x35, guard := 0xb, stall := 5 }) := by
  decide +kernel

/-- Table 2.10: one word of each operation, laid out by hand from the tables of the manual. -/
theorem test_decode_class9 :
    decodeWord 8 0x055e6891a80b4817 = .ok (.br { imm := 0xabcd1235, rd := 0, guard := 0xb, stall := 5 }) ∧
    decodeWord 8 0x00000000a80b4837 = .ok (.brInd { rc := 0, pb := 0, rb := 0, pa := 0, ra := 0x15, rd := 0, guard := 0xb, stall := 5 }) ∧
    decodeWord 8 0x055e6891a97b4857 = .ok (.call { imm := 0xabcd1235, rd := 0x17, guard := 0xb, stall := 5 }) ∧
    decodeWord 8 0x00000000a80b4877 = .ok (.ret { rc := 0, pb := 0, rb := 0, pa := 0, ra := 0x15, rd := 0, guard := 0xb, stall := 5 }) ∧
    decodeWord 8 0x00000000000b4897 = .ok (.exit { rc := 0, pb := 0, rb := 0, pa := 0, ra := 0, rd := 0, guard := 0xb, stall := 5 }) ∧
    decodeWord 8 0x00000000000748b7 = .ok (.nop { rc := 0, pb := 0, rb := 0, pa := 0, ra := 0, rd := 0, guard := 7, stall := 5 }) ∧
    decodeWord 8 0x00000000000748d7 = .ok (.yield { rc := 0, pb := 0, rb := 0, pa := 0, ra := 0, rd := 0, guard := 7, stall := 5 }) ∧
    decodeWord 8 0x055e6891a80748f7 = .ok (.trap { imm := 0xabcd1235, rd := 0, guard := 7, stall := 5 }) ∧
    decodeWord 8 0x0000000000074917 = .ok (.brk { rc := 0, pb := 0, rb := 0, pa := 0, ra := 0, rd := 0, guard := 7, stall := 5 }) ∧
    decodeWord 8 0x0000000000074937 = .ok (.tret { rc := 0, pb := 0, rb := 0, pa := 0, ra := 0, rd := 0, guard := 7, stall := 5 }) := by
  decide +kernel

/-- Table 2.10: one word of each operation, laid out by hand from the tables of the manual. -/
theorem test_decode_class10 :
    decodeWord 8 0x00001400035b5017 = .ok (.movSr { rc := 0, pb := 0, rb := 5, pa := 0, ra := 0, rd := 0x35, guard := 0xb, stall := 5 }) ∧
    decodeWord 8 0x0000004031775037 = .ok (.csrRd { imm := 0x806, rd := 0x17, guard := 7, stall := 5 }) ∧
    decodeWord 8 0x0000004031775057 = .ok (.csrWr { imm := 0x806, rd := 0x17, guard := 7, stall := 5 }) ∧
    decodeWord 8 0x0001550f5b5b5077 = .ok (.rget { rc := 0, pb := 0, rb := 0x55, pa := 0x43, ra := 0x6b, rd := 0x35, guard := 0xb, stall := 5 }) ∧
    decodeWord 8 0x0001550f5b5b5097 = .ok (.rput { rc := 0, pb := 0, rb := 0x55, pa := 0x43, ra := 0x6b, rd := 0x35, guard := 0xb, stall := 5 }) := by
  decide +kernel

/-- Table 2.10: one word of each operation, laid out by hand from the tables of the manual. -/
theorem test_decode_class11_1 :
    decodeWord 8 0x00055400a9775817 = .ok (.sAdd { rc := 0, pb := 2, rb := 0x55, pa := 0, ra := 0x15, rd := 0x17, guard := 7, stall := 5 }) ∧
    decodeWord 8 0x00055400a9775837 = .ok (.sSub { rc := 0, pb := 2, rb := 0x55, pa := 0, ra := 0x15, rd := 0x17, guard := 7, stall := 5 }) ∧
    decodeWord 8 0x00055400a9775857 = .ok (.sMul { rc := 0, pb := 2, rb := 0x55, pa := 0, ra := 0x15, rd := 0x17, guard := 7, stall := 5 }) ∧
    decodeWord 8 0x00055400a9775877 = .ok (.sAnd { rc := 0, pb := 2, rb := 0x55, pa := 0, ra := 0x15, rd := 0x17, guard := 7, stall := 5 }) ∧
    decodeWord 8 0x00055400a9775897 = .ok (.sOr { rc := 0, pb := 2, rb := 0x55, pa := 0, ra := 0x15, rd := 0x17, guard := 7, stall := 5 }) ∧
    decodeWord 8 0x00055400a97758b7 = .ok (.sXor { rc := 0, pb := 2, rb := 0x55, pa := 0, ra := 0x15, rd := 0x17, guard := 7, stall := 5 }) ∧
    decodeWord 8 0x00055400a97758d7 = .ok (.sShl { rc := 0, pb := 2, rb := 0x55, pa := 0, ra := 0x15, rd := 0x17, guard := 7, stall := 5 }) ∧
    decodeWord 8 0x00055400a97758f7 = .ok (.sShr { rc := 0, pb := 2, rb := 0x55, pa := 0, ra := 0x15, rd := 0x17, guard := 7, stall := 5 }) ∧
    decodeWord 8 0x00055400a9775917 = .ok (.sSar { rc := 0, pb := 2, rb := 0x55, pa := 0, ra := 0x15, rd := 0x17, guard := 7, stall := 5 }) ∧
    decodeWord 8 0x055e6891a9775937 = .ok (.sLi { imm := 0xabcd1235, rd := 0x17, guard := 7, stall := 5 }) ∧
    decodeWord 8 0x00000000a9775957 = .ok (.sMov { rc := 0, pb := 0, rb := 0, pa := 0, ra := 0x15, rd := 0x17, guard := 7, stall := 5 }) ∧
    decodeWord 8 0x28055400a8575977 = .ok (.sCmp { rc := 0x14, pb := 2, rb := 0x55, pa := 0, ra := 0x15, rd := 5, guard := 7, stall := 5 }) := by
  decide +kernel

/-- Table 2.10: one word of each operation, laid out by hand from the tables of the manual. -/
theorem test_decode_class11_2 :
    decodeWord 8 0x10055400a9775997 = .ok (.sSel { rc := 8, pb := 2, rb := 0x55, pa := 0, ra := 0x15, rd := 0x17, guard := 7, stall := 5 }) ∧
    decodeWord 8 0xeaf36c00a97759b7 = .ok (.sLd { off := 0x3abcd, scope := 5, rtype := 2, scale := 0, vindex := 0, sbase := 0x15, rd := 0x17, guard := 7, stall := 5, mode := 2, code := 5 }) ∧
    decodeWord 8 0x00015403597759d7 = .ok (.sRdl { rc := 0, pb := 0, rb := 0x55, pa := 0, ra := 0x6b, rd := 0x17, guard := 7, stall := 5 }) := by
  decide +kernel

/-- Table 2.10: one word of each operation, laid out by hand from the tables of the manual. -/
theorem test_decode_class12 :
    decodeWord 8 0x070f54035b5b6017 = .ok (.shfl { rc := 3, pb := 0x87, rb := 0x55, pa := 0, ra := 0x6b, rd := 0x35, guard := 0xb, stall := 5 }) ∧
    decodeWord 8 0x00000000285b6037 = .ok (.voteAny { rc := 0, pb := 0, rb := 0, pa := 0, ra := 5, rd := 5, guard := 0xb, stall := 5 }) ∧
    decodeWord 8 0x00000000285b6057 = .ok (.voteAll { rc := 0, pb := 0, rb := 0, pa := 0, ra := 5, rd := 5, guard := 0xb, stall := 5 }) ∧
    decodeWord 8 0x000000002b4b6077 = .ok (.voteBallot { rc := 0, pb := 0, rb := 0, pa := 0, ra := 5, rd := 0x34, guard := 0xb, stall := 5 }) ∧
    decodeWord 8 0x02000003534b6097 = .ok (.matchEq { rc := 1, pb := 0, rb := 0, pa := 0, ra := 0x6a, rd := 0x34, guard := 0xb, stall := 5 }) ∧
    decodeWord 8 0x0a0000035b5b60b7 = .ok (.redLane { rc := 5, pb := 0, rb := 0, pa := 0, ra := 0x6b, rd := 0x35, guard := 0xb, stall := 5 }) ∧
    decodeWord 8 0x0a0000035b5b60d7 = .ok (.scanLane { rc := 5, pb := 0, rb := 0, pa := 0, ra := 0x6b, rd := 0x35, guard := 0xb, stall := 5 }) ∧
    decodeWord 8 0x0a0014035b5b60f7 = .ok (.segred { rc := 5, pb := 0, rb := 5, pa := 0, ra := 0x6b, rd := 0x35, guard := 0xb, stall := 5 }) ∧
    decodeWord 8 0x00000004a80b6117 = .ok (.lsync { rc := 0, pb := 0, rb := 0, pa := 1, ra := 0x15, rd := 0, guard := 0xb, stall := 5 }) ∧
    decodeWord 8 0x060154035b0b6137 = .ok (.topkIns { rc := 3, pb := 0, rb := 0x55, pa := 0, ra := 0x6b, rd := 0x30, guard := 0xb, stall := 5 }) := by
  decide +kernel

/-- Table 2.10: one word of each operation, laid out by hand from the tables of the manual. -/
theorem test_decode_class13 :
    decodeWord 8 0x055e6891a8d76817 = .ok (.brDiv { imm := 0xabcd1235, rd := 0xd, guard := 7, stall := 5 }) ∧
    decodeWord 8 0x0000000000076837 = .ok (.join { rc := 0, pb := 0, rb := 0, pa := 0, ra := 0, rd := 0, guard := 7, stall := 5 }) ∧
    decodeWord 8 0x030f550f580b6857 = .ok (.barInit { rc := 1, pb := 0x87, rb := 0x55, pa := 0x43, ra := 0x6b, rd := 0, guard := 0xb, stall := 5 }) ∧
    decodeWord 8 0x010f550f580b6877 = .ok (.barArr { rc := 0, pb := 0x87, rb := 0x55, pa := 0x43, ra := 0x6b, rd := 0, guard := 0xb, stall := 5 }) ∧
    decodeWord 8 0x0600010f58076897 = .ok (.barWait { rc := 3, pb := 0, rb := 0, pa := 0x43, ra := 0x6b, rd := 0, guard := 7, stall := 5 }) ∧
    decodeWord 8 0x0000010f580768b7 = .ok (.barSync { rc := 0, pb := 0, rb := 0, pa := 0x43, ra := 0x6b, rd := 0, guard := 7, stall := 5 }) ∧
    decodeWord 8 0x0600010f580768d7 = .ok (.stgAcq { rc := 3, pb := 0, rb := 0, pa := 0x43, ra := 0x6b, rd := 0, guard := 7, stall := 5 }) ∧
    decodeWord 8 0x0000010f580768f7 = .ok (.stgRel { rc := 0, pb := 0, rb := 0, pa := 0x43, ra := 0x6b, rd := 0, guard := 7, stall := 5 }) := by
  decide +kernel

/-- Table 2.10: one word of each operation, laid out by hand from the tables of the manual. -/
theorem test_decode_class14 :
    decodeWord 8 0xeaf36dd9ab5b7297 = .ok (.ld { off := 0x3abcd, scope := 5, rtype := 2, scale := 3, vindex := 0x59, sbase := 0x15, rd := 0x35, guard := 0xb, stall := 5, mode := 1, code := 4 }) ∧
    decodeWord 8 0xeaf36dd9ab4b7377 = .ok (.st { off := 0x3abcd, scope := 5, rtype := 2, scale := 3, vindex := 0x59, sbase := 0x15, rd := 0x34, guard := 0xb, stall := 5, mode := 1, code := 0xb }) ∧
    decodeWord 8 0xeaf36dd9a80b73b7 = .ok (.prefetch { off := 0x3abcd, scope := 5, rtype := 2, scale := 3, vindex := 0x59, sbase := 0x15, rd := 0, guard := 0xb, stall := 5, mode := 1, code := 0xd }) := by
  decide +kernel

/-- Table 2.10: one word of each operation, laid out by hand from the tables of the manual. -/
theorem test_decode_class15 :
    decodeWord 8 0xeaf341d9ab4b78d7 = .ok (.ldSp { off := 0x3abcd, scope := 0, rtype := 0, scale := 3, vindex := 0x59, sbase := 0x15, rd := 0x34, guard := 0xb, stall := 5, mode := 0, code := 6 }) ∧
    decodeWord 8 0xeaf341d9ab4b7997 = .ok (.stSp { off := 0x3abcd, scope := 0, rtype := 0, scale := 3, vindex := 0x59, sbase := 0x15, rd := 0x34, guard := 0xb, stall := 5, mode := 0, code := 0xc }) := by
  decide +kernel

/-- Table 2.10: one word of each operation, laid out by hand from the tables of the manual. -/
theorem test_decode_class16 :
    decodeWord 8 0xbcd96dd9ab5b8137 = .ok (.atom { off := 0xbcd, ety := 9, mode := 1, scope := 5, rtype := 2, scale := 3, vindex := 0x59, sbase := 0x15, rd := 0x35, guard := 0xb, stall := 5, code := 9 }) ∧
    decodeWord 8 0xbcd76dd9ab4b80f7 = .ok (.atomCas { off := 0xbcd, ety := 7, mode := 1, scope := 5, rtype := 2, scale := 3, vindex := 0x59, sbase := 0x15, rd := 0x34, guard := 0xb, stall := 5, code := 7 }) ∧
    decodeWord 8 0xbcd76dd9ab4b8117 = .ok (.atomAddlim { off := 0xbcd, ety := 7, mode := 1, scope := 5, rtype := 2, scale := 3, vindex := 0x59, sbase := 0x15, rd := 0x34, guard := 0xb, stall := 5, code := 8 }) ∧
    decodeWord 8 0xbcd769d9ab4b8237 = .ok (.atomSp { off := 0xbcd, ety := 7, mode := 1, scope := 5, rtype := 0, scale := 3, vindex := 0x59, sbase := 0x15, rd := 0x34, guard := 0xb, stall := 5, code := 1 }) ∧
    decodeWord 8 0xbcd96dd9ab5b8557 = .ok (.red { off := 0xbcd, ety := 9, mode := 1, scope := 5, rtype := 2, scale := 3, vindex := 0x59, sbase := 0x15, rd := 0x35, guard := 0xb, stall := 5, code := 0xa }) := by
  decide +kernel

/-- Table 2.10: one word of each operation, laid out by hand from the tables of the manual. -/
theorem test_decode_class17_1 :
    decodeWord 8 0x10000000a8078817 = .ok (.waitCnt { rc := 8, pb := 0, rb := 0, pa := 0, ra := 0x15, rd := 0, guard := 7, stall := 5 }) ∧
    decodeWord 8 0x0000000000078837 = .ok (.waitWct { rc := 0, pb := 0, rb := 0, pa := 0, ra := 0, rd := 0, guard := 7, stall := 5 }) ∧
    decodeWord 8 0x02005800a8578857 = .ok (.waitTl { rc := 1, pb := 0, rb := 0x16, pa := 0, ra := 0x15, rd := 5, guard := 7, stall := 5 }) ∧
    decodeWord 8 0x00005800a8078877 = .ok (.inval { rc := 0, pb := 0, rb := 0x16, pa := 0, ra := 0x15, rd := 0, guard := 7, stall := 5 }) ∧
    decodeWord 8 0x00005800a8078897 = .ok (.wb { rc := 0, pb := 0, rb := 0x16, pa := 0, ra := 0x15, rd := 0, guard := 7, stall := 5 }) ∧
    decodeWord 8 0x00005800a97788b7 = .ok (.seal { rc := 0, pb := 0, rb := 0x16, pa := 0, ra := 0x15, rd := 0x17, guard := 7, stall := 5 }) ∧
    decodeWord 8 0x00005800a97788d7 = .ok (.unseal { rc := 0, pb := 0, rb := 0x16, pa := 0, ra := 0x15, rd := 0x17, guard := 7, stall := 5 }) ∧
    decodeWord 8 0x28005800a97788f7 = .ok (.l2Pin { rc := 0x14, pb := 0, rb := 0x16, pa := 0, ra := 0x15, rd := 0x17, guard := 7, stall := 5 }) ∧
    decodeWord 8 0x00005800a8078917 = .ok (.l2Unpin { rc := 0, pb := 0, rb := 0x16, pa := 0, ra := 0x15, rd := 0, guard := 7, stall := 5 }) ∧
    decodeWord 8 0x00015400a9778937 = .ok (.bankCfgCache { rc := 0, pb := 0, rb := 0x55, pa := 0, ra := 0x15, rd := 0x17, guard := 7, stall := 5 }) ∧
    decodeWord 8 0x02015400a9778937 = .ok (.bankCfgSp { rc := 1, pb := 0, rb := 0x55, pa := 0, ra := 0x15, rd := 0x17, guard := 7, stall := 5 }) ∧
    decodeWord 8 0x04015400a9778937 = .ok (.bankCfgFifo { rc := 2, pb := 0, rb := 0x55, pa := 0, ra := 0x15, rd := 0x17, guard := 7, stall := 5 }) := by
  decide +kernel

/-- Table 2.10: one word of each operation, laid out by hand from the tables of the manual. -/
theorem test_decode_class17_2 :
    decodeWord 8 0x06000000a9778937 = .ok (.bankCfgQuery { rc := 3, pb := 0, rb := 0, pa := 0, ra := 0x15, rd := 0x17, guard := 7, stall := 5 }) := by
  decide +kernel

/-- Table 2.10: one word of each operation, laid out by hand from the tables of the manual. -/
theorem test_decode_class18 :
    decodeWord 8 0x055e6891a9779017 = .ok (.farBegin { imm := 0xabcd1235, rd := 0x17, guard := 7, stall := 5 }) ∧
    decodeWord 8 0x0000000001779037 = .ok (.farEnd { rc := 0, pb := 0, rb := 0, pa := 0, ra := 0, rd := 0x17, guard := 7, stall := 5 }) ∧
    decodeWord 8 0x0000000000079057 = .ok (.farAbort { rc := 0, pb := 0, rb := 0, pa := 0, ra := 0, rd := 0, guard := 7, stall := 5 }) ∧
    decodeWord 8 0x0000000001779077 = .ok (.farStat { rc := 0, pb := 0, rb := 0, pa := 0, ra := 0, rd := 0x17, guard := 7, stall := 5 }) := by
  decide +kernel

/-- Table 2.10: one word of each operation, laid out by hand from the tables of the manual. -/
theorem test_decode_class19 :
    decodeWord 8 0x28005800a9779817 = .ok (.subOpen { rc := 0x14, pb := 0, rb := 0x16, pa := 0, ra := 0x15, rd := 0x17, guard := 7, stall := 5 }) ∧
    decodeWord 8 0x0000580001779837 = .ok (.subClose { rc := 0, pb := 0, rb := 0x16, pa := 0, ra := 0, rd := 0x17, guard := 7, stall := 5 }) ∧
    decodeWord 8 0x0000000000079857 = .ok (.subFlush { rc := 0, pb := 0, rb := 0, pa := 0, ra := 0, rd := 0, guard := 7, stall := 5 }) ∧
    decodeWord 8 0x1001510f580b9877 = .ok (.msgSend { rc := 8, pb := 0, rb := 0x54, pa := 0x43, ra := 0x6b, rd := 0, guard := 0xb, stall := 5 }) ∧
    decodeWord 8 0x06005800a8079897 = .ok (.msgWait { rc := 3, pb := 0, rb := 0x16, pa := 0, ra := 0x15, rd := 0, guard := 7, stall := 5 }) ∧
    decodeWord 8 0x06005800a80798b7 = .ok (.msgPop { rc := 3, pb := 0, rb := 0x16, pa := 0, ra := 0x15, rd := 0, guard := 7, stall := 5 }) := by
  decide +kernel

/-- Table 2.10: one word of each operation, laid out by hand from the tables of the manual. -/
theorem test_decode_class20 :
    decodeWord 8 0x000058275b5ba017 = .ok (.cp { rc := 0, pb := 0, rb := 0x16, pa := 9, ra := 0x6b, rd := 0x35, guard := 0xb, stall := 5 }) ∧
    decodeWord 8 0x28000008a807a037 = .ok (.cpCommit { rc := 0x14, pb := 0, rb := 0, pa := 2, ra := 0x15, rd := 0, guard := 7, stall := 5 }) ∧
    decodeWord 8 0x00005824a977a057 = .ok (.cpTile { rc := 0, pb := 0, rb := 0x16, pa := 9, ra := 0x15, rd := 0x17, guard := 7, stall := 5 }) ∧
    decodeWord 8 0x00005800a807a077 = .ok (.cpZero { rc := 0, pb := 0, rb := 0x16, pa := 0, ra := 0x15, rd := 0, guard := 7, stall := 5 }) ∧
    decodeWord 8 0x290f54275b5ba097 = .ok (.cpGather { rc := 0x14, pb := 0x87, rb := 0x55, pa := 9, ra := 0x6b, rd := 0x35, guard := 0xb, stall := 5 }) ∧
    decodeWord 8 0x290f54275b5ba0b7 = .ok (.cpScatter { rc := 0x14, pb := 0x87, rb := 0x55, pa := 9, ra := 0x6b, rd := 0x35, guard := 0xb, stall := 5 }) ∧
    decodeWord 8 0x28105824a807a0d7 = .ok (.cpUnpack { rc := 0x14, pb := 8, rb := 0x16, pa := 9, ra := 0x15, rd := 0, guard := 7, stall := 5 }) ∧
    decodeWord 8 0x28105800a807a0f7 = .ok (.cpPack { rc := 0x14, pb := 8, rb := 0x16, pa := 0, ra := 0x15, rd := 0, guard := 7, stall := 5 }) ∧
    decodeWord 8 0x28105800a807a117 = .ok (.cpIsect { rc := 0x14, pb := 8, rb := 0x16, pa := 0, ra := 0x15, rd := 0, guard := 7, stall := 5 }) ∧
    decodeWord 8 0x28105800a807a137 = .ok (.cpMerge { rc := 0x14, pb := 8, rb := 0x16, pa := 0, ra := 0x15, rd := 0, guard := 7, stall := 5 }) := by
  decide +kernel

/-- Table 2.10: one word of each operation, laid out by hand from the tables of the manual. -/
theorem test_decode_class21 :
    decodeWord 8 0x9a0058174177a817 = .ok (.mma { rc := 0x4d, pb := 0, rb := 0x16, pa := 5, ra := 0x68, rd := 0x17, guard := 7, stall := 5 }) ∧
    decodeWord 8 0x9a0058174177a837 = .ok (.mmaReuse { rc := 0x4d, pb := 0, rb := 0x16, pa := 5, ra := 0x68, rd := 0x17, guard := 7, stall := 5 }) ∧
    decodeWord 8 0x9a10590ca977a857 = .ok (.mloop { rc := 0x4d, pb := 8, rb := 0x16, pa := 0x43, ra := 0x15, rd := 0x17, guard := 7, stall := 5 }) ∧
    decodeWord 8 0x000000140177a877 = .ok (.maccZero { rc := 0, pb := 0, rb := 0, pa := 5, ra := 0, rd := 0x17, guard := 7, stall := 5 }) ∧
    decodeWord 8 0x28005814a977a897 = .ok (.maccLd { rc := 0x14, pb := 0, rb := 0x16, pa := 5, ra := 0x15, rd := 0x17, guard := 7, stall := 5 }) ∧
    decodeWord 8 0x280058b4a977a8b7 = .ok (.maccSt { rc := 0x14, pb := 0, rb := 0x16, pa := 0x2d, ra := 0x15, rd := 0x17, guard := 7, stall := 5 }) ∧
    decodeWord 8 0x28105814a977a8d7 = .ok (.mhad { rc := 0x14, pb := 8, rb := 0x16, pa := 5, ra := 0x15, rd := 0x17, guard := 7, stall := 5 }) := by
  decide +kernel

/-- Table 2.10: one word of each operation, laid out by hand from the tables of the manual. -/
theorem test_decode_class22 :
    decodeWord 8 0x00000024a977b017 = .ok (.lqPush { rc := 0, pb := 0, rb := 0, pa := 9, ra := 0x15, rd := 0x17, guard := 7, stall := 5 }) ∧
    decodeWord 8 0x000000240177b037 = .ok (.lqPoll { rc := 0, pb := 0, rb := 0, pa := 9, ra := 0, rd := 0x17, guard := 7, stall := 5 }) := by
  decide +kernel

/-- An A64 word with every field zero, guarded always. -/
def z64 : A64 := { rc := 0, pb := 0, rb := 0, pa := 0, ra := 0, rd := 0, guard := 7, stall := 0 }

def zI : AI := { imm := 0, rd := 0, guard := 7, stall := 0 }

def zM : AM := { mode := 0, code := 4, off := 0, scope := 0, rtype := 0, scale := 0, vindex := 0, sbase := 0, rd := 0, guard := 7, stall := 0 }

def zMT : AMT := { code := 0, off := 0, ety := 2, mode := 0, scope := 0, rtype := 0, scale := 0, vindex := 0, sbase := 0, rd := 0, guard := 7, stall := 0 }

def zB : B32 := { b := 0, a := 0, d := 0, stall := 0 }

/-- The terms that the tests below spoil are well formed. -/
theorem test_wf_accepts :
    (Instr.add z64).wf = true ∧ (Instr.ld zM).wf = true ∧ (Instr.atom zMT).wf = true ∧ (Instr.br zI).wf = true ∧ (Instr.addS32B32 zB).wf = true ∧
    (Instr.ffmaF32 1 z64).wf = true ∧ (Instr.exit z64).wf = true ∧ (Instr.cp z64).wf = true ∧ (Instr.cvt { z64 with rb := 1 }).wf = true := by decide

/-- R36: guard 1111, and a guard other than 0111 on an operation marked always. -/
theorem test_wf_guard :
    (Instr.add { z64 with guard := 15 }).wf = false ∧ (Instr.cmp { z64 with guard := 15 }).wf = false ∧ (Instr.pand { z64 with guard := 15 }).wf = false ∧
    (Instr.li { zI with guard := 15 }).wf = false ∧ (Instr.exit { z64 with guard := 15 }).wf = false ∧ (Instr.nop { z64 with guard := 0 }).wf = false ∧
    (Instr.sAdd { z64 with guard := 0 }).wf = false ∧ (Instr.mma { z64 with guard := 0 }).wf = false ∧ (Instr.ld { zM with guard := 15 }).wf = false ∧
    (Instr.atom { zMT with guard := 15 }).wf = false ∧ (Instr.cpTile { z64 with guard := 3 }).wf = false := by decide

/-- R41: uniform registers above s23, predicates above p7, misaligned spans, blocks past s23. -/
theorem test_wf_registers :
    (Instr.sAdd { z64 with rd := 24 }).wf = false ∧ (Instr.call { zI with rd := 24 }).wf = false ∧ (Instr.cmp { z64 with rd := 8 }).wf = false ∧
    (Instr.pand { z64 with rb := 8 }).wf = false ∧ (Instr.addB64 { z64 with rd := 1 }).wf = false ∧ (Instr.addB64 { z64 with ra := 1 }).wf = false ∧
    (Instr.addB64 { z64 with rb := 3 }).wf = false ∧ (Instr.ffmaF64 0 { z64 with rc := 1 }).wf = false ∧ (Instr.faddF64B32 { zB with d := 1 }).wf = false ∧
    (Instr.cmpEqS32B32 { zB with d := 8 }).wf = false ∧ (Instr.sAddB32 { zB with a := 24 }).wf = false ∧ (Instr.cpTile { z64 with rb := 23 }).wf = false ∧
    (Instr.mloop { z64 with pb := 22 }).wf = false ∧ (Instr.mma { z64 with ra := 2 }).wf = false ∧ (Instr.q4xDec { z64 with rd := 4 }).wf = false := by decide

/-- R42, Table 2.7: patterns marked illegal, a uniform source above s23, an immediate where ra stands. -/
theorem test_wf_patterns :
    (Instr.add { z64 with pa := 3 }).wf = false ∧ (Instr.add { z64 with pb := 0x3F }).wf = false ∧ (Instr.add { z64 with pa := 1, ra := 24 }).wf = false ∧
    (Instr.add { z64 with pa := 2 }).wf = false ∧ (Instr.add { z64 with pb := 0xC8 }).wf = false ∧ (Instr.frcp { z64 with pa := 3 }).wf = false := by decide

/-- R44, R47: unused fields and modifier bits, rounding codes 5 and 6, conditions 6 and 7, compare types. -/
theorem test_wf_modifiers :
    (Instr.add { z64 with rc := 1 }).wf = false ∧ (Instr.addc { z64 with rc := 64 }).wf = false ∧ (Instr.faddF32 { z64 with rc := 5 }).wf = false ∧
    (Instr.faddF32 { z64 with rc := 8 }).wf = false ∧ (Instr.ffmaF32 6 z64).wf = false ∧ (Instr.cmp { z64 with rc := 6 }).wf = false ∧
    (Instr.cmp { z64 with rc := 32 }).wf = false ∧ (Instr.fcmp { z64 with rc := 16 }).wf = false ∧ (Instr.sel { z64 with rc := 16 }).wf = false ∧
    (Instr.not { z64 with rb := 1 }).wf = false ∧ (Instr.fabsF32 { z64 with pb := 1 }).wf = false ∧ (Instr.notB32B32 { zB with b := 1 }).wf = false ∧
    (Instr.exit { z64 with ra := 1 }).wf = false ∧ (Instr.brInd { z64 with rd := 1 }).wf = false ∧ (Instr.trap { zI with rd := 1 }).wf = false ∧
    (Instr.pand { z64 with rc := 1 }).wf = false ∧ (Instr.rget { z64 with rc := 1 }).wf = false ∧ (Instr.sMov { z64 with rb := 1 }).wf = false := by decide

/-- R99, R121, R123, R164, R165: conversions, special-register and CSR numbers, the scalar pipe. -/
theorem test_wf_special :
    (Instr.cvt z64).wf = false ∧ (Instr.cvt { z64 with rb := 14 }).wf = false ∧ (Instr.movSr { z64 with rb := 10 }).wf = false ∧
    (Instr.csrRd { zI with imm := 4096 }).wf = false ∧ (Instr.csrWr { zI with rd := 24 }).wf = false ∧ (Instr.sAdd { z64 with pb := 1 }).wf = false ∧
    (Instr.sCmp { z64 with rd := 8 }).wf = false ∧ (Instr.sLd zM).wf = false := by decide

/-- R38, R39, Tables 5.3 and 13.2: index mode 3, mode 2 with an index, scopes 6 and 7, access codes, element types, scratchpad scopes. -/
theorem test_wf_memory :
    (Instr.ld { zM with mode := 3 }).wf = false ∧ (Instr.ld { zM with mode := 2, vindex := 1 }).wf = false ∧ (Instr.ld { zM with mode := 2, scale := 1 }).wf = false ∧
    (Instr.ld { zM with scope := 6 }).wf = false ∧ (Instr.ld { zM with sbase := 24 }).wf = false ∧ (Instr.ld { zM with code := 7 }).wf = false ∧
    (Instr.ld { zM with code := 5, rd := 1 }).wf = false ∧ (Instr.st { zM with code := 13 }).wf = false ∧ (Instr.prefetch zM).wf = false ∧
    (Instr.ldSp { zM with scope := 1 }).wf = false ∧ (Instr.stSp { zM with code := 10, rtype := 1 }).wf = false ∧ (Instr.atom { zMT with ety := 8 }).wf = false ∧
    (Instr.atom { zMT with code := 10, ety := 8 }).wf = false ∧ (Instr.atomCas zMT).wf = false ∧ (Instr.atomAddlim { zMT with code := 8, rd := 1 }).wf = false ∧
    (Instr.atomSp { zMT with rtype := 1 }).wf = false ∧ (Instr.red { zMT with code := 6 }).wf = false := by decide

/-- Classes 12, 13 and 17 to 19: cross-lane words, barrier and stage words, waits, banks and messages. -/
theorem test_wf_groups :
    (Instr.shfl { z64 with rc := 4 }).wf = false ∧ (Instr.voteAny { z64 with rd := 8 }).wf = false ∧ (Instr.voteBallot { z64 with rd := 1 }).wf = false ∧
    (Instr.redLane { z64 with rc := 6 }).wf = false ∧ (Instr.redLane { z64 with rc := 19 }).wf = false ∧ (Instr.segred { z64 with rb := 8 }).wf = false ∧
    (Instr.scanLane { z64 with rc := 6 }).wf = false ∧
    (Instr.lsync { z64 with rb := 1 }).wf = false ∧ (Instr.topkIns z64).wf = false ∧ (Instr.brDiv { zI with rd := 16 }).wf = false ∧
    (Instr.barInit { z64 with rc := 2 }).wf = false ∧ (Instr.barWait { z64 with rc := 1 }).wf = false ∧ (Instr.stgRel { z64 with rb := 1 }).wf = false ∧
    (Instr.waitCnt { z64 with rc := 6 }).wf = false ∧ (Instr.waitCnt { z64 with ra := 1 }).wf = false ∧ (Instr.waitTl { z64 with rd := 8 }).wf = false ∧
    (Instr.inval { z64 with rd := 1 }).wf = false ∧ (Instr.seal { z64 with rd := 24 }).wf = false ∧ (Instr.l2Pin { z64 with pa := 1 }).wf = false ∧
    (Instr.bankCfgCache { z64 with rb := 0 }).wf = false ∧ (Instr.bankCfgQuery { z64 with rb := 1, rc := 3 }).wf = false ∧ (Instr.farEnd { z64 with ra := 1 }).wf = false ∧
    (Instr.subClose { z64 with rb := 32 }).wf = false ∧ (Instr.msgWait { z64 with rc := 4 }).wf = false ∧ (Instr.msgPop { z64 with rb := 0 }).wf = false ∧
    (Instr.msgSend { z64 with rd := 1 }).wf = false := by decide

/-- Tables 18.1 to 18.5: engine and launch commands. -/
theorem test_wf_engines :
    (Instr.cp { z64 with pa := 3 }).wf = false ∧ (Instr.cp { z64 with pa := 4, rb := 1 }).wf = false ∧ (Instr.cpCommit { z64 with pa := 4 }).wf = false ∧
    (Instr.cpTile { z64 with pa := 12 }).wf = false ∧ (Instr.cpZero { z64 with rd := 1 }).wf = false ∧ (Instr.cpGather { z64 with pb := 0xC0 }).wf = false ∧
    (Instr.cpUnpack { z64 with pa := 3 }).wf = false ∧ (Instr.cpPack { z64 with pb := 23 }).wf = false ∧ (Instr.cpMerge { z64 with pa := 4 }).wf = false ∧
    (Instr.mma { z64 with pa := 8 }).wf = false ∧ (Instr.mmaReuse { z64 with pb := 1 }).wf = false ∧ (Instr.mloop { z64 with pa := 128 }).wf = false ∧
    (Instr.maccZero { z64 with pa := 8 }).wf = false ∧ (Instr.maccLd { z64 with pa := 8 }).wf = false ∧ (Instr.maccSt { z64 with pa := 32 }).wf = false ∧
    (Instr.mhad { z64 with pa := 3 }).wf = false ∧ (Instr.lqPush { z64 with pa := 32 }).wf = false ∧ (Instr.lqPoll { z64 with pa := 16 }).wf = false := by decide

/-- Table 2.11: words that are no instruction, by name. -/
theorem test_decode_rejects :
    decode [0, 0] = .error .zeroParcel ∧ decode [0xC6] = .error .short ∧ decode [0x25, 0x40, 0xA5] = .error .short ∧
    decodeWord 8 (3 + 2 ^ 11 * 23 + 2 ^ 16 * 7) = .error .unassigned ∧ decodeWord 8 (3 + 2 ^ 5 * 0x1C + 2 ^ 16 * 7) = .error .unassigned ∧
    decodeWord 8 (3 + 2 ^ 16 * 15) = .error .malformed ∧ decodeWord 8 (3 + 2 ^ 5 * 4 + 2 ^ 11 * 3 + 2 ^ 16 * 7 + 2 ^ 59) = .error .unassigned := by
  decide +kernel

/-! One group of 32 lanes on core 0, in focus, and words that pass every check there. -/

/-- The state of `withFetchWord` with the group in focus and its unit changed by `f`. -/
def bench (f : Machine.Unit → Machine.Unit) : State :=
  let b := State.reset.withFetchWord 64 3
  { b with agenda := [], focus := some 0, units := b.units.map f }

/-- The first unit, with the windows of its issue step landed. -/
def front (s : State) : Machine.Unit :=
  match s.units with
  | u :: _ => u.landAt u.step
  | [] => startGroup (wordGrid 0 0 2 CodeImage.empty) (wordTeam 0 0 2) 0 2 0 32 128 0

/-- Whether a unit issues a word of a shape that passes every check. -/
def clearAt (s : State) (uid : Nat) (u : Machine.Unit) (sh : Shape) : Bool :=
  decide (s.focus = some uid) && (match s.unit? uid with
    | some x => s.able x && decide (x.landAt x.step = u)
    | none => false) &&
  !(sh.srcs.any (Src.illegal u.width)) && (match sh.role with
    | some r => r == u.role
    | none => true) &&
  (sh.overBudget u.budget).isNone && (u.converged || (sh.csr && u.inHandler) || (!sh.pipe && sh.uniforms.isEmpty)) && !(sh.held u) &&
  (sh.pulls u).isNone && (sh.stale u).isNone

theorem clear_at {s : State} {uid : Nat} {u : Machine.Unit} {sh : Shape} (h : clearAt s uid u sh = true) : s.Clear uid u sh := by
  simp only [clearAt, Bool.and_eq_true, Bool.or_eq_true, Bool.not_eq_true', decide_eq_true_eq, Option.isNone_iff_eq_none, List.isEmpty_iff] at h
  obtain ⟨⟨⟨⟨⟨⟨⟨⟨hf, hx⟩, hl⟩, hr⟩, hb⟩, hu⟩, hh⟩, hp⟩, hs⟩ := h
  refine ⟨⟨hf, ?_⟩, hl, ?_, hb, ?_, hh, hp, .inr hs⟩
  · split at hx
    · next x e => simp only [Bool.and_eq_true, decide_eq_true_eq] at hx; exact ⟨x, e, hx.1, hx.2⟩
    · cases hx
  · intro r e; rw [e] at hr; simpa using hr
  · obtain (h | h) | h := hu
    · exact .inl h
    · exact .inr (.inl h)
    · exact .inr (.inr h)

/-- Whether the first unit does. -/
def clearB (s : State) (sh : Shape) : Bool := clearAt s 0 (front s) sh

theorem clear_of {s : State} {sh : Shape} (h : clearB s sh = true) : s.Clear 0 (front s) sh := clear_at h

/-- A field of the next state. -/
def afterStep {α : Type} (o : Out) (f : State → α) : Option α :=
  match o with
  | .next t => some (f t)
  | _ => none

theorem clear_all {s : State} {l : List Shape} (h : l.all (clearB s) = true) : ∀ sh ∈ l, s.Clear 0 (front s) sh :=
  fun sh m => clear_of (List.all_eq_true.mp h sh m)

/-- An A64 word with every register and modifier in use, for shapes. -/
def y64 : A64 := { rc := 26, pb := 0, rb := 40, pa := 0, ra := 20, rd := 10, guard := 7, stall := 3 }

def yB : B32 := { b := 40, a := 20, d := 10, stall := 1 }

def yC : C16 := { b := 40, d := 10, s := 1 }

/-- The greatest register numbers a word of one register can name under the budget. -/
def z127 : A64 := { z64 with rc := 127, rb := 127, ra := 127, rd := 127, guard := 15 - 1 }

/-- Words of each form, with plain registers and with the last register of the budget. -/
theorem witness_IntegerSumsAndOrder : ∀ sh ∈ [(formA64 0 0 y64).shape [(formA64 0 0 y64).a 1, (formA64 0 0 y64).b 1] [(.v, 10)],
    (formA64 0 0 z127).shape [(formA64 0 0 z127).a 1, (formA64 0 0 z127).b 1] [(.v, 127)], (formA64 0 12 y64).shape [(formA64 0 12 y64).a 1] [(.v, 10)],
    (formA64 0 16 y64).shape [(formA64 0 16 y64).a 2, (formA64 0 16 y64).b 2] ((formA64 0 16 y64).d 2),
    (formC16 1 0 false yC).shape [(formC16 1 0 false yC).a 1, (formC16 1 0 false yC).b 1] [(.v, 10)],
    (formB32 1 0 true yB).shape [(formB32 1 0 true yB).a 1, (formB32 1 0 true yB).b 1] [(.v, 10)]], (bench id).Clear 0 (front (bench id)) sh :=
  clear_all (by decide +kernel)

theorem witness_CarryAndBorrow : (∀ sh ∈ [(formA64 0 2 y64).shape [(formA64 0 2 y64).a 1, (formA64 0 2 y64).b 1, .pred 2] [(.v, 10), (.p, 3)],
    (formA64 0 3 z127).shape [(formA64 0 3 z127).a 1, (formA64 0 3 z127).b 1, .pred 7] [(.v, 127), (.p, 7)]], (bench id).Clear 0 (front (bench id)) sh) ∧ 63 < 64 :=
  ⟨clear_all (by decide +kernel), by decide⟩

theorem witness_ProductsAndMultiplyAdds : ∀ sh ∈ [(formA64 1 0 y64).shape [(formA64 1 0 y64).a 1, (formA64 1 0 y64).b 1] [(.v, 10)],
    (formA64 1 3 z127).shape [(formA64 1 3 z127).a 1, (formA64 1 3 z127).b 1, (formA64 1 3 z127).c 1] [(.v, 127)],
    (formB32Acc 12 yB).shape [(formB32Acc 12 yB).a 1, (formB32Acc 12 yB).b 1, (formB32Acc 12 yB).c 1] [(.v, 10)]], (bench id).Clear 0 (front (bench id)) sh :=
  clear_all (by decide +kernel)

theorem witness_DivisionWithEdgeCases : (∀ sh ∈ [(formA64 1 6 z64).shape [(formA64 1 6 z64).a 1, (formA64 1 6 z64).b 1] [(.v, 0)]],
    (bench id).Clear 0 (front (bench id)) sh) ∧ [Instr.divS32 z64, .divN32 z64, .remS32 z64, .remN32 z64].any Instr.wf = true :=
  ⟨clear_all (by decide +kernel), by decide +kernel⟩

theorem witness_ByteDotProducts : ∀ sh ∈ [(formA64 1 10 y64).shape [(formA64 1 10 y64).a 1, (formA64 1 10 y64).b 1, (formA64 1 10 y64).c 1] [(.v, 10)],
    (formB32Acc 13 yB).shape [(formB32Acc 13 yB).a 1, (formB32Acc 13 yB).b 1, (formB32Acc 13 yB).c 1] [(.v, 10)]], (bench id).Clear 0 (front (bench id)) sh :=
  clear_all (by decide +kernel)

theorem witness_LogicAndShifts : ∀ sh ∈ [(formA64 2 5 y64).shape [(formA64 2 5 y64).a 1, (formA64 2 5 y64).b 1] [(.v, 10)],
    (formA64 2 4 y64).shape [(formA64 2 4 y64).a 1] [(.v, 10)], (formA64 2 24 y64).shape [(formA64 2 24 y64).a 2, (formA64 2 24 y64).b 1] ((formA64 2 24 y64).d 2),
    (formC16 8 0 false yC).shape [(formC16 8 0 false yC).a 1, (formC16 8 0 false yC).b 1] [(.v, 10)],
    (formB32 26 0 true yB).shape [(formB32 26 0 true yB).a 1, (formB32 26 0 true yB).b 1] [(.v, 10)]], (bench id).Clear 0 (front (bench id)) sh :=
  clear_all (by decide +kernel)

theorem witness_FieldWords : (∀ sh ∈ [(formA64 2 10 y64).shape [(formA64 2 10 y64).a 1, (formA64 2 10 y64).b 1, (formA64 2 10 y64).c 1] [(.v, 10)]],
    (bench id).Clear 0 (front (bench id)) sh) ∧ 31 < 32 ∧ fieldLen 31 63 = 1 ∧ fieldLen 0 32 = 32 ∧ (fieldPos 31 ≤ 31 ∧ 31 < fieldPos 31 + fieldLen 31 63) :=
  ⟨clear_all (by decide +kernel), by decide⟩

theorem witness_BitCountsAndMortonKeys : (∀ sh ∈ [(formA64 2 12 y64).shape [(formA64 2 12 y64).a 1] [(.v, 10)],
    (formB32 28 0 false yB).shape [(formB32 28 0 false yB).a 1, (formB32 28 0 false yB).b 1] [(.v, 10)],
    (formB32Acc 30 yB).shape [(formB32Acc 30 yB).a 1, (formB32Acc 30 yB).b 1, (formB32Acc 30 yB).c 1] [(.v, 10)]], (bench id).Clear 0 (front (bench id)) sh) ∧
    31 < 32 ∧ (0x80000000 : W32) ≠ 0 ∧ 9 < 10 ∧ 30 ≤ 30 :=
  ⟨clear_all (by decide +kernel), by decide⟩

theorem witness_IntegerCompares : Instr.wf (.cmp { y64 with rd := 6, rc := 29 }) = true ∧ Instr.wf (.cmpEqS32B32 { yB with d := 6 }) = true ∧
    Instr.wf (.cmpGeS32B32 { yB with d := 7 }) = true ∧
    ∀ sh ∈ [(formA64 3 0 { y64 with rd := 6, rc := 29 }).shape [.vec 20 2 0, .vec 40 2 0] [(.p, 6)],
      (formB32 35 5 false { yB with d := 7 }).shape [.vec 20 1 0, .vec 40 1 0] [(.p, 7)]], (bench id).Clear 0 (front (bench id)) sh :=
  ⟨by decide +kernel, by decide +kernel, by decide +kernel, clear_all (by decide +kernel)⟩

theorem witness_FloatCompares : (∀ sh ∈ [(formA64 3 1 { y64 with rd := 6, rc := 13 }).shape [.vec 20 2 0, .vec 40 2 0] [(.p, 6)],
      (formB32 37 5 false { yB with d := 6 }).shape [.vec 20 1 0, .vec 40 1 0] [(.p, 6)]], (bench id).Clear 0 (front (bench id)) sh) ∧
    0xFFFFFFFF < 2 ^ Fmt.f32.width ∧ (Fmt.f32.value 0xFFFFFFFF).isNan = true ∧ (Fmt.f32.value 0x80000000).isNan = false ∧ (Fmt.f64.value (2 ^ 64 - 1)).isNan = true :=
  ⟨clear_all (by decide +kernel), by decide +kernel⟩

theorem witness_PredicateLogic : (∀ sh ∈ [(formA64 3 8 { z64 with ra := 6, rb := 5, rd := 4 }).shape [.pred 6, .pred 5] [(.p, 4)],
      (formA64 3 11 { z64 with ra := 7, rd := 7 }).shape [.pred 7] [(.p, 7)]], (bench id).Clear 0 (front (bench id)) sh) ∧
    [Instr.pand z64, .por z64, .pxor z64, .pnot z64].any Instr.wf = true ∧ 63 < 64 :=
  ⟨clear_all (by decide +kernel), by decide +kernel, by decide⟩

theorem witness_SelectsMovesAndImmediates : (∀ sh ∈ [(formA64 3 3 y64).shape [(formA64 3 3 y64).a 1] [(.v, 10)],
      (formA64 3 2 y64).shape [(formA64 3 2 y64).a 1, (formA64 3 2 y64).b 1, .pred 2] [(.v, 10)], (formAI 3 4 { zI with rd := 127 }).shape [] [(.v, 127)],
      (formC16 0 0 true yC).shape [(formC16 0 0 true yC).a 1] [(.v, 10)]], (bench id).Clear 0 (front (bench id)) sh) ∧ Instr.wf (.mov z64) = true :=
  ⟨clear_all (by decide +kernel), by decide +kernel⟩

theorem witness_FloatArithmeticCompletes : ∀ sh ∈ [(formA64 4 0 y64).shape [(formA64 4 0 y64).a 1, (formA64 4 0 y64).b 1] [(.v, 10)],
      (formA64 6 0 y64).shape [(formA64 6 0 y64).a 2, (formA64 6 0 y64).b 2] ((formA64 6 0 y64).d 2),
      (formA64 6 18 y64).shape [(formA64 6 18 y64).a 2, (formA64 6 18 y64).b 2, (formA64 6 18 y64).c 2] ((formA64 6 18 y64).d 2),
      (formA64 5 0 y64).shape [(formA64 5 0 y64).a 1, (formA64 5 0 y64).b 1] [(.v, 10)],
      (formC16 11 7 false yC).shape [(formC16 11 7 false yC).a 1, (formC16 11 7 false yC).b 1] ((formC16 11 7 false yC).d 1),
      (formB32Acc 54 yB).shape [(formB32Acc 54 yB).a 2, (formB32Acc 54 yB).b 2, (formB32Acc 54 yB).c 2] ((formB32Acc 54 yB).d 2)],
    (bench id).Clear 0 (front (bench id)) sh :=
  clear_all (by decide +kernel)

theorem witness_ScalarPipe :
    (∀ sh ∈ [(formA64 11 0 { z64 with ra := 23, rb := 22, rd := 23 }).pipe [.uni 23 1, .uni 22 1] [(.u, 23)], (formAI 11 9 zI).pipe [] [(.u, 0)],
      (formA64 11 11 { z64 with rd := 6 }).pipe [.uni 0 1, .uni 0 1] [(.p, 6)], (formA64 11 12 z64).pipe [.uni 0 1, .uni 0 1, .pred 0] [(.u, 0)],
      (formA64 11 14 { z64 with ra := 127, rb := 31 }).pipe [.lane 127 31] [(.u, 0)]], (bench id).Clear 0 (front (bench id)) sh) ∧
    Instr.wf (.sCmp { z64 with rd := 7, rc := 29 }) = true ∧
    -- the three cases of s.sel: every lane, none, some
    (front (bench id)).active &&& (front (bench id)).pmask 7 = (front (bench id)).active ∧ (front (bench id)).active ≠ 0 ∧
    (front (bench id)).active &&& (front (bench id)).pmask 0 = 0 ∧
    (front (bench fun u => { u with p := [(0, 1)] })).active &&& (front (bench fun u => { u with p := [(0, 1)] })).pmask 0 = 1 ∧
    (bench fun u => { u with p := [(0, 1)] }).Clear 0 (front (bench fun u => { u with p := [(0, 1)] }))
      ((formA64 11 12 z64).pipe [.uni 0 1, .uni 0 1, .pred 0] [(.u, 0)]) :=
  ⟨clear_all (by decide +kernel), by decide +kernel, by decide +kernel, by decide +kernel, by decide +kernel, by decide +kernel, clear_of (by decide +kernel)⟩

/-- A unit with two windows of one register, of which one has landed by step 4 and both by step 5. -/
def windowed : Machine.Unit :=
  { front (bench id) with win := [⟨.v, 127, [(63, 5)], 4, false⟩, ⟨.v, 127, [(63, 6), (0, 7)], 5, false⟩, ⟨.u, 23, [(0, 1)], 4, false⟩, ⟨.p, 6, [(63, 1)], 5, false⟩] }

theorem witness_LatencyWindows : 4 ≤ 5 ∧ windowed.frag = none ∧ swf windowed.v = true ∧ swf windowed.p = true ∧ swf windowed.u = true ∧
    (∀ e ∈ windowed.win, ∀ v ∈ e.vals, v.1 < 64 ∧ (e.kind = .u → v.1 = 0)) ∧ 127 < 128 ∧ 63 < 64 ∧ 23 ≠ 0 ∧ 6 < 7 := by
  decide +kernel

/-- A team whose descriptor names a handler. -/
def trapDesc : KernelDesc := { wordDesc 2 with tvec := 0x2000 }

def trapTeam : Team := { wordTeam 0 0 2 with desc := trapDesc }

def trapBench (f : Machine.Unit → Machine.Unit) : State := { bench f with teams := [trapTeam] }

theorem witness_TrapEntry : ((trapBench id).unit? 0).isSome = true ∧ (trapBench id).Handles (front (trapBench id)) trapTeam ∧
    (∀ sh ∈ [(formAI 9 7 zI).shape [] [], (formA64 9 8 z64).shape [] []], (trapBench id).Clear 0 (front (trapBench id)) sh) ∧
    (trapBench id).Issues 0 (front (trapBench id)) ∧
    -- an access on its way holds the trap back
    ({ front (trapBench id) with vars := [⟨[], 0, 0⟩] }).drained = false ∧ (trapBench id).abortPending { front (trapBench id) with vars := [⟨[], 0, 0⟩] } = false :=
  ⟨by decide +kernel, ⟨by decide +kernel, by decide +kernel, by decide +kernel, by decide +kernel, by decide +kernel⟩, clear_all (by decide +kernel),
    (clear_of (sh := (formA64 9 8 z64).shape [] []) (by decide +kernel)).1, by decide +kernel, by decide +kernel⟩

theorem witness_TrapWithoutHandlerEndsTheTeam : (bench id).unit? 0 = some (front (bench id)) ∧ (bench id).team? (front (bench id)).team = some (wordTeam 0 0 2) ∧
    (wordTeam 0 0 2).terminated = false ∧ (wordTeam 0 0 2).life ≠ .exited ∧ (wordTeam 0 0 2).desc.tvec = 0 := by
  decide +kernel

theorem witness_TretReturns : (bench id).Clear 0 (front (bench id)) ((formA64 9 9 z64).shape [] []) ∧ (front (bench id)).inHandler = false ∧
    (bench fun u => { u with inHandler := true, tepc := 0x100010 }).Clear 0 (front (bench fun u => { u with inHandler := true, tepc := 0x100010 }))
      ((formA64 9 9 z64).shape [] []) :=
  ⟨clear_of (by decide +kernel), by decide +kernel, clear_of (by decide +kernel)⟩

/-! One and minus one in binary32, and the statements over exact values. -/

theorem finite_of {f : Fmt} {x : Nat} {n : Bool} {m : Nat} {e : Int} (hx : x < 2 ^ f.width) (h : f.value x = .fin n m e) : f.finite x :=
  ⟨hx, by rw [h]; trivial⟩

theorem one_finite : Fmt.f32.finite 0x3F800000 := finite_of (n := false) (m := 8388608) (e := -23) (by decide) (by decide +kernel)

theorem minus_finite : Fmt.f32.finite 0xBF800000 := finite_of (n := true) (m := 8388608) (e := -23) (by decide) (by decide +kernel)

theorem zero_finite : Fmt.f32.finite 0x80000000 := finite_of (n := true) (m := 0) (e := -149) (by decide) (by decide +kernel)

theorem one_rat : Fmt.f32.rat 0x3F800000 = 1 := by
  have e : Fmt.f32.value 0x3F800000 = .fin false 8388608 (-23) := by decide +kernel
  simp only [Fmt.rat, e, FVal.rat]; norm_num

theorem minus_rat : Fmt.f32.rat 0xBF800000 = -1 := by
  have e : Fmt.f32.value 0xBF800000 = .fin true 8388608 (-23) := by decide +kernel
  simp only [Fmt.rat, e, FVal.rat]; norm_num

theorem zero_rat : Fmt.f32.rat 0x80000000 = 0 := by
  have e : Fmt.f32.value 0x80000000 = .fin true 0 (-149) := by decide +kernel
  simp only [Fmt.rat, e, FVal.rat]; norm_num

theorem witness_FloatResultsAreCorrectlyRounded : Fmt.f32 ∈ laneFmts ∧ Fmt.f32.finite 0x3F800000 ∧ Fmt.f32.rat 0x3F800000 + Fmt.f32.rat 0x3F800000 ≠ 0 ∧
    Fmt.f32.rat 0x3F800000 - Fmt.f32.rat 0xBF800000 ≠ 0 ∧ Fmt.f32.rat 0x3F800000 * Fmt.f32.rat 0x3F800000 ≠ 0 ∧
    Fmt.f32.rat 0x3F800000 * Fmt.f32.rat 0x3F800000 + Fmt.f32.rat 0x3F800000 ≠ 0 ∧ Fmt.f32.rat 0x3F800000 + Fmt.f32.rat 0xBF800000 = 0 ∧
    Fmt.f32.rat 0xBF800000 - Fmt.f32.rat 0xBF800000 = 0 ∧ Fmt.f32.rat 0xBF800000 * Fmt.f32.rat 0x3F800000 + Fmt.f32.rat 0x3F800000 = 0 := by
  refine ⟨by decide, one_finite, ?_⟩
  rw [one_rat, minus_rat]; norm_num

theorem witness_QuotientsAndRootsAreCorrectlyRounded : Fmt.f32 ∈ laneFmts ∧ Fmt.f32.finite 0x3F800000 ∧ Fmt.f32.finite 0xBF800000 ∧ Fmt.f32.rat 0x3F800000 ≠ 0 ∧
    Fmt.f32.rat 0xBF800000 ≠ 0 ∧ 0 < Fmt.f32.rat 0x3F800000 := by
  refine ⟨by decide, one_finite, minus_finite, ?_⟩
  rw [one_rat, minus_rat]; norm_num

theorem witness_FloatSpecialCases : Fmt.f32.value 0x7F800000 = .inf false ∧ Fmt.f32.value 0xFF800000 = .inf true ∧ 0xFF800000 < 2 ^ Fmt.f32.width ∧
    Fmt.f32.finite 0x80000000 ∧ Fmt.f32.rat 0x80000000 = 0 ∧ (Fmt.f32.value 0x80000000).isNan = false ∧ Fmt.f32.rat 0x3F800000 ≠ 0 ∧ Fmt.f32.rat 0xBF800000 < 0 ∧
    (Fmt.f32.value 0x7F800001).isNan = true ∧ Fmt.f32.value 0x7FC00000 = .nan false ∧
    -- a signalling operand of ffma beside no infinite product, and an infinite product of a finite factor
    (∀ c, Fmt.f32.value 0x7F800001 ≠ .inf c) ∧ (∀ c, Fmt.f32.value 0x3F800000 ≠ .inf c) ∧ Fmt.f32.finite 0x3F800000 ∧ (0x3F800000 : Nat).testBit (Fmt.f32.e + Fmt.f32.m) = false := by
  refine ⟨by decide +kernel, by decide +kernel, by decide, zero_finite, zero_rat, by decide +kernel, ?_, ?_, by decide +kernel, by decide +kernel, by decide +kernel, by decide +kernel,
    one_finite, by decide +kernel⟩
  · rw [one_rat]; norm_num
  · rw [minus_rat]; norm_num

theorem witness_MinimumAndMaximum : (∀ sh ∈ [(formA64 4 7 y64).shape [(formA64 4 7 y64).a 1, (formA64 4 7 y64).b 1] [(.v, 10)],
      (formA64 6 7 y64).shape [(formA64 6 7 y64).a 2, (formA64 6 7 y64).b 2] ((formA64 6 7 y64).d 2),
      (formC16 15 0 false yC).shape [(formC16 15 0 false yC).a 1, (formC16 15 0 false yC).b 1] ((formC16 15 0 false yC).d 1)],
      (bench id).Clear 0 (front (bench id)) sh) ∧
    Fmt.bf16 ∈ laneFmts ∧ 0x8000 < 2 ^ Fmt.bf16.width ∧ (Fmt.bf16.value 0x8000).isNan = false ∧ (Fmt.bf16.value 0x7FC0).isNan = true :=
  ⟨clear_all (by decide +kernel), by decide +kernel⟩

theorem witness_SignsAndClasses : (∀ sh ∈ [(formA64 4 11 y64).shape [(formA64 4 11 y64).a 1] [(.v, 10)],
      (formA64 6 13 y64).shape [(formA64 6 13 y64).a 2] [(.v, 10)], (formA64 5 11 y64).shape [(formA64 5 11 y64).a 1] [(.v, 10)]],
      (bench id).Clear 0 (front (bench id)) sh) ∧ 0xFFFFFFFF < 2 ^ Fmt.f32.width :=
  ⟨clear_all (by decide +kernel), by decide +kernel⟩

theorem witness_IntegralRoundingAndScaling : (∀ sh ∈ [(formA64 4 5 y64).shape [(formA64 4 5 y64).a 1] [(.v, 10)],
      (formA64 6 6 y64).shape [(formA64 6 6 y64).a 2, (formA64 6 6 y64).b 1] ((formA64 6 6 y64).d 2)], (bench id).Clear 0 (front (bench id)) sh) ∧
    0xFF800000 < 2 ^ Fmt.f32.width ∧ (Fmt.f32.value 0xFF800000).isNan = false ∧ Fmt.f32.value 0xFF800000 = .inf true ∧ Fmt.f32.finite 0x3F800000 ∧
    Fmt.f32.rat 0x3F800000 = (1 : ℤ) ∧ Fmt.f32.rat 0x3F800000 ≠ 0 :=
  ⟨clear_all (by decide +kernel), by decide +kernel, by decide +kernel, by decide +kernel, one_finite, by rw [one_rat]; norm_num, by rw [one_rat]; norm_num⟩

theorem witness_Conversions : (∀ sh ∈ [(formA64 7 0 y64).shape [.vec 20 2 0] ((formA64 7 0 y64).d 2), (formB32 55 7 false yB).shape [.vec 20 1 0] [(.v, 10)],
      (formA64 7 1 { y64 with ra := 24, rd := 127 }).shape [.vec 24 8 0, .vec 40 1 0] [(.v, 127)],
      (formA64 7 2 { y64 with rd := 120 }).shape [.vec 20 1 0, .vec 40 1 0] ((formA64 7 2 { y64 with rd := 120 }).d 8)], (bench id).Clear 0 (front (bench id)) sh) ∧
    7 ≤ 7 ∧ tyFmt 10 = some Fmt.f32 ∧ 0x7FC00000 < 2 ^ Fmt.f32.width ∧ (Fmt.f32.value 0x7FC00000).isNan = true ∧ Fmt.f32.value 0xFF800000 = .inf true ∧
    Fmt.f32.finite 0x3F800000 ∧ 2 ^ 32 - 1 < 2 ^ tyBits 2 :=
  ⟨clear_all (by decide +kernel), by decide, by decide +kernel, by decide +kernel, by decide +kernel, by decide +kernel, one_finite, by decide +kernel⟩

theorem witness_Transcendentals : (∀ sh ∈ [(formA64 8 0 y64).shape [(formA64 8 0 y64).a 1] [(.v, 10)],
      (formB32 60 0 false yB).shape [(formB32 60 0 false yB).a 1] [(.v, 10)]], (bench id).Clear 0 (front (bench id)) sh) ∧
    Fmt.f32.finite (0xBF800000 : W32).toNat ∧ Fmt.f32.rat (0xBF800000 : W32).toNat < 0 ∧ (Fmt.f32.value (0x7F800001 : W32).toNat).isNan = true ∧ 6 ≤ 6 ∧
    Fmt.f32.finite (0x3F800000 : W32).toNat ∧ Fmt.f32.rat (0x3F800000 : W32).toNat = (2 : ℚ) ^ (0 : ℤ) ∧ Fmt.f32.rat (0x3F800000 : W32).toNat = (2 : ℚ) ^ (2 * (0 : ℤ)) ∧
    Fmt.f32.rat (0xBF800000 : W32).toNat = ((-1 : ℤ) : ℚ) ∧ |Fmt.f32.rat (0xBF800000 : W32).toNat| = (2 : ℚ) ^ (0 : ℤ) := by
  have hm : Fmt.f32.rat (0xBF800000 : W32).toNat = -1 := minus_rat
  refine ⟨clear_all (by decide +kernel), minus_finite, ?_, by decide +kernel, by decide, one_finite, ?_, ?_, ?_, ?_⟩
  · exact minus_rat.trans_lt (by norm_num)
  · exact one_rat.trans (by norm_num)
  · exact one_rat.trans (by norm_num)
  · rw [hm]; norm_num
  · rw [hm]; norm_num

/-- The bench with values in uniform registers 1, 2 and 3. -/
def uni (a b c : W64) (u : Machine.Unit) : Machine.Unit := { u with u := ssetMany [] 1 [a, b, c] }

theorem witness_ChecksBeforeAWord : (bench id).Issues 0 (front (bench id)) ∧
    (∀ sh ∈ [(formA64 0 0 y64).shape [(formA64 0 0 y64).a 1, (formA64 0 0 y64).b 1] [(.v, 10)],
      (formA64 6 0 { y64 with ra := 126 }).shape [(formA64 6 0 { y64 with ra := 126 }).a 2, (formA64 6 0 { y64 with ra := 126 }).b 2] [(.v, 10), (.v, 11)],
      (formA64 11 0 z64).pipe [(formA64 11 0 z64).ua, (formA64 11 0 z64).ub] [(.u, 0)]], sh.srcs.any (Src.illegal 32) = false ∧ sh.overBudget 128 = none) ∧
    ((formA64 0 0 z127).shape [(formA64 0 0 z127).a 1, (formA64 0 0 z127).b 1] [(.v, 127)]).overBudget 127 = some 127 ∧
    ((formA64 11 0 z64).pipe [(formA64 11 0 z64).ua, (formA64 11 0 z64).ub] [(.u, 0)]).pipe = true ∧
    (front (bench fun u => { u with active := 1 })).converged = false ∧ (front (bench id)).converged = true ∧
    ((formA64 0 0 y64).shape [(formA64 0 0 y64).a 1, (formA64 0 0 y64).b 1] [(.v, 10)]).held (front (bench fun u => { u with vars := [⟨[⟨.v, 20, [(0, 1)]⟩], 0, 0⟩] })) = true ∧
    ((formA64 0 0 y64).shape [(formA64 0 0 y64).a 1, (formA64 0 0 y64).b 1] [(.v, 10)]).held (front (bench id)) = false ∧
    (((formA64 0 0 y64).shape [(formA64 0 0 y64).a 1, (formA64 0 0 y64).b 1] [(.v, 10)]).stale
      (front (bench fun u => { u with win := [⟨.v, 20, [(0, 1)], 5, false⟩] }))).isSome = true ∧
    -- a lane pattern outside the group, and a word of another role
    ([Src.lane 1 32].any (Src.illegal 32)) = true ∧ (copyShape 3 z64 [] []).role = some 0 ∧ (copyShape 3 z64 [] []).role ≠ some (front (bench id)).role ∧
    (bench id).team? 0 = some (wordTeam 0 0 2) ∧ ({ wordTeam 0 0 2 with chk := true } : Team).chk = true :=
  ⟨(clear_of (sh := (formA64 9 8 z64).shape [] []) (by decide +kernel)).1, by decide +kernel⟩

theorem witness_ConditionalTransfers :
    (∀ sh ∈ [(formAI 9 0 zI).shape [] [], (formA64 9 1 { z64 with ra := 1 }).shape [.uni 1 1] [], (formAI 9 2 { zI with rd := 23 }).shape [] [(.u, 23)]],
      (bench (uni 0x100041 0x0100000000000000 0x100040)).Clear 0 (front (bench (uni 0x100041 0x0100000000000000 0x100040))) sh) ∧
    (front (bench id)).guarded 0 = 0 ∧ (front (bench id)).guarded 7 = (front (bench id)).active ∧ (front (bench id)).guarded 7 ≠ 0 ∧
    (front (bench fun u => { u with p := [(0, 1)] })).guarded 0 ≠ 0 ∧
    (front (bench fun u => { u with p := [(0, 1)] })).guarded 0 ≠ (front (bench fun u => { u with p := [(0, 1)] })).active ∧
    -- the three targets: odd, not canonical, good
    ((front (bench (uni 0x100041 0x0100000000000000 0x100040))).uget 1).getLsbD 0 = true ∧
    (((front (bench (uni 0x100041 0x0100000000000000 0x100040))).uget 2).setWidth 57).signExtend 64 ≠ (front (bench (uni 0x100041 0x0100000000000000 0x100040))).uget 2 ∧
    (((front (bench (uni 0x100041 0x0100000000000000 0x100040))).uget 3).setWidth 57).signExtend 64 = (front (bench (uni 0x100041 0x0100000000000000 0x100040))).uget 3 :=
  ⟨clear_all (by decide +kernel), by decide +kernel⟩

theorem witness_ExitNopYield : (∀ sh ∈ [(formA64 9 5 z64).shape [] [], (formA64 9 6 z64).shape [] [], (formA64 9 4 z64).shape [] []],
      (bench id).Clear 0 (front (bench id)) sh) ∧ (front (bench id)).guarded 0 = 0 ∧ (front (bench id)).frag = none ∧ (front (bench id)).region = none ∧
    (front (bench id)).active = (front (bench id)).guarded 7 ∧ (front (bench id)).launched &&& ~~~((front (bench id)).guarded 7) = 0 ∧
    (bench fun u => { u with p := [(0, 1)] }).Clear 0 (front (bench fun u => { u with p := [(0, 1)] })) ((formA64 9 4 z64).shape [] []) ∧
    (front (bench fun u => { u with p := [(0, 1)] })).guarded 0 ≠ 0 ∧ (front (bench id)).active &&& ~~~1 ≠ 0 ∧ (front (bench id)).live = true :=
  ⟨clear_all (by decide +kernel), by decide +kernel, by decide +kernel, by decide +kernel, by decide +kernel, by decide +kernel, clear_of (by decide +kernel), by decide +kernel⟩

/-- A level of the reconvergence stack whose join stands at the PC. -/
def kept (joinPc : BitVec 57) (begun : Bool) : Level := { joinPc := joinPc, mask := 3, kind := .kept 2 0x100020 begun }

theorem witness_DivergenceAndJoins : (∀ s ∈ [bench id, bench fun u => { u with p := [(0, 1)] }, bench fun u => { u with p := [(0, 1)], levels := List.replicate 16 (kept 0 false) }],
      s.Clear 0 (front s) ((formAI 13 0 zI).shape [.pred 0] [])) ∧
    (∀ s ∈ [bench id, bench fun u => { u with levels := [kept 0x100000 false] }, bench fun u => { u with levels := [kept 0x100000 true] },
        bench fun u => { u with levels := [kept 0x100040 false, kept 0x100000 false] },
        bench fun u => { u with levels := [⟨0x100000, 3, .exported 0 1 [] false⟩] }, bench fun u => { u with levels := [⟨0x100000, 3, .exported 0 1 [] true⟩], joinCtr := [1, 0, 0, 0] },
        bench fun u => { u with levels := [{ joinPc := 0x100000, mask := 3, kind := .kept (1#64 <<< 40) 0x100020 false }] }],
      s.Clear 0 (front s) ((formA64 13 1 z64).shape [] []) ∧ (front s).frag = none ∧ s.abortPending (front s) = false ∧ (front s).pc = 0x100000) ∧
    -- a complete exported level, and a second path without a thread
    (3 : W64) &&& (front (bench id)).launched ≠ 0 ∧ (1#64 <<< 40) &&& (front (bench id)).launched = 0 ∧
    (front (bench id)).active &&& (front (bench id)).pmask 0 = 0 ∧ (front (bench id)).levels.length < 16 ∧
    (front (bench fun u => { u with p := [(0, 1)] })).active &&& (front (bench fun u => { u with p := [(0, 1)] })).pmask 0 = 1 ∧
    (bench id).exportCtr (front (bench id)) 1 = none ∧ 16 ≤ (List.replicate 16 (kept 0 false)).length ∧ (2 : W64) &&& (front (bench id)).launched ≠ 0 :=
  ⟨by
    intro s h
    simp only [List.mem_cons, List.not_mem_nil, or_false] at h
    rcases h with rfl | rfl | rfl <;> exact clear_of (by decide +kernel),
   by
    intro s h
    simp only [List.mem_cons, List.not_mem_nil, or_false] at h
    rcases h with rfl | rfl | rfl | rfl | rfl | rfl | rfl <;> exact ⟨clear_of (by decide +kernel), by decide +kernel, by decide +kernel, by decide +kernel⟩,
   by decide +kernel, by decide +kernel, by decide +kernel⟩

/-- A team that may export: its grid's record asks for extra threads. -/
def exporting : State :=
  { bench (fun u => { u with p := [(0, 1)], joinCtr := [0, 0, 0, 0] }) with teams := [{ wordTeam 0 0 2 with xthr := 8 }] }

theorem witness_DivergenceExports : exporting.Clear 0 (front exporting) ((formAI 13 0 zI).shape [.pred 0] []) ∧ exporting.exportCtr (front exporting) 1 = some 0 ∧
    (front exporting).joinCtr.length = 4 ∧ (front exporting).frag = none :=
  ⟨clear_of (by decide +kernel), by decide +kernel⟩

theorem witness_SpecialRegistersAndRelativeAccess :
    (∀ sh ∈ [(formA64 10 0 z64).shape [] (spanRegs .v 0 1), (formA64 10 0 { z64 with rb := 18, rd := 126 }).shape [] (spanRegs .v 126 2),
      (formA64 10 3 { z64 with rb := 96 }).shape [.vec 0 1 0] [(.v, 0)], (formA64 10 4 { z64 with rb := 96 }).shape [.vec 0 1 0, .settled 0] []],
      (bench id).Clear 0 (front (bench id)) sh) ∧ (bench id).team? 0 = some (wordTeam 0 0 2) ∧
    -- lane 31 names register 127 above base 96, and register 128 above base 97
    ((front (bench id)).guardedLanes 7).find? (fun l => decide ((96 : Int) + ((bench id).arg32 (front (bench id)) (.vec 0 1 0) l).toInt < 0 ∨
      (128 : Int) ≤ 96 + ((bench id).arg32 (front (bench id)) (.vec 0 1 0) l).toInt)) = none ∧
    ((front (bench id)).guardedLanes 7).find? (fun l => decide ((97 : Int) + ((bench id).arg32 (front (bench id)) (.vec 0 1 0) l).toInt < 0 ∨
      (128 : Int) ≤ 97 + ((bench id).arg32 (front (bench id)) (.vec 0 1 0) l).toInt)) = some 31 ∧
    (∀ r ∈ (front (bench id)).pendingRegs, r.1 ≠ .v) ∧ swf (front (bench id)).v = true ∧ (front (bench id)).width ≤ 64 ∧ (front (bench id)).budget ≤ 128 ∧
    (front (bench id)).frag = none :=
  ⟨clear_all (by decide +kernel), by decide +kernel⟩

theorem witness_ControlRegisters : (bench (uni 31 0 0)).team? 0 = some (wordTeam 0 0 2) ∧ (front (bench (uni 31 0 0))).frag = none ∧
    (∀ sh ∈ [csrShape (formAI 10 1 { zI with imm := 1, rd := 1 }) [] [(.u, 1)], csrShape (formAI 10 2 { zI with imm := 1, rd := 1 }) [.uni 1 1] [],
      csrShape (formAI 10 1 { zI with imm := 0xFFF, rd := 23 }) [] [(.u, 23)]], (bench (uni 31 0 0)).Clear 0 (front (bench (uni 31 0 0))) sh) ∧
    csrListed 0xFFF = false ∧ csrListed 1 = true ∧ (front (bench (uni 31 0 0))).flagsPending = false ∧ csrWritable 0xFFF = false ∧ csrWritable 1 = true ∧
    csrLegal 1 ((front (bench (uni 31 0 0))).uget 1) = true ∧ csrLegal 2 5 = false ∧ csrWritable 2 = true :=
  ⟨by decide +kernel, by decide +kernel, clear_all (by decide +kernel), by decide +kernel⟩

theorem witness_CrossLaneWords : (∀ sh ∈ [(formA64 12 0 z64).shape [.vec 0 1 0, .vec 0 1 0] [(.v, 0)],
      (formA64 12 1 { z64 with ra := 6, rd := 6 }).shape [.pred 6] [(.p, 6)], (formA64 12 3 { z64 with rd := 126 }).shape [.pred 0] ((formA64 12 3 { z64 with rd := 126 }).d 2),
      (formA64 12 4 { z64 with ra := 126, rc := 1 }).shape [.vec 126 2 0] ((formA64 12 4 z64).d 2), (formA64 12 5 y64).shape [.vec 20 1 0] [(.v, 10)],
      (formA64 12 7 { y64 with rb := 6 }).shape [.vec 20 1 0, .pred 6] [(.v, 10)]], (bench id).Clear 0 (front (bench id)) sh) ∧
    (front (bench id)).frag = none ∧ 5 ≤ 5 ∧ [1, 2#32].Perm [2, 1] :=
  ⟨clear_all (by decide +kernel), by decide +kernel, by decide, by decide⟩

/-- Vector registers 0 and 1 hold a mask in every lane. -/
def masked (m : Nat → W32) : State := bench fun u => { u with v := (List.range 32).map (fun l => (l, m l)), dirty := BitVec.allOnes 128 }

theorem witness_LaneSynchronisationAndTopLists :
    (∀ s ∈ [masked fun _ => 0xFFFFFFFF, masked fun l => BitVec.ofNat 32 (l + 1)], s.Clear 0 (front s) ((formA64 12 8 z64).shape [.vec 0 2 0] []) ∧ (front s).frag = none) ∧
    (∀ l ∈ (front (masked fun _ => 0xFFFFFFFF)).guardedLanes 7, (masked fun _ => 0xFFFFFFFF).arg64 (front (masked fun _ => 0xFFFFFFFF)) (.vec 0 2 0) l = 0xFFFFFFFF) ∧
    (0xFFFFFFFF : W64) &&& ~~~(front (bench id)).active = 0 ∧
    (∃ k ∈ (List.range 32).tail, (masked fun l => BitVec.ofNat 32 (l + 1)).arg64 (front (masked fun l => BitVec.ofNat 32 (l + 1))) (.vec 0 2 0) k ≠
      (masked fun l => BitVec.ofNat 32 (l + 1)).arg64 (front (masked fun l => BitVec.ofNat 32 (l + 1))) (.vec 0 2 0) 0) ∧
    (bench id).Clear 0 (front (bench id)) ((formA64 12 9 { z64 with rc := 3, rd := 112 }).shape [.vec 0 1 0, .vec 0 1 0, .vec 112 16 0] (spanRegs .v 112 16)) ∧
    ([0, 0] : List W32).length = 2 * 1 ∧ (Fmt.f32.value (0x7FC00000 : W32).toNat).isNan = true ∧ (Fmt.f32.value (0 : W32).toNat).isNan = false :=
  ⟨by
    intro s h
    simp only [List.mem_cons, List.not_mem_nil, or_false] at h
    rcases h with rfl | rfl <;> exact ⟨clear_of (by decide +kernel), by decide +kernel⟩,
   by decide +kernel, by decide +kernel, by decide +kernel, clear_of (by decide +kernel), by decide +kernel⟩

theorem witness_FrameOfLaneWords :
    let sh := (formAI 3 4 { zI with rd := 127 }).shape [] [(.v, 127)]
    (bench id).Clear 0 (front (bench id)) sh ∧ ∃ lat f, LaneFixed (.li { zI with rd := 127 }) sh lat f := by
  have e (s : State) : exec (.li { zI with rd := 127 }) s = fixedOp ((formAI 3 4 { zI with rd := 127 }).shape [] [(.v, 127)]) 3 (fun _ _ _ => ([(0#32).setWidth 64], 0)) s := rfl
  refine ⟨clear_of (by decide +kernel), 3, fun _ _ _ => ([(0#32).setWidth 64], 0), fun s uid u h => ?_⟩
  rw [e, fixedOp_of h]
  rfl

/-- The bench with banks 0 (the header's) and 1 as scratchpad, 2 as FIFO and 3 as cache; lane 0 alone is guarded in under p0, and register 1 of lane 0 holds `a`. -/
def bankTeam : Team := { wordTeam 0 0 2 with banks := [⟨0, .sp⟩, ⟨1, .sp⟩, ⟨2, .fifo⟩, ⟨3, .cache⟩] }

def laneOf (a : W32) (u : Machine.Unit) : Machine.Unit := { u with v := [(64, a)], dirty := BitVec.allOnes 128, p := [(0, 1)] }

def banked (f : Machine.Unit → Machine.Unit) : State := { bench f with teams := [bankTeam] }

/-- A word whose first source is register 1, guarded by p0. -/
def w1 : A64 := { z64 with ra := 1, guard := 0 }

theorem witness_BarriersAndStageWords :
    (∀ s ∈ [banked (laneOf 4), banked (laneOf 0x08000008), banked (laneOf 0), banked (laneOf 1024)],
      ∀ sh ∈ [barShape 2 w1 true, barShape 3 w1 true, barShape 4 w1 true, barShape 5 { w1 with guard := 7 } false, barShape 6 w1 true, barShape 7 w1 false], s.Clear 0 (front s) sh) ∧
    (banked (laneOf 4)).laneBars (front (banked (laneOf 4))) w1 = [barAddr 0 4] ∧
    -- an odd address, another cluster's word, a header word and a good word
    (barAddr 0 4).sram % 8 ≠ 0 ∧ (barAddr 0 0x08000008).sram % 8 = 0 ∧ (barAddr 0 0x08000008).remote = true ∧
    (banked id).ownWord 0 (barAddr 0 0x08000008) = false ∧ (banked id).ownWord 0 (barAddr 0 1024) = true ∧ (banked id).inHeader 0 0 8 = true ∧
    (banked id).inHeader 0 1024 8 = false ∧ (banked id).abortPending (front (banked id)) = false ∧ (front (banked id)).pathFull .sp = false ∧
    (front (banked id)).spq = [] ∧ (front (banked id)).count .sp = 0 ∧ (banked id).team? 0 = some bankTeam ∧ (front (banked id)).wait = .none ∧
    (0 : Nat) < 2 ^ 31 - 1 ∧ 2 ^ 31 - 1 < 2 ^ 31 :=
  ⟨by
    intro s h sh k
    simp only [List.mem_cons, List.not_mem_nil, or_false] at h
    rcases h with rfl | rfl | rfl | rfl <;> exact clear_all (by decide +kernel) sh k,
   by decide +kernel⟩

/-- Uniform register 1 holds a base, and lane 0 alone is guarded in under p0. -/
def based (a : W64) : State := bench fun u => { u with u := [(1, a)], p := [(0, 1)] }

def m1 : AM := { zM with mode := 2, sbase := 1, rd := 4, guard := 0 }

/-- What address 0x2000 and its neighbours come to. -/
def plain (a : Nat) : Xlate := { pa := a, attr := { ms := false, near := false, key := 0, device := none, host := none }, shared := false, permR := true, permW := true, asid := 0, va := a }

theorem witness_GlobalAccesses :
    (∀ s ∈ [based 0x2000, based 0x2002, based 0x0100000000000000, based 0x40000000], ∀ sh ∈ [(formA64 14 36 m1.toA64).shape [.base 1] (spanRegs .v 4 1),
        (formA64 14 36 m1.toA64).shape [.base 1, .vec 4 1 0] [], { (formA64 11 13 m1.toA64).shape [.uni 1 1] [(.u, 4)] with pipe := true },
        (formA64 16 0 m1.toA64).shape [.base 1, .vec 4 1 0] [(.v, 4), (.p, 0)]],
      s.Clear 0 (front s) sh) ∧
    (based 0x2000).abortPending (front (based 0x2000)) = false ∧ (front (based 0x2000)).drained = true ∧ (front (based 0x2000)).pathFull .ld = false ∧
    (based 0x2000).amLanes (front (based 0x2000)) m1 = [(0, 0x2000)] ∧
    (∀ g ∈ [storeAccess m1 4, loadAccess m1 4 1 false], (based 0x2000).Reaches (front (based 0x2000)) g [(0, 0x2000)] [(0, 0x2000, plain 0x2000)]) ∧
    -- a sealed line, and a poisoned word
    (based 0x2000).sealedAt 0 0x2000 (plain 0x2000) = false ∧
    { based 0x2000 with contexts := [{ wordContext 0 0 with sealed := [(0x2000, 128)] }] }.sealedAt 0 0x2000 (plain 0x2000) = true ∧
    (let q := (based 0x2000).request (front (based 0x2000)) (loadAccess m1 4 1 false) []
     (based 0x2000).consumesPoison 0 q (laneReq 0 0 0x2000 (plain 0x2000) 0 0) = false ∧
     { based 0x2000 with poisonMem := [0x2000 / 32] }.consumesPoison 0 q (laneReq 0 0 0x2000 (plain 0x2000) 0 0) = true) ∧
    (0x2002 : W64).toNat % 4 ≠ 0 ∧ canonical 0x0100000000000000 = false ∧ canonical 0x40000000 = true ∧
    (based 0x40000000).place (front (based 0x40000000)) (storeAccess m1 4) 0x40000000 = .error 0 ∧ (front (based 0x40000000)).drained = true ∧
    ({ front (based 0x40000000) with reqs := [(based 0x2000).request (front (based 0x2000)) (loadAccess m1 4 1 false) []] }).drained = false ∧
    (front (based 0x2000)).region = none :=
  ⟨by
    intro s h sh k
    simp only [List.mem_cons, List.not_mem_nil, or_false] at h
    rcases h with rfl | rfl | rfl | rfl <;> exact clear_all (by decide +kernel) sh k,
   by decide +kernel, by decide +kernel, by decide +kernel, by decide +kernel,
   by
    intro g h
    simp only [List.mem_cons, List.not_mem_nil, or_false] at h
    rcases h with rfl | rfl <;> exact ⟨by decide +kernel, by decide +kernel, by decide +kernel, by decide +kernel⟩,
   by decide +kernel⟩

/-- A scratchpad load of lane 0 that is queued. -/
def spLoad : SpAcc := { seq := 1, joint := 1, kind := .load true, size := 1, cluster := 0, dest := 127, span := 1, okPred := none, lanes := [⟨0, 1024, 0, 0, 0, 0, true⟩] }

/-- A store of a word, and an arrival of one at a barrier word of bank 1. -/
def spStore : SpAcc := { spLoad with kind := .store, size := 4, span := 0 }

def spArrive : SpAcc := { spLoad with kind := .arrive, size := 8, span := 0, lanes := [⟨0, 1024, 1, 1024, 0, 0, true⟩] }

def queuedSp (a : SpAcc) : State := banked fun u => { u with spq := [a] }

/-- A parent group with one exported level, and its fragment thread of lane 0. -/
def frag : FragInfo :=
  { parent := 0, ctr := 0, lane := 0, lanes := 1, joinPc := 0x100040, launched := false, cache := [], back := [], late := [], since := 0, step := 0, joined := false, exited := false, counted := false }

def fragBench (f : FragInfo) (w : Wait) : State :=
  let s := bench fun u => { u with levels := [⟨0x100040, 3, .exported 0 1 [] false⟩], joinCtr := [1, 0, 0, 0] }
  { s with units := s.units ++ [{ front s with frag := some f, levels := [], active := 1, launched := 1, wait := w }] }

theorem memoryOk_bench (f : Machine.Unit → Machine.Unit) : (banked f).MemoryOk := by
  refine ⟨?_, ?_, ?_, ?_⟩
  · show swf (bench id).mem = true; decide +kernel
  · rfl
  · rfl
  · rfl

theorem witness_Scratchpad :
    (∀ s ∈ [based 1024, based 1025, based 4096, based 0], ∀ sh ∈ [(formA64 15 36 m1.toA64).shape [.base 1] (spanRegs .v 4 1),
        (formA64 15 36 m1.toA64).shape [.base 1, .vec 4 1 0] [], (formA64 16 16 m1.toA64).shape [.base 1, .vec 4 1 0] [(.v, 4)]], s.Clear 0 (front s) sh) ∧
    (based 1024).team? 0 = some (wordTeam 0 0 2) ∧ (banked id).sramAllowed 0 0 0 1024 true = true ∧ (banked id).sramAllowed 0 0 0 4096 true = false ∧
    (banked id).sramAllowed 0 0 0 2048 false = true ∧ (banked id).sramAllowed 0 0 0 2048 true = false ∧ (banked id).inHeader 0 60 4 = true ∧ (banked id).inHeader 0 64 4 = false ∧
    (banked id).sramPoisoned 0 1024 4 = false ∧
    (∀ a ∈ [spLoad, spStore, spArrive, { spLoad with kind := .atom 0 2, size := 4 }],
      (queuedSp a).MemoryOk ∧ (queuedSp a).unit? 0 = some (front (queuedSp a)) ∧ (front (queuedSp a)).spq = [a] ∧ (queuedSp a).spWaits 0 (front (queuedSp a)) a = false ∧
      (queuedSp a).teamEnded (front (queuedSp a)) = false ∧ 0 < a.size ∧ (a.lanes.map fun l => l.lane).Nodup) ∧
    (spArrive.lanes.all fun l => (queuedSp spArrive).ownWord 0 (barAddr 0 (l.data2.setWidth 32)) && decide (0 < l.data.toNat)) = true ∧
    -- an access of a fragment thread behind one of its group
    (let s := fragBench { frag with since := 1 } .none
     let s1 : State := { s with units := s.units.map fun u => if u.frag.isSome then u else { u with spq := [{ spStore with seq := 0 }] } }
     ∀ x, s1.unit? 1 = some x → s1.spWaits 1 x spStore = true) ∧
    swf (front (bench id)).v = true ∧ (front (bench id)).launched.getLsbD 0 = true ∧ (front (bench id)).frag = none :=
  ⟨by
    intro s h sh k
    simp only [List.mem_cons, List.not_mem_nil, or_false] at h
    rcases h with rfl | rfl | rfl | rfl <;> exact clear_all (by decide +kernel) sh k,
   by decide +kernel, by decide +kernel, by decide +kernel, by decide +kernel, by decide +kernel, by decide +kernel, by decide +kernel, by decide +kernel,
   fun a h => ⟨memoryOk_bench _, by
    simp only [List.mem_cons, List.not_mem_nil, or_false] at h
    rcases h with rfl | rfl | rfl | rfl <;> decide +kernel⟩, by decide +kernel, by decide +kernel, by decide +kernel⟩

/-- A request of one lane of unit 0 to address 0x2000. -/
def lane (done : Bool) : LaneReq :=
  { laneReq 0 0 0x2000 (plain 0x2000) 9 0 with done := done, result := if done then 5 else 0, wrote := true, stamp := 3, ctime := 4 }

def req (k : ReqKind) (span : Nat) (l : LaneReq) : Req :=
  { seq := 1, pc := 0, kind := k, size := 4, rtype := if k = .store then 0 else 2, scope := 0, op := 0, ety := 2, lease := 512, det := false, region := false, joint := 1, uni := false
    dest := 127, span := span, okPred := none, lanes := [l] }

def l2Line : L2Line :=
  { asid := 0, line := 64, pa := 0x2000, attr := (plain 0).attr, permR := true, permW := true, valid := 0xFFFFFFFF, dirty := 1, data := [(0, 7)], owner := none, foreign := 0
    lease := 0, pin := 0, pinCtx := 0, stamp := 2 }

def returning (q : Req) : State := { bench (fun u => { u with reqs := [q], ops := [⟨1, .ld, false⟩], vars := [⟨[⟨.v, 127, [(31, 6)]⟩], 0, 0⟩] }) with l2 := [l2Line] }

/-- A lane whose frame, the first above the towers, a window maps to the host address 0x10000. -/
def hostLane : LaneReq := { lane false with pa := towerEnd, attr := { (plain 0).attr with host := some (0x10000 - towerEnd) } }

def hostWindowed (k : ReqKind) : State :=
  { returning (req k 0 hostLane) with
    windows := { base := BitVec.ofNat 64 towerEnd, len := 65536, host := 0x10000, ctl := 3 } :: List.replicate 15 HostWindow.reset }

theorem witness_Waits :
    (∀ s ∈ [based 0x2000, based 1024, based 3], ∀ sh ∈ [(formA64 17 0 { z64 with rc := 8, ra := 1 }).shape [.uni 1 1] [], (formA64 17 1 z64).shape [] [],
        (formA64 17 2 { z64 with ra := 1 }).shape [.uni 1 1, .uni 0 1] [(.p, 0)]], s.Clear 0 (front s) sh) ∧
    (based 1024).abortPending (front (based 1024)) = false ∧ (front (bench id)).count .ld = 0 ∧ (front (bench id)).count .st = 0 ∧ (front (bench id)).count .at_ = 0 ∧
    (front (bench id)).wct = 0 ∧ 0 + 60 < ({ bench id with now := 61 } : State).now ∧
    (3 : W64).toNat % 8 ≠ 0 ∧ (1024 : W64).toNat % 8 = 0 ∧ (banked id).sramAllowed 0 0 0 1024 false = true ∧ (banked id).sramPoisoned 0 1024 8 = false ∧
    (let s := based 0x2000
     s.place (front s) (homeAccess 8 false) 0x2000 = .ok (plain 0x2000) ∧ s.homeBusy 0 (front s) (plain 0x2000) 8 = false ∧
     s.consumesPoison 0 (s.request (front s) (homeAccess 8 false) []) (laneReq 0 0 0x2000 (plain 0x2000) 0 0) = false) ∧
    (let s := returning (req .store 0 (lane false))
     ({ s with seq := 2 } : State).homeBusy 0 (front s) (plain 0x2000) 8 = true) ∧
    -- a counter in a scratchpad: the team's timeline, another word, poisoned and not
    (BitVec.ofNat 64 ((bench id).sramBytes 0 1024 8)).msb = false ∧ (0 : Nat) = (wordTeam 0 0 2).base ∧ 1024 ≠ (wordTeam 0 0 2).base ∧
    (BitVec.ofNat 64 ({ bench id with sram := [(1031, 0x80)] }.sramBytes 0 1024 8)).msb = true :=
  ⟨by
    intro s h sh k
    simp only [List.mem_cons, List.not_mem_nil, or_false] at h
    rcases h with rfl | rfl | rfl <;> exact clear_all (by decide +kernel) sh k,
   by decide +kernel⟩

/-- A base, a length and a pin time in uniform registers 1 to 3. -/
def ranged : State := { bench (uni 0x2000 128 64) with teams := [bankTeam] }

def wr : A64 := { z64 with ra := 1, rb := 2, rc := 3, rd := 4 }

theorem witness_CacheAndBanks : (∀ sh ∈ [rangeWord 3 wr [] false, rangeWord 4 wr [] false, rangeWord 5 wr [] true, rangeWord 6 wr [] true,
      rangeWord 7 wr [.uni 3 1] true, rangeWord 8 wr [] false, (formA64 17 9 wr).shape [.uni 1 1] [(.u, 4)]], ranged.Clear 0 (front ranged) sh) ∧
    (∀ l ∈ ranged.l1, l.owned = true → False) ∧ (∀ l ∈ [l2Line], ({ l with owner := some 0 } : L2Line).owner = some 0) ∧ ranged.unitCtx (front ranged) = some (wordContext 0 0) ∧ (wordContext 0 0).sealed.length < 16 ∧
    sealRange 0x2000 128 = some (0x2000, 128) ∧ sealRange 0x2001 128 = none ∧ ranged.storesIn (ranged.rangeNames 0 (0x2000, 128)) ranged.seq = false ∧ (front ranged).wait = .none ∧
    (let s := { ranged with units := (returning (req .store 0 (lane false))).units, seq := 2 }
     s.storesIn (s.rangeNames 0 (0x2000, 128)) s.seq = true) ∧
    (let s : State := { bench (fun u => { uni 0x2000 128 64 u with wait := .sealing 0 }) with contexts := [{ wordContext 0 0 with sealed := [(0x2000, 128)] }] }
     clearB s (rangeWord 5 wr [] true) = true ∧ clearB s (rangeWord 6 wr [] true) = true ∧ s.storesIn (s.rangeNames 0 (0x2000, 128)) 0 = false ∧
     (0x2000, 128) ∈ (s.unitCtx (front s)).elim [] fun c => c.sealed) ∧
    rangeLines 0x2000 128 = [0x2000] ∧ canonical 0x2000 = true ∧ ranged.translate 0 (va57 0x2000) false = .ok (plain 0x2000) ∧ ranged.uncached (plain 0x2000) = false ∧
    ranged.pinnedBeside (plain 0x2000) < 8 ∧ ranged.team? 0 = some bankTeam ∧ (front ranged).count .sp = 0 ∧
    -- statuses 0, 1 and 2 of a change of mode, and both answers of a query
    bankTeam.bankStatus 1024 1 .fifo = 0 ∧ bankTeam.bankStatus 1025 1 .fifo = 1 ∧ bankTeam.bankStatus 0 2 .fifo = 2 ∧ ranged.accessesBanks 0 [1] = false ∧ bankTeam.queue = [] ∧
    bankTeam.banks.length ≤ 4 ∧ nth? bankTeam.banks 3 = some ⟨3, .cache⟩ :=
  ⟨clear_all (by decide +kernel), by decide +kernel⟩

/-- An open region of unit 0. -/
def region (pending : Option Nat) : Region :=
  { id := 7, unit := 0, die := 0, handler := 0x100080, statusReg := 5, opened := 0, pending := pending, linesRead := [], linesWritten := [] }

def inRegion (pending : Option Nat) (w : Wait) : State :=
  { bench (fun u => { u with region := some 7, wait := w }) with regions := [region pending], regionCount := 8, now := 1000001 }

theorem witness_Regions : (∀ s ∈ [bench id, inRegion none .none], ∀ sh ∈ [{ (formAI 18 0 zI).shape [] [] with named := [0] }, (formA64 18 1 z64).shape [] [(.u, 0)],
        (formA64 18 3 z64).shape [] [(.u, 0)], { (formA64 18 2 z64).shape [] [] with named := [s.regionStatusReg] }],
      s.Clear 0 (front s) sh ∧ s.abortPending (front s) = false) ∧
    (front (bench id)).region = none ∧ (inRegion none .none).regions.find? (fun y => y.id == 7) = some (region none) ∧
    ((bench id).regions.filter fun r => r.die == dieOf 0).length < 256 ∧ (front (inRegion none .none)).count .ld = 0 ∧
    (inRegion none (.farEnd 5 0x100008 1)).openRegion? 7 = some (region none) ∧
    (∀ e ∈ (inRegion none (.farEnd 5 0x100008 1)).edges, e.stalled = none → e.dst ≠ 7 ∧ (e.src = 7 → e.delivered = true)) ∧
    ((inRegion (some 6) .none).unit? 0).isSome = true ∧ (inRegion (some 6) .none).regions.find? (fun y => y.id == 7) = some (region (some 6)) ∧
    (inRegion none .none).ctx? 0 = some (wordContext 0 0) ∧ (region none).opened + (wordContext 0 0).entry.farto * 1000 < (inRegion none .none).now ∧
    ({ inRegion none (.farEnd 5 0x100008 1) with versions := [⟨0, 0x800, 7, 9, 0x2000, (plain 0).attr, 0⟩], l2 := [l2Line] }.versions.filter fun (v : Version) => v.region == 7) =
      [⟨0, 0x800, 7, 9, 0x2000, (plain 0).attr, 0⟩] ∧
    (∃ e ∈ [(⟨6, 7, .forward, true, none⟩ : Edge)], e.dst = 7 ∧ e.stalled = none) ∧
    256 ≤ (({ bench id with regions := List.replicate 256 (region none) } : State).regions.filter fun r => r.die == dieOf 0).length ∧
    (returning (req .store 0 (lane false))).units.map (fun u => u.count .ld) = [1] ∧ (front (inRegion (some 6) .none)).claimed = false ∧
    nth? ({ bench id with edges := [⟨1, 2, .forward, true, none⟩, ⟨1, 2, .forward, false, none⟩] } : State).edges 1 = some ⟨1, 2, .forward, false, none⟩ :=
  ⟨by
    intro s h sh k
    simp only [List.mem_cons, List.not_mem_nil, or_false] at h
    rcases h with rfl | rfl <;> exact ⟨clear_all (by decide +kernel) sh k, by decide +kernel⟩,
   by decide +kernel⟩

/-- A subscriber of core 0 in bank 1 to a range of bank 3 of the same team, and the ring header of a FIFO bank. -/
def subTeam : Team := { wordTeam 0 0 2 with banks := [⟨0, .sp⟩, ⟨1, .sp⟩, ⟨2, .fifo⟩, ⟨3, .sp⟩] }

/-- The ring at 2048: 4 slots of 16 bytes, one message unread. -/
def ringBytes : List Byte := [0, 0, 0, 0, 1, 0, 0, 0, 4, 0, 1, 0, 1, 0, 0, 0]

def subBench (a b c : W64) : State :=
  let s := bench (uni a b c)
  { s with teams := [subTeam], sram := ssetMany [] 2048 ringBytes, mem := ssetMany s.mem 0x4000 ringBytes }

def ring : Ring := ringOf (BitVec.ofNat 128 (natOfBytes ringBytes))

theorem memoryOk_subBench (a b c : W64) : (subBench a b c).MemoryOk := by
  refine ⟨?_, ?_, ?_, ?_⟩
  · show swf (ssetMany (bench id).mem 0x4000 ringBytes) = true; decide +kernel
  · rfl
  · show swf (ssetMany [] 2048 ringBytes) = true; decide +kernel
  · rfl

theorem witness_SubscriptionsAndMessages :
    (∀ sh ∈ [(formA64 19 0 wr).shape [.uni 1 1, .uni 2 1, .uni 3 1] [(.u, 4)], (formA64 19 1 { z64 with rb := 31 }).shape [] [(.u, 0)],
        { (formA64 19 2 z64).shape [] [] with pipe := true }, (formA64 19 3 { z64 with ra := 1, rb := 2, guard := 0 }).shape [.vec 1 1 0, .vec 2 2 0] [],
        (formA64 19 4 wr).shape [.uni 1 1] [], (formA64 19 5 wr).shape [.uni 1 1] []],
      (subBench 1024 3072 128).Clear 0 (front (subBench 1024 3072 128)) sh ∧ (subBench 2048 0 0).Clear 0 (front (subBench 2048 0 0)) sh) ∧
    (subBench 1024 3072 128).team? 0 = some subTeam ∧
    -- statuses 0, 4 and 5 of an opening, and 1 with an entry of that sid
    (subBench 0 0 0).subStatus 0 0 (subArgs 1024 3072 128) = (0, 0) ∧ ((subBench 0 0 0).subStatus 0 0 (subArgs 1024 5120 128)).1 = 4 ∧
    ((subBench 0 0 0).subStatus 0 0 (subArgs 1024 3072 64)).1 = 5 ∧ (subBench 0 0 0).spRange 0 1024 128 = some 0 ∧
    ({ subBench 0 0 0 with subs := [⟨0, 0, 0, 1024, 128, 0, 3072, 0, false⟩] }.subStatus 0 0 (subArgs 1024 3072 128)).1 = 1 ∧
    (front (subBench 0 0 0)).pathFull .sp = false ∧ (front (subBench 0 0 0)).pathFull .msg = false ∧ (front (subBench 0 0 0)).spq = [] ∧
    -- a ring of the own FIFO banks, and an address that is none
    (subBench 2048 0 0).fifoRing 0 2048 = some (0, ring) ∧ ring.unread = 1 ∧ (subBench 2048 0 0).fifoRing 0 1024 = none ∧ (2048 : W64).toNat < 2 ^ 20 ∧
    (subBench 2048 0 0).retryFull 0 = false ∧ (subBench 2048 0 0).ownSource 0 0 1024 16 = true ∧ 
    (let s := subBench 2048 0 0
     locateAll (fun y => s.locate 0 (va57 y) true) [] = .ok [] ∧ ¬ s.Queued (front s) ∧
     -- a ring in global memory
     (match s.ownGlobalRing 0 (front s) 0x4000 with
      | .ring s1 r x _ => r == ring && x == some (plain 0x4000) && !s1.inRegionSet 0 0x4000 4
      | _ => false) = true) :=
  ⟨fun sh k => ⟨clear_all (by decide +kernel) sh k, clear_all (by decide +kernel) sh k⟩, by unfold State.Queued; decide +kernel⟩

/-- A command of the copy engine of unit 0. -/
def copyCmd (k : CopyKind) : CopyCmd :=
  { seq := 1, core := 0, team := 0, unit := 0, batch := 0, pc := 0, size := 4, kind := k, floor := 0, next := 0, ctime := 0, entries := 1, held := [], got := []
    sent := none, writes := none, fault := none }

/-- The bench as a group of the copy role, with uniform registers 1 to 3. -/
def copyBench (a b c : W64) : State := bench fun u => { uni a b c u with role := 0, v := [(64, 64)], dirty := BitVec.allOnes 128, p := [(0, 1)] }

/-- `cp` of one element from global memory: register 1 is the scratchpad address, register 2 the index. -/
def wcp : A64 := { z64 with ra := 2, rb := 1, rd := 1, guard := 0 }

theorem witness_CopyCommands :
    (∀ sh ∈ [copyShape 0 wcp [.vec 2 1 0, .uni 1 1, .vec 1 1 0] [], copyShape 2 wcp [.uni 2 1, .uni 1 2, .uni 1 1] [], copyShape 3 wcp [.uni 2 1, .uni 1 1] [],
        copyShape 1 { z64 with ra := 1, rb := 2, rc := 3 } [.uni 1 1, .uni 2 1, .uni 3 1] [],
        copyShape 4 { z64 with ra := 1, rb := 2, rd := 3 } [.vec 1 1 0, .uni 0 1, .vec 2 1 0, .uni 0 1, .vec 3 1 0] [(.u, 0)],
        copyShape 6 z64 [.uni 0 1, .uni 0 1, .uni 0 2, .uni 0 1] [], copyShape 9 { z64 with pb := 21 } [.uni 0 1, .uni 0 1, .uni 21 3, .uni 0 1] []],
      (copyBench 0x2000 128 1024).Clear 0 (front (copyBench 0x2000 128 1024)) sh) ∧
    -- the elements of cp, good and misaligned
    (copyBench 0x2000 0 0).cpElems (front (copyBench 0x2000 0 0)) wcp = [(⟨true, 0x2000⟩, ⟨false, 64⟩)] ∧
    (⟨true, 0x2000⟩ : CopyEnd).noAddress = false ∧ (⟨false, 64⟩ : CopyEnd).noAddress = false ∧ (bench id).inHeader 0 64 4 = false ∧
    (⟨true, 0x2002⟩ : CopyEnd).misaligned 4 = true ∧
    (front (copyBench 0 0 0)).pathFull .cp = false ∧ (copyBench 0 0 0).queueFull 0 ((copyBench 0 0 0).unitCtx (front (copyBench 0 0 0))) = false ∧
    ({ copyBench 0 0 0 with copies := [{ copyCmd (.zero 1024 16) with entries := 256 + 4096 }] } : State).queueFull 0 (some (wordContext 0 0)) = true ∧
    -- a segment of no lines, and one that fits
    (∀ y ∈ [(64, 0, 0), (64, 0, 4)], y.2.2 ≤ 65535 ∧ y.1 % 4 = 0 ∧ y.1 < 2 ^ 20) ∧ (bench id).inHeader 0 64 16 = false ∧ (0x2000 : W64).toNat % 4 = 0 ∧
    canonical 0x2000 = true ∧
    -- cp.tile with a zero block, cp.zero of one line and one too long
    ((front (bench id)).tileArgs { z64 with pa := 8 }).spare = 0 ∧ (128 : W64).toNat % 16 = 0 ∧ 2 ^ 20 ≤ (0x100000 : W64).toNat ∧
    -- cp.commit: a counter and a stage word, and no batch of that number
    (0x2000 : W64).toNat % 8 = 0 ∧ (barAddr 0 1024).sram % 8 = 0 ∧ (bench id).inHeader 0 1024 8 = false ∧ (∀ b ∈ (bench id).batches, b.id ≠ batchId 0 0) ∧
    (bench id).team? 0 = some (wordTeam 0 0 2) :=
  ⟨clear_all (by decide +kernel), by decide +kernel⟩

/-- Operands that every sparse conversion accepts: nothing to convert, arrays behind the header. -/
theorem witness_ConvReady : ConvReady (bench id) (front (bench id)) .unpackBitmap 4 true 1024 0 (fun _ => 1024) 1032 ∧
    ConvReady (bench id) (front (bench id)) .isect 4 true 1024 1024 (fun i => if i = 4 then 0 else 1024) 1032 ∧
    ConvReady (bench id) (front (bench id)) .merge 1 true 1024 0 (fun i => if i = 2 then 0 else 1024) 1032 :=
  ⟨⟨by decide +kernel, by decide +kernel, by decide +kernel⟩, ⟨by decide +kernel, by decide +kernel, by decide +kernel⟩, ⟨by decide +kernel, by decide +kernel, by decide +kernel⟩⟩

/-- The bench as a group of the matrix role; every lane's register 1 holds a format word. -/
def matrixBench (fw : Nat → W32) : State :=
  bench fun u => { u with role := 1, v := (List.range 32).map (fun l => (64 + l, fw l)), dirty := BitVec.allOnes 128, u := ssetMany [] 1 [1024, 256, 1] }

def wmm : A64 := { z64 with ra := 1, rb := 2, rc := 1, rd := 4 }

theorem witness_MatrixCommands :
    (∀ s ∈ [matrixBench fun _ => 0x55, matrixBench fun _ => 0x77, matrixBench fun l => if l = 31 then 0x55 else 0x56], (∀ sh ∈ [matrixShape 0 { wmm with rc := 1, ra := 4 } [.vec 4 12 0, .uni 2 1, .vec 1 1 0],
        mloopShape { wmm with pa := 64, pb := 1 } (front s), matrixShape 3 wmm [], matrixShape 4 wmm [.uni 1 1, .uni 2 1, .uni 1 1], matrixShape 6 { wmm with pb := 3 } [.uni 1 1, .uni 2 1, .uni 3 1, .uni 1 1]],
      s.Clear 0 (front s) sh) ∧ s.team? 0 = some (wordTeam 0 0 2) ∧ (front s).frag = none ∧ s.latchHeld 0 (front s) = false) ∧
    -- one legal format, one illegal, lanes that differ
    (matrixBench fun _ => 0x55).Votes (front (matrixBench fun _ => 0x55)) 1 0x55 ∧ (mfmt 0x77).legal = false ∧
    ((List.range 32).tail.find? fun l => decide (((matrixBench fun l => if l = 31 then 0x55 else 0x56).readV (front (matrixBench fun l => if l = 31 then 0x55 else 0x56)) 1 l).toNat % 65536 ≠ 0x56)) = some 31 ∧
    (wordTeam 0 0 2).desc.accTiles ≤ 8 ∧ 7 < (wordTeam 0 0 2).desc.accTiles ∧
    { matrixBench (fun _ => 0x55) with teams := [{ wordTeam 0 0 2 with banks := (List.range 16).map fun i => ⟨i, .sp⟩ }] }.OwnRanges
      (front (matrixBench fun _ => 0x55)) [(1024, (mfmt 0x55).bSpan)] ∧
    { matrixBench (fun _ => 0x55) with teams := [{ wordTeam 0 0 2 with banks := (List.range 16).map fun i => ⟨i, .sp⟩ }] }.NoHeader (front (matrixBench fun _ => 0x55)) (rowRanges 1024 256 256 32) :=
  ⟨by
    intro s h
    simp only [List.mem_cons, List.not_mem_nil, or_false] at h
    rcases h with rfl | rfl | rfl <;> exact ⟨clear_all (by decide +kernel), by decide +kernel, by decide +kernel, by decide +kernel⟩,
   ⟨by decide +kernel, by decide +kernel, by decide +kernel⟩, by decide +kernel, by decide +kernel, by decide +kernel, by decide +kernel,
   by unfold State.OwnRanges; decide +kernel, by unfold State.NoHeader; decide +kernel⟩

/-- A context whose queue 0 stands at 0x3000 with 4 slots and nothing in it. -/
def queueHeader : List Byte := List.replicate 24 0 ++ [4, 0, 0, 0, 0, 1] ++ List.replicate 34 0

def queueCtx : Context := { wordContext 0 0 with entry := { (wordContext 0 0).entry with queues := 0x3000 :: List.replicate 15 0 } }

def launchBench (f : Machine.Unit → Machine.Unit) (header : List Byte) : State :=
  { bench f with contexts := [queueCtx], mem := ssetMany (bench f).mem 0x3000 header, teams := [bankTeam] }

/-- A push of queue 0 in the middle of its steps. -/
def pushing (parts : Nat) (claimed : Bool) (stores : Nat) : State :=
  launchBench (fun u => { uni 1024 0 0 u with wait := .lqPush, push := some ⟨0, parts, 0x77, claimed, 0, 0x3040, stores, false, 4, 0⟩ }) queueHeader

def pushShape : Shape := (formA64 22 0 { z64 with ra := 1, rd := 4, pa := 16 }).shape [.uni 1 1] [(.u, 4)]

theorem witness_LaunchCommands :
    (∀ s ∈ [launchBench (uni 1024 0 0) queueHeader, pushing 3 false 0, pushing 8 false 0, pushing 8 true 7],
      (∀ sh ∈ [(formA64 22 1 { z64 with rd := 4 }).shape [] [(.u, 4)], pushShape], s.Clear 0 (front s) sh) ∧
      s.unitCtx (front s) = some queueCtx ∧ s.abortPending (front s) = false ∧ ¬ s.Queued (front s) ∧
      s.spFault (front s) 16 false true ((List.range 4).map fun i => (i, 1024 + BitVec.ofNat 64 (16 * i))) = none ∧
      s.queueAt (front s) 0x3000 64 false = .ok (plain 0x3000) ∧ s.homeBusy 0 (front s) (plain 0x3000) 64 = false ∧
      (s.readHeader 0 (front s) (plain 0x3000)).2.1 = ⟨0, 0, 0, 4, 0, true, true⟩ ∧
      s.queueAt (front s) 0x3000 8 true = .ok (plain 0x3000) ∧
      (s.readHeader 0 (front s) (plain 0x3000)).1.inRegionSet 0 0x3000 8 = false) ∧
    queueCtx.queueVa 0 ≠ 0 ∧ queueCtx.queueVa 15 = 0 ∧ (1024 : W64).toNat % 64 = 0 ∧ (1028 : W64).toNat % 64 ≠ 0 ∧
    -- a queue that is not enabled, one that is full, and one whose header is broken
    (qHeader (List.replicate 24 0 ++ [4, 0, 0, 0, 0, 0] ++ List.replicate 34 0)).enable = false ∧
    (qHeader ([4] ++ List.replicate 23 0 ++ [4, 0, 0, 0, 0, 1] ++ List.replicate 34 0)).reserve = 4 ∧ (qHeader (List.replicate 64 0)).valid = false ∧
    -- the last part of the slot is stored
    (let s := pushing 8 true 7
     let p : Push := ⟨0, 8, 0x77, true, 0, 0x3040, 7, false, 4, 0⟩
     (match State.pushStores 0 (pushAccess 8 true) (s.someOf (8 - p.stores)) s.fresh (front s) p with
      | .ok (_, _, p1) => p1 == { p with stores := 8 }
      | .error _ => false) = true) ∧
    -- a claimed slot is published
    (let s := pushing 8 true 8
     let u := front s
     (s.unit? 0).isSome = true ∧ s.able u = true ∧ u.count .st = 0 ∧ u.count .at_ = 0 ∧ u.wct = 0 ∧
     s.queueAt u 0x3008 8 false = .ok (plain 0x3008) ∧ s.queueAt u 0x3008 8 true = .ok (plain 0x3008) ∧
     (let u1 := (u.landAt u.step).acquireStamp u.wct
      let d := s.readHome 0 u1 (plain 0x3008) 8
      (d.2.1.setWidth 64).toNat = 0 ∧ d.1.inRegionSet 0 0x3008 8 = false ∧
      (d.1.pushPart 0 (d.1.withReqs 0 u1) (pushAccess 8 true) (pushLane u1 0x3008 (plain 0x3008) 1)).isSome = true)) :=
  ⟨by
    intro s h
    simp only [List.mem_cons, List.not_mem_nil, or_false] at h
    rcases h with rfl | rfl | rfl | rfl <;> exact ⟨clear_all (by decide +kernel), by unfold State.Queued; decide +kernel⟩,
   by decide +kernel⟩

theorem witness_DecodeOfEncode : (Instr.ld m1).wf = true ∧ (Instr.ld m1).raw ≠ .none := by decide +kernel

theorem witness_EncodeOfDecode : decode [0xC6, 0x48, 0x25] = .ok (.addS32C16 { b := 9, d := 3, s := 1 }, [0x25]) := by decide +kernel

/-- The state in which the word of the manual's example is fetched next. -/
def fetching : State := State.reset.withFetchWord 64 0x3D0E150CA0AB2233

theorem witness_StepRunsDecodedInstruction : fetching.agenda = [.issue 0] ∧
    (let u := front fetching
     let pre : State := { fetching with agenda := [], focus := some 0, tick := fetching.tick + 1, free := fetching.free + 1 }
     fetching.unit? 0 = some u ∧ pre.able u = true ∧ pre.hasElder u = false ∧ u.active ≠ 0 ∧ u.wait = .none ∧ pre.team? u.team = some (wordTeam 0 0 2) ∧ nth? pre.grids 0 = fetching.grids.head? ∧
     parcelLen 0x2233 = 8 ∧ (∀ k < 4, pre.parcel 0 ((fetching.grids.head?).getD (wordGrid 0 0 2 CodeImage.empty)) (u.pc + BitVec.ofNat 57 (2 * k)) k =
       .got (nth 0 [(0x33 : Byte), 0x22, 0xAB, 0xA0, 0x0C, 0x15, 0x0E, 0x3D] (2 * k + 1) ++ nth 0 [(0x33 : Byte), 0x22, 0xAB, 0xA0, 0x0C, 0x15, 0x0E, 0x3D] (2 * k))) ∧
     (pre.together u).length ≤ 1) := by
  decide +kernel

theorem witness_StepKeepsMemoryForm : (bench id).MemoryOk := memoryOk_bench id

theorem witness_ReturnsToRegisters :
    (∀ k ∈ [ReqKind.load true, .store, .atom, .red], ((returning (req k 1 (lane true))).unit? 0).isSome = true ∧
      nth? (front (returning (req k 1 (lane true)))).reqs 0 = some (req k 1 (lane true)) ∧ (req k 1 (lane true)).lanes.all (fun l => l.done) = true) ∧
    nth? (front (returning (req .store 0 (lane true)))).vars 0 = some ⟨[⟨.v, 127, [(31, 6)]⟩], 0, 0⟩ ∧ nth? (front (bench id)).vars 0 = none ∧
    swf (front (bench id)).v = true ∧ swf (front (bench id)).u = true ∧ swf (front (bench id)).p = true ∧ (front (bench id)).live = true ∧ (front (bench id)).frag = none ∧
    ((req .atom 1 (lane true)).lanes.map fun l => l.lane).Nodup ∧ (front (bench id)).launched.getLsbD 0 = true ∧
    (req .atom 1 (lane true)).size = 4 * (req .atom 1 (lane true)).span ∧ (req .store 0 (lane false)).lanes.any (fun l => !l.done) = true ∧
    -- an access performed at its slice
    nth? (req .store 0 (lane false)).lanes 0 = some (lane false) ∧
    (returning (req .store 0 (lane false))).olderPending 0 (front (returning (req .store 0 (lane false)))) (req .store 0 (lane false)) (lane false) = false ∧
    (returning (req .store 0 (lane false))).uncached (lane false).xlate = false ∧ (returning (req .store 0 (lane false))).l2Line? 0 64 = some l2Line ∧ swf l2Line.data = true ∧
    (returning (req .store 0 (lane false))).inRegionSet 0 0x2000 4 = false ∧
    (lane false).at_ = 0 ∧ (lane false).tags = [] ∧ (returning (req .store 0 (lane false))).teamEnded (front (returning (req .store 0 (lane false)))) = false ∧
    -- an access through a host window
    (∀ k ∈ [ReqKind.store, .load true], (hostWindowed k).olderPending 0 (front (hostWindowed k)) (req k 0 hostLane) hostLane = false ∧
      nth? (front (hostWindowed k)).reqs 0 = some (req k 0 hostLane) ∧ (hostWindowed k).teamEnded (front (hostWindowed k)) = false ∧ (hostWindowed k).inRegionSet 0 0x2000 4 = false) ∧
    hostLane.attr.host = some ((0x10000 : Int) - (towerEnd : Int)) ∧ hostLane.attr.device = none ∧ hostLane.done = false ∧ hostLane.result = 0 ∧ hostLane.at_ = 0 ∧ hostLane.tags = [] ∧
    -- a thread of a fragment that waits for a uniform register
    (fragBench { frag with late := [4] } .none).units.map (fun u => u.frag.map fun f => (f.parent, f.late)) = [none, some (0, [4])] := by
  decide +kernel

def signal (k : SignalKind) : Signal := { ctx := 0, team := 0, src := none, kind := k, cluster := 0, sram := 1024, target := 1024, globalVa := none }

def signalled (ks : List SignalKind) : State := { banked id with signals := ks.map signal, subs := [⟨0, 3, 0, 1024, 128, 0, 3072, 0, false⟩] }

/-- A saved team of context 0 whose image holds bank 1. -/
def image : SavedTeam :=
  { team := 0, ctx := 0, cluster := 0, gated := false, record := bankTeam, sram := [(1030, 1)], zeroFlags := [], stamps := [], poison := [], image := none }

def l1Line (owned : Bool) : L1Line :=
  { core := 0, asid := 0, line := 64, pa := 0x2000, attr := (plain 0).attr, valid := 0xFFFFFFFF, dirty := 2, data := [(1, 8)], owned := owned, expiry := 100, permR := true, permW := true, stamp := 1 }

def cached (owned : Bool) : State :=
  { bench id with l1 := [l1Line owned], l2 := [{ l2Line with owner := if owned then some 0 else none }], recalls := [⟨0, 5, 0, 65, 3, 0⟩, ⟨0, 5, 0, 65, 1, 0⟩] }

theorem witness_SignalsAndLevels :
    (∀ k ∈ [SignalKind.arrive 1, .toggle, .advance 1 0 0 none, .update 0 3 [(1024, 1)]], nth? (signalled [k]).signals 0 = some (signal k) ∧ (signalled [k]).updatesAhead 0 0 = false ∧
      (signalled [k]).messageAhead 0 (signal k) = false ∧ (signalled [k]).advanceOut (signal k) = false ∧ (signalled [k]).advanceAhead 0 (signal k) = false ∧
      (signalled [k]).resolve 0 0 1024 8 = .live 0 ∧ (signalled [k]).resolve 0 0 1024 1 = .live 0) ∧ (signalled []).pubs = [] ∧
    (signalled [.update 0 3 [], .toggle]).updatesAhead 1 0 = true ∧ (signalled [.advance 1 0 0 none, .advance 1 0 0 none]).advanceAhead 1 (signal (.advance 1 0 0 none)) = true ∧
    (signalled []).subs.find? (fun y => y.core == 0 && y.sid == 3 && !y.lost) = some ⟨0, 3, 0, 1024, 128, 0, 3072, 0, false⟩ ∧ (signalled []).team? 0 = some bankTeam ∧
    { signalled [] with teams := [{ bankTeam with life := .saved, banks := [] }], saved := [image] }.resolve 0 0 1024 8 = .image 0 ∧ swf image.sram = true ∧
    -- a publisher's buffer, young and old
    (∀ b ∈ [(⟨24, [], 0⟩ : WcBuf)], 63 < b.opened + 64) ∧ (∃ b ∈ [(⟨24, [], 0⟩ : WcBuf)], b.opened + 64 ≤ 64) ∧
    nth? (cached false).recalls 0 = some ⟨0, 5, 0, 65, 3, 0⟩ ∧ nth? (cached false).recalls 1 = some ⟨0, 5, 0, 65, 1, 0⟩ ∧
    (∃ x ∈ (cached false).recalls.take 1, x.core = 0 ∧ x.home = 5) ∧ (cached true).l1Live (l1Line true) = true ∧
    nth? (cached false).l1 0 = some (l1Line false) ∧ nth? (cached true).l1 0 = some (l1Line true) ∧ (cached true).l1Line? 0 0 64 = some (l1Line true) ∧
    (cached true).l2Line? 0 64 = some { l2Line with owner := some 0 } ∧ (∀ r ∈ (cached true).recalls, ¬ (r.core = 0 ∧ r.asid = 0 ∧ r.line = 64)) ∧
    nth? (cached false).l2 0 = some l2Line ∧ l2Line.pin = 0 ∧ ({ l2Line with pin := 1 } : L2Line).pin ≠ 0 ∧ (cached false).pinned l2Line = false ∧ l2Line.pa % 128 = 0 ∧
    (cached false).deciphered 0 0x2000 = none ∧ (cached false).deferred = [] ∧
    (cached false).translate 0 (3 * 65536) false = .ok (plain 0x30000) ∧ (bench id).translate 0 (2 ^ 14 * 65536) false = .error 0 ∧
    (bench id).translatedIn 0 0x2000 128 = false ∧ (returning (req .store 0 (lane false))).translatedIn 0 0x2000 128 = true ∧
    (∀ b ∈ (cached false).l2, b.asid = 0 → lineIn 0x2000 128 b.line = true → (cached false).pinned b = false) := by
  decide +kernel

/-- A pin before and behind its time, and a lease that is over. -/
theorem witness_Expiry :
    ({ bench id with now := 100 } : State).pinned { l2Line with pin := 1 } = false ∧ ({ bench id with now := 100 } : State).pinned { l2Line with pin := 200 } = true ∧
    ({ cached false with now := 200 } : State).l1Live (l1Line false) = false := by
  have h := State.clock_near (s := { bench id with now := 100 }) rfl (sliceClock ({ l2Line with pin := 1 } : L2Line).home)
  have h2 := State.clock_near (s := { cached false with now := 200 }) rfl (portClock ((l1Line false).core / 2))
  have hs : ({ cached false with now := 200 } : State).sealedLine 0 64 = false := by decide +kernel
  refine ⟨?_, ?_, ?_⟩
  · simp only [State.pinned, Bool.and_eq_false_iff, decide_eq_false_iff_not]
    exact .inr (by simp only at h ⊢; omega)
  · simp only [State.pinned, Bool.and_eq_true, decide_eq_true_eq]
    exact ⟨by decide, by have := h.2; simp only at this ⊢; exact Nat.le_trans this (by decide)⟩
  · have e : ({ cached false with now := 200 } : State).sealedLine (l1Line false).asid (l1Line false).line = false := hs
    simp only [State.l1Live, e, Bool.or_false, Bool.or_eq_false_iff, decide_eq_false_iff_not]
    exact ⟨rfl, by have := h2.1; show ¬ (_ < 100); simp only at this ⊢; omega⟩

/-- A ring message to the FIFO bank at 2048. -/
def msg (p : MsgPhase) : Msg :=
  { src := 0, pc := 0, seq := 0, lane := 0, ctx := 0, cluster := 0, dest := none, va := 0, sram := 2048, bytes := List.replicate 16 1, floor := 0, tries := 0, sent := false, phase := p }

def sent (p : MsgPhase) : State := { subBench 0 0 0 with msgs := [msg p] }

/-- The same ring with every slot taken, and the ring disabled. -/
def fullRing : List Byte := [0, 0, 0, 0, 4, 0, 0, 0, 4, 0, 1, 0, 1, 0, 0, 0]

theorem witness_FragmentsAndMessages :
    (let s := fragBench frag .none
     (s.unit? 1).isSome = true ∧ (s.unit? 0).isSome = true ∧ (front s).vars = [] ∧ (front s).reqs = [] ∧ (front s).spq = [] ∧ frag.launched = false) ∧
    (let s := fragBench { frag with launched := true } (.pull 127)
     (s.unit? 1).map (fun u => u.wait) = some (.pull 127) ∧ (s.unit? 1).map (fun u => u.frag) = some (some { frag with launched := true }) ∧ frag.joined = false ∧
     (∀ c ∈ frag.cache, c.1 ≠ 127)) ∧
    ({ frag with back := [(127, 5)] } : FragInfo).back = [(127, 5)] ∧ frag.parent ≠ 1 ∧ ({ frag with joined := true } : FragInfo).joined = true ∧ frag.back = [] ∧
    (∀ x ∈ (fragBench { frag with joined := true, counted := true } .none).units, x.inFragment 0 0 = true → x.reqs = [] ∧ x.spq = [] ∧ x.frag.elim false (fun g => g.counted) = true) ∧
    nth? (sent .flying).msgs 0 = some (msg .flying) ∧ (sent .flying).msgBehind 0 (msg .flying) = false ∧ (sent .flying).fifoState (msg .flying) = .ready ring ∧
    { sent .flying with sram := ssetMany [] 2048 fullRing }.fifoState (msg .flying) = .full ∧ { sent .flying with sram := [] }.fifoState (msg .flying) = .invalid ∧
    { sent .flying with teams := [wordTeam 0 0 2] }.fifoState (msg .flying) = .gone ∧ (msg (.backoff 5)).phase = .backoff 5 ∧ (msg .refused).dest = none ∧
    (sent .flying).ctx? 0 = some (wordContext 0 0) := by
  decide +kernel

def towerCmd (scatter : Bool) (next : Nat) : TowerCmd :=
  { seq := 1, core := 0, team := 0, unit := 0, pc := 0, ticket := 1, scatter := scatter, size := 4, listSp := false, list := 0x3000, base := 0x4000, segs := [(1024, 0, 1)], floor := 0
    next := next, ctime := 0, entries := 1, held := [], got := [], fault := none }

def batch (tl : Option (Bool × W64)) : Batch := { id := 0, seq := 0, closed := true, tl := tl, inc := 1, stage := none, ctime := 0, pc := 0 }

def mcmd (k : MatrixKind) : MatrixCmd :=
  { unit := 0, pc := 0, word := 0, ticket := 1, tile := 7, mask := 1, kind := k, next := 0, seen := [], got := [], bad := [], outs := [], finished := false }

/-- Whether a result is a value, and whether it is an error. -/
def isOk {ε α : Type} (x : Except ε α) : Bool :=
  match x with
  | .ok _ => true
  | .error _ => false

/-- A scatter of one element, whose index is `idx`. -/
def scattering (idx : Byte) : State :=
  let s := banked id
  { s with mem := ssetMany s.mem 0x3000 (List.replicate 4 idx), gathers := [towerCmd true 0] }

/-- A step on a B tile at 1024, of which the banks `seen` have been read, and the words `bad` are poisoned. -/
def mstep (seen : List Nat) (bad : List Nat) : MatrixCmd :=
  { mcmd (.steps (.regs [[]] []) 1024 0 0x55 1 0 false true) with seen := seen.map fun i => (i, false), bad := bad }

def convCmd (ws : Option (List CopyOut)) : CopyCmd := { copyCmd (.conv .unpackBitmap true 1024 0 [0, 0] 1032) with writes := ws }

theorem witness_EngineSteps :
    (let c := copyCmd (.lanes [(⟨true, 0x2000⟩, ⟨false, 1024⟩)])
     let s : State := { banked id with copies := [c] }
     let h := s.engineHome 0
     nth? s.copies 0 = some c ∧ c.fault = none ∧ c.isConv = false ∧ s.behindEarlier 0 1 (copyDst c.kind c.size) = false ∧ s.elemWaits h c = false ∧
     s.elemRemote h c 0 = none ∧ (s.readAhead h c).isNone = true ∧ isOk (s.copyElem h c 0) = true ∧ 0 < c.count ∧ ({ c with next := 1 } : CopyCmd).count ≤ 1) ∧
    (let c := copyCmd (.lanes [(⟨true, 0x40000000⟩, ⟨false, 1024⟩)])
     let s : State := { banked id with copies := [c] }
     isOk (s.copyElem (s.engineHome 0) c 0) = false) ∧
    (let c := copyCmd (.zero 1024 16)
     let s : State := { banked id with copies := [c] }
     let h := s.engineHome 0
     s.behindEarlier 0 2 (copyDst c.kind c.size) = true ∧ s.behindEarlier 0 1 (copyDst c.kind c.size) = false ∧ c.next < 16 / 16 ∧ c.got = [] ∧
     (bench id).inHeader 0 1024 16 = false ∧ s.sramAllowed h.ctx 0 h.cluster 1024 true = true ∧ s.sramAllowed h.ctx 0 h.cluster 1024 false = true ∧ s.sramPoisoned 0 1024 16 = false) ∧
    -- a conversion: its walk, and its writes
    (∀ ws ∈ [none, some [⟨1032, 8, 5, none⟩]],
     let c := convCmd ws
     let s : State := { banked id with copies := [c] }
     nth? s.copies 0 = some c ∧ s.behindEarlier 0 1 (copyDst c.kind c.size) = false ∧ isOk (s.convWrites (s.engineHome 0) [⟨1032, 8, 5, none⟩]) = true ∧
     isOk (s.fresh.convWrites (s.engineHome 0) ([⟨1032, 8, 5, none⟩].take (s.someOf 1))) = true ∧ (bench id).inHeader 0 1032 8 = false ∧ s.sramAllowed 0 0 0 1032 true = true ∧
     (s.convert (s.engineHome 0) .unpackBitmap { e := 4, sp := true, a := 1024, b := 0, p := [0, 0] } 1032 []).fault = none ∧
     isOk (s.engineWrite (s.engineHome 0) 6 ⟨false, 1032⟩ 8 5 0) = true ∧ isOk (s.engineWrite (s.engineHome 0) 6 ⟨false, 0⟩ 8 5 0) = false) ∧
    -- elements of a gather and a scatter
    (let s : State := { banked id with gathers := [towerCmd false 0] }
     nth? s.gathers 0 = some (towerCmd false 0) ∧ (towerCmd false 0).next < (towerCmd false 0).count ∧ s.behindEarlier 0 1 (towerDst (towerCmd false 0)) = false ∧
     isOk (s.towerElem (s.engineHome 0) (towerCmd false 0) 0) = true ∧ (s.towerAhead (s.engineHome 0) (towerCmd false 0)).isNone = true ∧
     isOk (s.towerElem (s.engineHome 0) { towerCmd false 0 with base := 0x40000000 } 0) = false) ∧
    (∀ x ∈ [((0 : Byte), false), (255, true)],
     let s := scattering x.1
     let h := s.engineHome 0
     s.behindEarlier 0 1 (towerDst (towerCmd true 0)) = false ∧
     (match s.towerRead h (towerCmd true 0) 0 with
      | .ok (_, idx, _) => (idx == skipIndex) == x.2
      | .error _ => false) = true ∧
     s.behindGlobal h 0 1 ((towerCmd true 0).globalEnd 0) 4 = false ∧ s.heldWords h ((towerCmd true 0).globalEnd 0) 4 = [] ∧ isOk (s.towerElem h (towerCmd true 0) 0) = true) ∧
    (∀ x ∈ [((0 : Byte), (0 : Nat)), (255, skipIndex)],
     let s : State := { banked id with sram := ssetMany [] 1024 (List.replicate 4 x.1) }
     let h := s.engineHome 0
     let c := { towerCmd false 0 with listSp := true, list := 1024 }
     c.got = [] ∧ s.sramAllowed h.ctx h.team h.cluster 1024 false = true ∧ s.sramPoisoned h.cluster 1024 4 = false ∧ s.sramBytes h.cluster 1024 4 = x.2 ∧
     (match s.locate h.asid (va57 (c.globalEnd 0).addr) false with
      | .ok y => y.attr.device.isNone
      | .error _ => false) = true ∧ isOk (s.engineRead h 7 (c.globalEnd 0) 4) = true) ∧
    (towerCmd true 1).count ≤ (towerCmd true 1).next ∧ (towerCmd true 1).ctime = 0 ∧ (banked id).team? 0 = some bankTeam ∧
    -- a batch that has landed, and one that has not
    { banked id with batches := [batch none] }.landed 0 (batch none) = true ∧
    { banked id with batches := [batch (some (false, 1024))], copies := [copyCmd (.zero 1024 16)] }.landed 0 (batch (some (false, 1024))) = false ∧ (batch none).id / 2 ^ 32 = 0 ∧
    (batch none).closed = true ∧ (banked id).signals = [] ∧
    (banked id).spills 0 = false ∧ { banked id with copies := [{ copyCmd (.zero 1024 16) with entries := 257 }] }.spills 0 = true ∧
    ((banked id).spillPage { wordContext 0 0 with entry := { (wordContext 0 0).entry with spillBase := 0x40000000 } } 0).isSome = true ∧
    -- the commands of the matrix engine
    (∀ k ∈ [MatrixKind.zero, .load 1024 256 2, .store 1024 256 1 0 false, .hadamard 1024 256 1 16 16 0],
      ({ bankTeam with queue := [mcmd k] } : Team).matrixHead = some (mcmd k) ∧ (banked id).engineRuns { bankTeam with queue := [mcmd k] } (mcmd k) = true ∧ (mcmd k).done = false) ∧
    (∀ c ∈ [mstep [] [], mstep [1, 2] [], mstep [1, 2, 3] [], mstep [1, 2, 3] [1200]],
      ({ bankTeam with queue := [c] } : Team).matrixHead = some c ∧ (banked id).engineRuns { bankTeam with queue := [c] } c = true) ∧
    (let rs := stepRanges (mfmt 0x55) (mstep [] []) (.regs [[]] []) 1024 0
     let left (c : MatrixCmd) := (banksOf (rs.1 ++ [rs.2])).filter fun i => !(c.seen.any fun x => x.1 == i)
     2 ≤ (left (mstep [] [])).length ∧ (left (mstep [1, 2] [])).length ≤ 1 ∧ (mstep [1, 2, 3] []).stepPoison rs.1 rs.2 = none ∧
     (mstep [1, 2, 3] [1200]).stepPoison rs.1 rs.2 = some 1200) ∧
    (storeElems (mcmd (.store 1024 256 1 0 false)) [] 1024 256 1 0 false).1 ≠ [] ∧ ({ mcmd .zero with outs := [(1024, 4, 0)] } : MatrixCmd).outs ≠ [] ∧
    { banked id with poisonSram := [300] }.firstPoison 0 [(1024, 256)] ≠ none ∧ (banked id).firstPoison 0 [(1024, 64)] = none ∧
    (banked id).firstPoison 0 ((List.range 2).map fun i => (1024 + i * (256 : W64).toNat, 256)) = none ∧ swf bankTeam.acc = true ∧
    ({ mcmd .zero with finished := true } : MatrixCmd).done = true ∧ bankTeam.terminated = false ∧ bankTeam.life = .running := by
  and_intros <;> decide +kernel

/-- A context with queue 0 of one record, and grids of the bench. -/
def fullHeader : List Byte := [1] ++ List.replicate 7 0 ++ [1] ++ List.replicate 15 0 ++ [4, 0, 0, 0, 0, 1] ++ List.replicate 34 0

def grid0 : Grid := { wordGrid 0 0 2 CodeImage.empty with phase := .waiting, placed := 0 }

def dispatching (header : List Byte) (g : Grid) : State := { launchBench id header with grids := [g], teams := [], units := [] }

theorem witness_DispatcherSteps :
    (let s := dispatching fullHeader grid0
     s.ctx? 0 = some queueCtx ∧ nth? queueCtx.queueValid 0 = some false ∧ queueCtx.queueVa 0 ≠ 0 ∧ queueCtx.queueVa 1 = 0 ∧ queueCtx.phase = .running ∧ queueCtx.enabled = true ∧
     (s.liveGrids 0).length < 64 ∧
     (match s.readQueue 0 0x3000 with
      | .ok (s1, x) => x.valid && x.enable && x.tail != x.head && (match s1.sysReadBlocks 0 (slotVa 0x3000 x.count x.head) 4 with
        | .ok (s2, bs) =>
          let r := launchRecord bs
          let j := s2.judgeRecord 0 r.1 r.2
          j.2.2.2.isSome && !s2.protocolBroken 0 x (slotVa 0x3000 x.count x.head) && !j.1.regionBusy 0 (0x3000 + 16) 8 && isOk (j.1.sysWrite 0 (0x3000 + 16) 8 1 0)
        | .error _ => false)
      | .error _ => false) = true) ∧
    (match (dispatching queueHeader grid0).readQueue 0 0x3000 with
      | .ok (_, x) => x.valid && x.enable && x.tail == x.head
      | .error _ => false) = true ∧
    -- a grid that starts, one that launches nothing, one behind a conflicting grid
    (let s := dispatching fullHeader grid0
     nth? s.grids 0 = some grid0 ∧ grid0.phase = .waiting ∧ s.completionBusy grid0 = false ∧ grid0.invalid = none ∧ grid0.desc = some (wordDesc 2) ∧ grid0.record.total = 1 ∧
     isOk (s.sysReadBytes 0 0 0) = true ∧ isOk (s.sysReadBytes 0 0x40000000 16) = false ∧ (∀ x ∈ s.grids, ¬ (x.order < 0)) ∧ gridsConflict grid0 grid0 = true) ∧
    ({ wordRecord with tx := 0 } : LaunchRecord).total = 0 ∧
    -- a team that is placed, then started, then gone
    (let g := { grid0 with phase := .started }
     let s := dispatching fullHeader g
     s.placing g = true ∧ s.blockedBy g = false ∧ (∀ x ∈ s.grids, x.before g = true → s.admissible x = false) ∧ g.coresident = false ∧ (s.placeTeam 0 0 false).isSome = true ∧
     (let c := { g with record := { wordRecord with coresident := true } }
      c.coresident = true ∧ (State.placeAll 0 true 1 { s with grids := [c] }).isSome = true)) ∧
    -- a queue whose tail lies behind its head, and one whose producers broke the protocol
    (let x := qHeader ([1] ++ List.replicate 7 0 ++ [1] ++ List.replicate 7 0 ++ [2] ++ List.replicate 7 0 ++ [4, 0, 0, 0, 0, 1] ++ List.replicate 34 0)
     x.valid = true ∧ x.enable = true ∧ 2 ^ 63 ≤ countDiff x.tail x.head) ∧
    (bench id).protocolBroken 0 (qHeader (List.replicate 8 0 ++ [1] ++ List.replicate 15 0 ++ [4, 0, 0, 0, 0, 1] ++ List.replicate 34 0)) 0x3040 = true ∧
    -- a grid of the same queue ahead that has finished, and whose team has exited
    (let g := { grid0 with order := 1 }
     let s : State := { dispatching fullHeader g with grids := [{ grid0 with phase := .finished, wct := 7 }, g], teams := [{ wordTeam 0 0 2 with life := .exited }] }
     nth? s.grids 1 = some g ∧ (∀ x ∈ s.grids, x.order < 1 → x.phase = .finished ∧ ∀ t ∈ s.teams, t.grid = x.order → t.life = .exited) ∧ s.completionBusy g = false) ∧
    (let s := { bench id with teams := [{ wordTeam 0 0 2 with life := .placed }], units := [] }
     s.team? 0 = some { wordTeam 0 0 2 with life := .placed } ∧ (nth? s.grids 0).isSome = true ∧
     (wordDesc 2).roles = [⟨0, 0, 0⟩, ⟨0, 0, 0⟩, ⟨1, 32, 128⟩]) ∧
    (let s := bench fun u => { u with live := false }
     s.hasExited 0 (wordTeam 0 0 2) = true ∧ s.banksQuiet 0 (wordTeam 0 0 2) = true ∧ (s.grids.head?).elim true (fun g => s.completionBusy g) = false ∧ (bench id).hasExited 0 (wordTeam 0 0 2) = false) := by
  decide +kernel

/-- A co-resident grid is placed whole, whatever the free choices are. -/
theorem witness_PlaceGrid :
    let g := { grid0 with phase := .started, record := { wordRecord with coresident := true } }
    (({ dispatching fullHeader g with grids := [g] } : State).placeGrid g).isSome = true := by
  intro g
  unfold State.placeGrid
  split
  · rfl
  · show (State.placeAll 0 true 1 _).isSome = true
    decide +kernel

/-- The bench with its context in another state. -/
def inPhase (p : CtxPhase) (t : Team) (f : Machine.Unit → Machine.Unit) : State :=
  { bench f with contexts := [{ wordContext 0 0 with phase := p, saveBase := 0x8000, deadline := 50 }], teams := [t], now := 2000000, doorbells := [⟨0, 0x8000, 0x100000, 0, []⟩] }

def gatedTeam : Team := { bankTeam with life := .gated, banks := [] }

def restoring (gated : Bool) : State :=
  { inPhase .running gatedTeam id with saved := [{ image with gated := gated }] }

def stalledUnit (u : Machine.Unit) : Machine.Unit := { u with wait := .barrier 1024 }

/-- A context entry in the towers: its root table, and times that are not zero. -/
def entryBytes : List Byte := List.replicate 8 0 ++ [5] ++ List.replicate 175 0 ++ [1, 0, 0, 0, 1, 0, 0, 0] ++ List.replicate 64 0

def unregistered : State := { bench id with contexts := [], mem := ssetMany [] 0x9000 entryBytes }

theorem witness_ContextEvents :
    (let s := inPhase .saving bankTeam id
     s.team? 0 = some bankTeam ∧ (s.ctx? 0).map (fun c => c.phase) = some .saving ∧ s.atSavePoint 0 bankTeam = true ∧ bankTeam.holds 1024 = true ∧ bankTeam.liveAlloc = true ∧
     50 ≤ s.now) ∧
    (inPhase .saving bankTeam fun u => { u with ops := [⟨1, .ld, false⟩] }).atSavePoint 0 bankTeam = false ∧
    (∀ g ∈ [true, false], (restoring g).saved.find? (fun x => x.team == 0) = some { image with gated := g } ∧ (restoring g).roomToRestore { image with gated := g } = true ∧
      (restoring g).team? 0 = some gatedTeam) ∧
    -- a gated team of a context that saves
    (let s := { inPhase .saving gatedTeam id with saved := [{ image with gated := true }] }
     s.team? 0 = some gatedTeam ∧ gatedTeam.terminated = false ∧ s.saved.find? (fun x => x.team == 0) = some { image with gated := true }) ∧
    image.cluster = clusterOf image.record.core ∧ (∀ b ∈ image.record.banks, b.idx < 1024) ∧ (∀ x ∈ image.sram, image.record.holds x.1 = true) ∧
    (inPhase .running bankTeam stalledUnit).stalled 0 bankTeam = true ∧ (inPhase .running bankTeam id).stalled 0 bankTeam = false ∧
    ({ bankTeam with stallSince := some (0, 0) } : Team).stallSince = some (0, 0) ∧ 0 + (wordContext 0 0).entry.prelim * 1000 ≤ 2000000 ∧
    -- a core that can be power-gated: its one team waits
    (∀ y ∈ (inPhase .running bankTeam stalledUnit).teamUnits 0, y.2.live = false ∨ y.2.wait.stalls = true) ∧
    (inPhase .running bankTeam stalledUnit).atSavePoint 0 bankTeam = true ∧
    -- registration: a legal entry, and an illegal one
    unregistered.ctx? 5 = none ∧ (ctxEntry ((List.range 256).map fun i => unregistered.newestByte (0x9000 + i))).2 = true ∧
    unregistered.ctxOfAsid (ctxEntry ((List.range 256).map fun i => unregistered.newestByte (0x9000 + i))).1.asid = none ∧
    (ctxEntry ((List.range 256).map fun i => unregistered.newestByte (0xA000 + i))).2 = false ∧
    -- the commands of a registered context
    ((inPhase .running bankTeam id).doorbell 0).saveArea.toNat % 4096 = 0 ∧ (inPhase .running bankTeam id).saveSize 0 ≤ ((inPhase .running bankTeam id).doorbell 0).saveSize.toNat ∧
    0 < (inPhase .running bankTeam id).saveSize 0 ∧ ((inPhase .saved bankTeam id).doorbell 0).saveArea = 0x8000 ∧ (inPhase .killed bankTeam id).phase = .running ∧
    (inPhase .killed bankTeam id).translatedIn 0 0 (2 ^ 57) = false ∧ (inPhase .running bankTeam id).now < 2000000 + 1 ∧ { inPhase .killed bankTeam id with teams := [], units := [] }.translatedIn 0 0 (2 ^ 57) = false ∧
    commandLegal 8 = false ∧ commandLegal 1 = true ∧
    -- a fault that awaits its response
    (let c := { wordContext 0 0 with awaiting := [(3, 0)] }
     c.awaiting.find? (fun a => a.1 == 3) = some (3, 0) ∧ (∀ a ∈ c.awaiting, a.1 ≠ 4) ∧ c.phase ≠ .saving) ∧
    (front (bench fun u => { u with wait := .parked 3 0x2000 1 })).wait = .parked 3 0x2000 1 := by
  decide +kernel

theorem witness_HostAndModule : (bench id).phase = .running ∧ 0 < 128 ∧ 0 % 128 + 128 ≤ 128 ∧ (towerEnd - 128) + 128 ≤ towerEnd ∧ 128 < 1 % 128 + 128 ∧
    (bench id).directory 0x2000 = none ∧ (bench id).hostHeld 0x2000 128 = false ∧ { bench id with versions := [⟨0, 0x800, 7, 0, 0x2000, (plain 0).attr, 0⟩] }.hostHeld 0x2000 128 = true ∧
    (bench id).sealedFrame 0x2000 = false ∧
    { bench id with contexts := [{ wordContext 0 0 with sealed := [(0x2000, 128)], marks := [(0x2000, 0, 0)] }] }.sealedFrame 0x2000 = true ∧ (bench id).sealedDrops ≠ BitVec.allOnes 64 ∧
    nth? (bench id).windows 15 = some HostWindow.reset ∧ (bench id).windowBusy 0 = false ∧ (hostWindowed .store).windowBusy 0 = false ∧
    { hostWindowed .store with windows := { HostWindow.reset with since := 2 } :: List.replicate 15 HostWindow.reset }.windowBusy 0 = true ∧
    (0x20000 + 64 * 255 + 0x18) % 8 = 0 ∧ (0x30FF8 % 8 = 0 ∧ 0x30000 ≤ 0x30FF8 ∧ 0x30FF8 < 0x31000) ∧ ((0xFFF8 : Nat) < 0x10000 ∧ 0xFFF8 % 8 = 0) ∧
    (∀ b ∈ [true, false], ({ signed := b, allow := [], master := 0 } : LinkPolicy).signed = b) ∧ 15 < 16 ∧
    (bench id).phase ≠ .stopped ∧ (List.replicate 31 (0 : Byte)).length ≠ 32 ∧ (List.replicate 32 (0 : Byte)).length = 32 ∧ 63 < 64 := by
  decide +kernel

/-- A linked device: port 0 is up. -/
def port0 : Port := { Port.reset with up := true, peer := 1, held := 64 }

def linked (p : Port) : State := { bench id with ports := p :: List.replicate 11 Port.reset, linkWindows := [⟨0x2000, 4096, 0, 0, 0x2000, true, true, [1]⟩] }

/-- A message of a linked device for a ring at 0x2000. -/
def ringReq : RemoteReq := { dev := 1, pa := 0x2000, size := 16, kind := 3, op := 0, ety := 0, data := 0, data2 := 0, floor := 0, message := List.replicate 16 1 }

def ringMsg : Msg :=
  { src := 0, pc := 0, seq := 0, lane := 0, ctx := 0, cluster := 0, dest := some 0, va := 0x2000, sram := 0, bytes := List.replicate 16 1, floor := 0, tries := 0, sent := true, phase := .flying }

def ringed (bs : List Byte) : State := { linked port0 with mem := ssetMany (linked port0).mem 0x2000 bs }

def remote (kind : Nat) : RemoteReq :=
  { dev := 1, pa := 0x2000, size := 4, kind := kind, op := 0, ety := 0, data := 5, data2 := 0, floor := 0 }

theorem witness_ErrorsAndLinks :
    -- where errors strike
    (bench id).unit? 0 = some (front (bench id)) ∧ (wordTeam 0 0 2).liveAlloc = true ∧ (wordTeam 0 0 2).terminated = false ∧ (banked id).bankAt 0 2048 = some (0, .fifo) ∧
    BankMode.fifo ≠ .cache ∧ (cached true).l1Line? 0 0 64 = some (l1Line true) ∧ (l1Line true).dirty.getLsbD 1 = true ∧ (l1Line true).dirty.getLsbD 31 = false ∧
    (cached false).l2Line? 0 64 = some l2Line ∧ l2Line.dirty.getLsbD 0 = true ∧ l2Line.dirty.getLsbD 31 = false ∧ (l2Line.pa + 4 * 31) / 32 ∉ (cached false).poisonMem ∧
    -- repairs
    15 ∉ (bench id).vacated ∧ 15 ∈ ({ bench id with vacated := [15] } : State).vacated ∧ ((bench id).retiredChannels.filter fun x => x == 15).length < 63 ∧
    ((bench id).spareClusters.filter fun x => x / 32 == 0).length < 2 ∧ 2 ≤ (({ bench id with spareClusters := [3, 4] } : State).spareClusters.filter fun x => x / 32 == 0).length ∧
    (bench id).atSavePoint 0 (wordTeam 0 0 2) = true ∧ (∀ y ∈ (bench id).teamUnits 0, y.2.region = none) ∧
    -- flits of each kind, good and bad
    nth? (linked port0).ports 0 = some port0 ∧ (linked port0).outbox = [] ∧
    (∀ k ∈ [1, 2, 3, 4, 5], flitOk (port0.flit 1 6 k (0, 0) 3 []) = true) ∧ flitOk (port0.flit 1 0 0 (1, 1) 64 []) = true ∧ flitOk { port0.flit 1 0 0 (1, 1) 64 [] with crc := 0 } = false ∧
    flitOk (port0.flit 1 0 0 (1, 1) 65 []) = false ∧ (port0.flit 1 0 0 (1, 1) 0 []).seq = port0.ack + 1 ∧ seqUpTo 0 port0.ack = true ∧ port0.asked = false ∧ seqUpTo 5 port0.ack = false ∧
    ({ port0 with asked := true } : Port).asked = true ∧
    ({ port0 with sinceAudit := 4096 } : Port).replay.length < 2048 ∧ port0.sinceAudit < 4096 ∧
    port0.total (port0.flit 1 6 3 (0, 0) 0 [0, 0, 64, 0]) = 64 ∧ port0.total (port0.flit 1 6 3 (0, 0) 0 []) ≠ 64 ∧
    (linked port0).master = (linked port0).deviceId ∧ port0.failed < 16 ∧ 16 ≤ ({ port0 with failed := 16 } : Port).failed ∧
    (bench id).capMap.getLsbD (4 + 0) = true ∧ nth? (bench id).ports 11 = some Port.reset ∧ (bench id).skew ≤ 20 ∧ -20 ≤ (bench id).skew ∧ 20 < ({ bench id with skew := 21 } : State).skew ∧
    -- remote accesses
    (linked port0).outOfStep.contains 1 = false ∧ (linked port0).inStep = true ∧ (∃ p ∈ (linked port0).ports, p.up = true ∧ p.peer = 1) ∧
    (∀ p ∈ (bench id).ports, p.up = true → p.peer ≠ 1) ∧ (linked port0).exportWindow (remote 0) = some ⟨0x2000, 4096, 0, 0, 0x2000, true, true, [1]⟩ ∧
    (linked port0).exportWindow { remote 0 with pa := 0x8000 } = none ∧ isOk ((linked port0).sysRead 0 0x2000 4) = true ∧ (linked port0).regionBusy 0 0x2000 4 = false ∧
    isOk ((linked port0).sysWrite 0 0x2000 4 5 0) = true ∧ requestFormed (remote 0) = true ∧ requestFormed { remote 0 with size := 3 } = false ∧
    (linked port0).exportWindow (remote 1) = some ⟨0x2000, 4096, 0, 0, 0x2000, true, true, [1]⟩ ∧ (linked port0).exportWindow (remote 2) = (linked port0).exportWindow (remote 1) ∧
    requestFormed ringReq = true ∧ (ringed ringBytes).ctx? 0 = some (wordContext 0 0) ∧ ringMsg.dest = some (ringed []).deviceId ∧ ringMsg.bytes = ringReq.message ∧
    (ringed ringBytes).globalRing ringMsg = .ready ring ∧ (ringed ringBytes).ringBusy ringMsg (wordContext 0 0) ring = false ∧
    isOk ((ringed ringBytes).fillSlot ringMsg (wordContext 0 0) ring) = true ∧ (ringed fullRing).globalRing ringMsg = .full ∧ (ringed []).globalRing ringMsg = .invalid ∧
    (ringed ringBytes).exportWindow ringReq = some ⟨0x2000, 4096, 0, 0, 0x2000, true, true, [1]⟩ ∧
    (atomNew 0 2 0 5 0).1 = some 5 ∧ (atomNew 8 2 9 5 9).1 = none ∧ isOk ((linked port0).sysRead 0 0x40000000 4) = false ∧
    { linked port0 with versions := [⟨0, 0x800, 7, 0, 0x2000, (plain 0).attr, 0⟩] }.regionBusy 0 0x2000 4 = true := by
  and_intros <;> decide +kernel

/-! Threads of a fragment, in focus. -/

def thread (s : State) : Machine.Unit :=
  match s.units with
  | _ :: u :: _ => u.landAt u.step
  | _ => front s

/-- The thread of lane 0 of a fragment of lanes `f.lanes`, in focus, changed by `g`. -/
def threadBench (f : FragInfo) (g : Machine.Unit → Machine.Unit) : State :=
  let s := fragBench { f with launched := true } .none
  { s with focus := some 1, units := s.units.map fun u => if u.frag.isSome then g u else u }

/-- A thread that holds register 0 in its cache. -/
def holds0 : FragInfo := { frag with cache := [(0, false)] }

/-- A second thread of the same fragment, of lane 1. -/
def andFellow (w : Wait) (s : State) : State :=
  { s with units := s.units ++ [{ thread s with frag := some { frag with lane := 1, lanes := 3, launched := true }, active := 2, launched := 2, wait := w }] }

def pair (m : W32) (w : Wait) : State :=
  andFellow w (threadBench { holds0 with lanes := 3, cache := [(0, false), (1, false)] } fun u => { u with v := if m = 0 then [] else [(0, m)] })

theorem witness_ExitOfRegionsAndFragments :
    (let s := inRegion none .none
     s.Clear 0 (front s) ((formA64 9 4 z64).shape [] []) ∧ (front s).region = some 7 ∧ (front s).guarded 7 ≠ 0 ∧ (front s).active = (front s).guarded 7 ∧
     (front s).launched &&& ~~~(front s).guarded 7 = 0 ∧ s.deferred = [] ∧ ∃ y ∈ s.regions, y.id = 7 ∧ y.pending = none) ∧
    (let s := threadBench frag id
     s.Clear 1 (thread s) ((formA64 9 4 z64).shape [] []) ∧ (thread s).frag = some { frag with launched := true } ∧ frag.parent ≠ 1 ∧ (s.unit? 0).isSome = true ∧
     (thread s).guarded 7 ≠ 0) :=
  ⟨⟨clear_of (by decide +kernel), by decide +kernel⟩, ⟨clear_at (by decide +kernel), by decide +kernel⟩⟩

/-- A thread whose cache is full, with 32 values on their way to other registers. -/
def crowded : State :=
  threadBench { frag with cache := (List.range 32).map fun r => (r, false) } fun u => { u with win := (List.range 32).map fun r => ⟨.v, 40 + r, [(0, 1)], 99, false⟩ }

theorem witness_RelativeAccessInFragments :
    let sg := (formA64 10 3 { z64 with rb := 5 }).shape [.vec 0 1 0] [(.v, 0)]
    let sp := (formA64 10 4 { z64 with rb := 5 }).shape [.vec 0 1 0, .settled 0] []
    (∀ s ∈ [threadBench holds0 id, threadBench { holds0 with cache := [(0, false), (5, false)] } id, crowded], s.Clear 1 (thread s) sg ∧ s.Clear 1 (thread s) sp) ∧
    (thread (threadBench holds0 id)).frag = some { holds0 with launched := true } ∧ holds0.lane < 64 ∧ (thread (threadBench holds0 id)).guardedLanes 7 = [0] ∧
    -- register 5 is away, or cached; a number out of range; the source itself is crowded out
    (holds0.cache.any fun c => c.1 == 5) = false ∧ sg.pulls (thread (threadBench holds0 id)).landVectors = none ∧
    (5 : Int) + ((threadBench holds0 id).arg32 (thread (threadBench holds0 id)) (.vec 0 1 0) 0).toInt = 5 ∧
    (128 : Int) ≤ 5 + ((threadBench holds0 fun u => { u with v := [(0, 123)] }).arg32 (thread (threadBench holds0 fun u => { u with v := [(0, 123)] })) (.vec 0 1 0) 0).toInt ∧
    sg.pulls ((thread crowded).touchAll sg).landVectors = some 0 ∧ (∀ r ∈ (thread (threadBench holds0 id)).pendingRegs, r.1 ≠ .v) ∧
    (thread (threadBench holds0 fun u => { u with vars := [⟨[⟨.v, 9, [(0, 1)]⟩], 0, 0⟩] })).pendingRegs = [(.v, 9)] ∧ swf (thread (threadBench holds0 id)).landVectors.v = true ∧
    -- a source that is not cached is pulled before the word
    sg.pulls (thread (threadBench frag id)) = some 0 :=
  ⟨by
    intro s h
    simp only [List.mem_cons, List.not_mem_nil, or_false] at h
    rcases h with rfl | rfl | rfl <;> exact ⟨clear_at (by decide +kernel), clear_at (by decide +kernel)⟩,
   by and_intros <;> decide +kernel⟩

theorem witness_ControlRegistersInFragments :
    (∀ sh ∈ [csrShape (formAI 10 1 { zI with imm := 1, rd := 1 }) [] [(.u, 1)], csrShape (formAI 10 2 { zI with imm := 0x012, rd := 1 }) [.uni 1 1] []],
      (bench fun u => { uni 0x100040 0 0 u with inHandler := true, active := 1 }).Clear 0 (front (bench fun u => { uni 0x100040 0 0 u with inHandler := true, active := 1 })) sh) ∧
    (let s := threadBench frag fun u => { u with inHandler := true }
     ∀ sh ∈ [csrShape (formAI 10 1 { zI with imm := 1, rd := 1 }) [] [(.u, 1)], csrShape (formAI 10 2 { zI with imm := 0x012, rd := 1 }) [.uni 1 1] []],
      clearAt s 1 (thread s) sh = true ∧ (s.unit? 0).isSome = true) ∧
    0x012 ∈ csrNumbersRW ∧ CsrTakes 0x012 0x100040 ∧ ¬ CsrTakes 0x012 1 ∧ ¬ CsrTakes 2 5 ∧ 0x0F0 ∈ csrNumbers ∧ 0xFFF ∉ csrNumbers ∧ 0x0F0 ∉ csrNumbersRW ∧
    (front (bench fun u => { u with vars := [⟨[], 1, 0⟩] })).flagsPending = true :=
  ⟨clear_all (by decide +kernel), by decide +kernel, by decide, by unfold CsrTakes; decide, by unfold CsrTakes; decide, by unfold CsrTakes; decide, by decide, by decide, by decide,
   by decide +kernel⟩

theorem witness_MeetingOfThreads :
    let sh := (formA64 12 5 { z64 with rd := 4 }).shape [.vec 0 1 0] [(.v, 4)]
    -- the other thread is on its way, waits at the same word, waits at another
    (∀ s ∈ [pair 0 .none, pair 0 .rendezvous, { pair 0 .rendezvous with units := (pair 0 .rendezvous).units.map fun u => if u.wait = .rendezvous then { u with pc := 0x100010 } else u }],
      s.Clear 1 (thread s) sh ∧ (thread s).frag.isSome = true ∧ s.abortPending (thread s) = false) ∧
    (let met (w : Wait) (pc : BitVec 57) : List (Bool × BitVec 57) :=
      let s := pair 0 w
      let s1 := s.setUnit 1 { (thread s).touchAll sh with wait := .rendezvous }
      (s1.fragThreads { holds0 with lanes := 3 }).map fun y => (y.2.wait == .rendezvous, if y.1 = 1 then y.2.pc else pc)
     met .none 0x100000 = [(true, 0x100000), (false, 0x100000)] ∧ met .rendezvous 0x100000 = [(true, 0x100000), (true, 0x100000)] ∧
     met .rendezvous 0x100010 = [(true, 0x100000), (true, 0x100010)]) ∧
    ([0x3F800000, 0xBF800000] : List W32) ≠ [] ∧ 5 ≤ 5 :=
  ⟨by
    intro s h
    simp only [List.mem_cons, List.not_mem_nil, or_false] at h
    rcases h with rfl | rfl | rfl <;> exact ⟨clear_at (by decide +kernel), by decide +kernel⟩,
   by decide +kernel⟩

theorem witness_SynchronisationOfThreads :
    let sh := (formA64 12 8 z64).shape [.vec 0 2 0] []
    -- a mask of both lanes: the fellow has not come, has come with the same mask, or with another one; a mask outside the fragment
    (∀ s ∈ [pair 3 .none, pair 3 (.lsync 3 0), pair 3 (.lsync 1 0), pair 4 .none], s.Clear 1 (thread s) sh ∧ (thread s).frag.isSome = true) ∧
    (pair 3 .none).arg64 ((thread (pair 3 .none)).touchAll sh) (.vec 0 2 0) 0 = 3 ∧ (pair 4 .none).arg64 ((thread (pair 4 .none)).touchAll sh) (.vec 0 2 0) 0 = 4 ∧ (thread (pair 3 .none)).guardedLanes 7 = [0] ∧
    (thread (pair 3 .none)).guardedLanes 0 = [] ∧ (3 : W64) &&& ~~~3 = 0 ∧ (4 : W64) &&& ~~~3 ≠ 0 ∧ (1 : W64) ≠ 3 ∧ (3 : W64) &&& 1 ≠ 0 ∧
    (pair 3 (.lsync 3 0)).abortPending (thread (pair 3 (.lsync 3 0))) = false ∧ (∀ u ∈ (pair 3 (.lsync 3 0)).units, u.spq = []) ∧
    -- a thread that waits keeps its mask
    (thread (threadBench { holds0 with lanes := 3 } fun u => { u with wait := .lsync 3 0 })).wait = .lsync 3 0 :=
  ⟨by
    intro s h
    simp only [List.mem_cons, List.not_mem_nil, or_false] at h
    rcases h with rfl | rfl | rfl | rfl <;> exact ⟨clear_at (by decide +kernel), by decide +kernel⟩,
   by and_intros <;> decide +kernel⟩

theorem witness_AtomOperations : (∀ ety ∈ [2, 6, 3, 7], ety ∈ [(2 : Nat), 3, 6, 7]) ∧ (0xFFFFFFFF : BitVec 128).toNat < 2 ^ 32 ∧ (0xFFFFFFFFFFFFFFFF : BitVec 128).toNat < 2 ^ 64 ∧
    10 ∈ [(10 : Nat), 11] ∧ 8 ∈ [(8 : Nat), 9] := by decide

/-! A linked device, on which the second GiB of the context's addresses stands. -/

def distant (s : State) : State :=
  { s with
    mem := ssetMany s.mem (leafTable + 16) (bytesOf 16 (leafEntry + 2 ^ 15 + 2 ^ 52)), linkAllow := [(0, [1])]
    ports := { Port.reset with up := true, peer := 1, held := 64 } :: List.replicate 11 Port.reset }

/-- Address 0x40000000 on device 1. -/
def away : Xlate := { plain 0 with pa := 0, va := 0x40000000, attr := { (plain 0).attr with device := some 1 } }

theorem witness_LaunchCommandsBeyond :
    let push : Shape := (formA64 22 0 { z64 with ra := 1, rd := 4 }).shape [.uni 1 1] [(.u, 4)]
    let p : Push := ⟨0, 3, 0x77, false, 0, 0x3040, 0, false, 4, 0⟩
    -- a record in global memory
    (let s := launchBench (fun u => { uni 0x2000 0 0 u with wait := .lqPush, push := some p }) queueHeader
     let u := front s
     let a := pushLane u (0x2000 + 24) (plain 0x2018) 0
     s.Clear 0 u push ∧ u.push = some p ∧ (0x2000 : W64).toNat % 64 = 0 ∧
     (match s.checkGlobal u.plain (pushAccess 16 false) ((List.range 4).map fun i => (i, 0x2000 + BitVec.ofNat 64 (16 * i))) with
      | .ok _ => true
      | _ => false) = true ∧
     s.place u (pushAccess 8 false) (0x2000 + 24) = .ok (plain 0x2018) ∧ s.fresh.pushBehind 0 u (pushAccess 8 false) a = false ∧ (s.fresh.pushPart 0 u (pushAccess 8 false) a).isSome = true ∧
     (s.unit? 0).isSome = true) ∧
    -- a queue on another device that the home does not refuse: its header, its claim and its tail
    (let s := distant (launchBench (fun u => { uni 1024 0 0 u with wait := .lqPush, push := some { p with parts := 8 } }) queueHeader)
     s.locate 0 0x40000000 false = .ok away ∧ s.locate 0 0x40000000 true = .ok away ∧ away.attr.device = some 1 ∧ s.poisoned away 64 = false ∧ s.sealedAt 0 0x40000000 away = false ∧
     s.homeBusy 0 (front s) away 64 = false ∧ (s.readHeader 0 (front s) away).1.inRegionSet away.asid away.va 8 = false) ∧
    (let o : Outgoing := { dest := 1, req := { dev := 0, pa := 0, kind := 1, size := 8, op := 0, ety := 0, data := 1, data2 := 0, floor := 0 }, lane := some (0, 2 ^ 64, 0) }
     [o].any (fun o => o.lane == some (0, 2 ^ 64, 0)) = true) ∧
    (([] : List Outgoing).any fun o => o.lane == some (0, 2 ^ 64, 0)) = false ∧ ({ p with asked := true } : Push).asked = true ∧ ({ p with stores := 9 } : Push).stores ≠ 8 :=
  ⟨⟨clear_of (by decide +kernel), by and_intros <;> decide +kernel⟩, by and_intros <;> decide +kernel, by decide, by decide, by decide, by decide⟩

/-! Boundary states of the steps of engines, queues, links and the host. -/

theorem witness_StepItems :
    { bench id with agenda := [.register 0x20] }.agenda = [.register 0x20] ∧ { bench id with agenda := [.command 255] }.agenda = [.command 255] ∧
    { bench id with agenda := [.exportWindow ⟨0x2000, 4096, 0, 0, 0x2000, true, true, [1]⟩] }.agenda = [.exportWindow ⟨0x2000, 4096, 0, 0, 0x2000, true, true, [1]⟩] ∧
    -- a unit that is parked, and two threads that issue one word
    (let s := bench fun u => { u with wait := .parked unposted 0x2000 1 }
     s.able (front s) = true ∧ (front s).active ≠ 0 ∧ (front s).wait = .parked unposted 0x2000 1) ∧
    2 ≤ ((pair 0 .none).together (thread (pair 0 .none))).length ∧
    (bench id).inStep = true ∧ (bench id).ref ≤ (bench id).now + 18 ∧ { bench id with inStep := false }.inStep = false := by
  and_intros <;> decide +kernel

/-- An access of one lane that L1 has no part in, or has one in. -/
def slices (k : ReqKind) (rtype size : Nat) : State := returning { req k 0 { lane false with result := 0, wrote := false } with rtype := rtype, size := size }

theorem witness_SliceParts :
    (∀ n ∈ [1, 2, 4, 8, 16], (∀ k ∈ [ReqKind.store, .load true], ∀ c ∈ [0, 1, 2, 3],
      let s := slices k c n
      let q : Req := { req k 0 { lane false with result := 0, wrote := false } with rtype := c, size := n }
      let l : LaneReq := { lane false with result := 0, wrote := false }
      nth? (front s).reqs 0 = some q ∧ nth? q.lanes 0 = some l ∧ s.uncached l.xlate = false ∧ s.olderPending 0 (front s) q l = false ∧ l.va % min q.size 8 = 0 ∧
      s.l2Line? l.asid (l.va / 128) = some l2Line ∧ s.inRegionSet l.asid l.va 8 = false ∧ s.useL1 0 l = true ∧ s.l1Line? 0 l.asid (l.va / 128) = none ∧
      s.sealedLine l.asid (l.va / 128) = false)) ∧
    (slices .store 1 4).useL1 0 { lane false with shared := true } = false ∧
    -- a copy in L1 that serves a load
    (let s : State := { slices (.load true) 0 4 with l1 := [l1Line true] }
     s.recalls = [] ∧ s.l1Hit 0 { req (.load true) 0 (lane false) with rtype := 0 } (lane false) = some (l1Line true)) ∧
    -- atomics of four and of eight bytes
    (req .atom 0 (lane false)).size = atomSize 2 ∧ ({ req .red 0 (lane false) with size := 8, ety := 3 } : Req).size = atomSize 3 ∧
    (slices .atom 2 4).sliceByte 0 0x2000 = 7 ∧ (7 : BitVec 128).toNat < 2 ^ 32 ∧ (∀ k < 4, (7 : BitVec 128).extractLsb' (8 * k) 8 = (slices .atom 2 4).sliceByte 0 (0x2000 + k)) ∧
    (atomNew 0 2 7 9 0).1 = some 16 ∧ (atomNew 8 2 7 9 7).1 = none ∧
    -- an atomic through a host window
    (∀ k ∈ [ReqKind.atom, .red], (hostWindowed k).olderPending 0 (front (hostWindowed k)) (req k 0 hostLane) hostLane = false ∧ (hostWindowed k).teamEnded (front (hostWindowed k)) = false ∧
      nth? (front (hostWindowed k)).reqs 0 = some (req k 0 hostLane) ∧ (hostWindowed k).inRegionSet 0 0x2000 4 = false) ∧ (req .atom 0 hostLane).size = atomSize 2 ∧
    ({ hostLane with wrote := false } : LaneReq).wrote = false ∧
    -- a uniform result for a fragment that waits for it
    nth? ({ front (bench id) with vars := [⟨[⟨.u, 4, [(0, 6)]⟩], 0, 0⟩] } : Machine.Unit).vars 0 = some ⟨[⟨.u, 4, [(0, 6)]⟩], 0, 0⟩ ∧
    (fragBench { frag with late := [4] } .none).units.map (fun u => (u.frag.map fun f => (f.parent, f.late), swf u.u)) = [(none, true), (some (0, [4]), true)] := by
  and_intros <;> decide +kernel

/-- A subscriber's updates of several bytes, of a team that runs and of one that is saved. -/
def imaged (ks : List SignalKind) : State :=
  { signalled ks with teams := [{ bankTeam with life := .saved, banks := [] }], saved := [image] }

theorem witness_ImagesOfSignals :
    (∀ k ∈ [SignalKind.arrive 1, .toggle, .advance 1 0 0 none], (imaged [k]).updatesAhead 0 0 = false ∧ (imaged [k]).messageAhead 0 (signal k) = false ∧
      (imaged [k]).advanceAhead 0 (signal k) = false ∧ (imaged [k]).resolve 0 0 1024 8 = .image 0 ∧ nth? (imaged [k]).saved 0 = some image) ∧ swf image.sram = true ∧
    (let bs : List (Nat × Byte) := [(1024, 1), (1031, 2)]
     (∀ b ∈ bs, (signalled [.update 0 3 bs]).resolveFor 0 0 b.1 = .live 0) ∧ (∀ b ∈ bs, (imaged [.update 0 3 bs]).resolveFor 0 0 b.1 = .image 0) ∧
     (imaged [.update 0 3 bs]).resolve 0 0 1024 8 = .image 0 ∧ (imaged [.update 0 3 bs]).subs.find? (fun y => y.core == 0 && y.sid == 3 && !y.lost) = some ⟨0, 3, 0, 1024, 128, 0, 3072, 0, false⟩) ∧
    (signalled [.update 0 4 []]).subs.find? (fun y => y.core == 0 && y.sid == 4 && !y.lost) = none ∧
    (∃ h ∈ (signalled [.update 0 3 [], .update 0 3 [(1024, 1)]]).signals.take 1, h.team = 0 ∧ h.kind = .update 0 3 []) ∧
    (signalled []).resolve 1 0 1024 8 = .gone ∧ (signal .toggle).target.getLsbD 27 = false := by
  and_intros <;> decide +kernel

/-- A line of a context that is pinned when its page is shot down. -/
def pinnedLine : L2Line := { l2Line with pin := 1000 }

theorem witness_PinnedShootdown :
    let s : State := { cached false with l2 := [pinnedLine], recalls := [], l1 := [] }
    s.translatedIn 0 (va57 0x2000) 128 = false ∧ s.deferred = [] ∧ s.versions = [] ∧
    (s.l2.filter fun x => x.asid == 0 && lineIn (va57 0x2000) 128 x.line) = [pinnedLine] ∧ s.pinned pinnedLine = true ∧ s.ctx? pinnedLine.pinCtx = some (wordContext 0 0) := by
  intro s
  have h := (State.clock_near (s := s) (by decide +kernel) (sliceClock pinnedLine.home)).2
  have n : s.now = 0 := by decide +kernel
  refine ⟨by decide +kernel, by decide +kernel, by decide +kernel, by decide +kernel, ?_, by decide +kernel⟩
  simp only [State.pinned, Bool.and_eq_true, decide_eq_true_eq]
  exact ⟨by decide, by rw [n] at h; exact Nat.le_trans h (by decide)⟩

/-- A message for the ring of a header in global memory, and one for a device's. -/
def agentMsg (dev : Nat) : Msg := { ringMsg with dest := some dev, sent := false }

def agent (bs : List Byte) : State := { ringed bs with msgs := [agentMsg 0] }

theorem witness_ThreadsAndAgents :
    -- a thread that cannot start yet, one that pulls beside a thread of its fragment, and the join
    (let s := fragBench { frag with step := 1 } .none
     ∃ v ∈ ({ front s with vars := [⟨[⟨.v, 9, [(0, 1)]⟩], 0, 0⟩] } : Machine.Unit).vars, v.step < 1) ∧
    (let s := fragBench { frag with since := 2 } .none
     ∃ r ∈ ({ front s with reqs := [req (.load true) 1 (lane false)] } : Machine.Unit).reqs, r.seq < 2 ∧ r.span ≠ 0) ∧
    (let s := andFellow .none (threadBench { frag with lanes := 3 } fun u => { u with wait := .pull 5 })
     (thread s).wait = .pull 5 ∧ (thread s).live = true ∧ (s.unit? 2).isSome = true ∧ (s.units.all fun u => swf u.v) = true ∧ ((s.unit? 2).elim false fun x => x.inFragment 0 0) = true ∧
     frag.joined = false ∧ frag.exited = false) ∧
    (let s := fragBench { frag with joined := true, counted := true } .none
     (front s).levels = [⟨0x100040, 3, .exported 0 1 [] false⟩] ∧ (∃ x ∈ s.units, x.inFragment 0 0 = true) ∧
     ∀ x ∈ s.units, x.inFragment 0 0 = true → x.vars = [] ∧ x.reqs = [] ∧ x.spq = [] ∧ x.frag = some { frag with joined := true, counted := true }) ∧
    ({ frag with exited := true } : FragInfo).exited = true ∧
    -- a ring agent: a slot is free, none is, the header's page faults
    nth? (agent ringBytes).msgs 0 = some (agentMsg 0) ∧ (agentMsg 0).dest = some (agent []).deviceId ∧ (agent ringBytes).msgBehind 0 (agentMsg 0) = false ∧
    (agent ringBytes).ctx? 0 = some (wordContext 0 0) ∧ (agent ringBytes).globalRing (agentMsg 0) = .ready ring ∧ (agent fullRing).globalRing (agentMsg 0) = .full ∧
    (agent ringBytes).ringBusy (agentMsg 0) (wordContext 0 0) ring = false ∧
    (match (agent ringBytes).writePieces 0 0 ring.slot ((agentMsg 0).target + 16) (List.replicate 16 1) with
      | .ok s1 => isOk (s1.sysWrite 0 ((agentMsg 0).target + 4) 4 2 0)
      | .error _ => false) = true ∧
    (match (agent ringBytes).writePieces 0 0 ring.slot 0x40000000 (List.replicate 16 1) with
      | .ok _ => false
      | .error e => e.1 == 0 && e.2 == 0x40000000) = true ∧
    ({ agentMsg 0 with phase := .refused } : Msg).phase ≠ .flying ∧ { agent [] with msgs := [agentMsg 0, agentMsg 0] }.msgBehind 1 (agentMsg 0) = true ∧
    (∀ x ∈ [agentMsg 0], x.tries = 0) ∧
    -- a message for another device, which can be reached or cannot
    (let s : State := { distant (bench id) with msgs := [agentMsg 1] }
     nth? s.msgs 0 = some (agentMsg 1) ∧ 1 ≠ s.deviceId ∧ s.msgBehind 0 (agentMsg 1) = false ∧ s.reachable 0 1 = true ∧ s.reachable 0 2 = false) ∧
    (sent (.backoff 5)).msgs.map (fun m => m.phase) = [.backoff 5] := by
  and_intros <;> decide +kernel

theorem witness_RemoteElements :
    -- an element that lies on another device, before and after its request
    (∀ w ∈ [true, false],
     let c := copyCmd (.lanes [if w then (⟨false, 1024⟩, ⟨true, 0x40000000⟩) else (⟨true, 0x40000000⟩, ⟨false, 1024⟩)])
     let s : State := { distant (banked id) with copies := [c] }
     let h := s.engineHome 0
     nth? s.copies 0 = some c ∧ s.behindEarlier 0 1 (copyDst c.kind c.size) = false ∧ s.elemWaits h c = false ∧ (s.readAhead h c).isNone = true ∧ c.sent = none ∧
     (s.elemRemote h c 0).map (fun x => (x.1, x.2.2)) = some (1, w) ∧ ({ c with sent := some 0 } : CopyCmd).sent = some 0 ∧ s.outbox = []) ∧
    (let o : Outgoing := { dest := 1, req := { dev := 0, pa := 0, kind := 1, size := 16, op := 0, ety := 0, data := 0, data2 := 0, floor := 0 }, lane := some (0, 1, 0) }
     ∃ x ∈ [o], x.lane = some (0, 1, 0)) ∧
    isOk ({ distant (banked id) with sram := [] }.fresh.engineWrite ((banked id).engineHome 0) 6 ⟨false, 1024⟩ 16 5 0) = true ∧
    -- a gather of an element there
    (let s : State := { distant (banked id) with sram := ssetMany [] 1024 (List.replicate 4 0) }
     let c := { towerCmd false 0 with listSp := true, list := 1024, base := 0x40000000 }
     let h := s.engineHome 0
     c.got = [] ∧ s.sramAllowed h.ctx h.team h.cluster 1024 false = true ∧ s.sramPoisoned h.cluster 1024 4 = false ∧ s.sramBytes h.cluster 1024 4 ≠ skipIndex ∧
     canonical (c.globalEnd 0).addr = true ∧ s.locate h.asid (va57 (c.globalEnd 0).addr) false = .ok away ∧ away.attr.device ≠ none) ∧
    -- an element of a scratchpad pair
    (let c := copyCmd (.tile false false 1024 1040 0 0 16 1)
     let s : State := { banked id with copies := [c] }
     c.got = [] ∧ c.elemSize ≤ 16 ∧ s.sramAllowed 0 0 0 1040 true = true ∧ s.inHeader 0 1040 16 = false) := by
  and_intros <;> decide +kernel

/-- A slot of the queue at 0x3000 that a lane of the bench still writes. -/
def writing : State :=
  { launchBench (fun u => { u with reqs := [req .store 0 { lane false with va := 0x3040, pa := 0x3040, data := 9 }] }) queueHeader with grids := [] }

theorem witness_LooseSlots :
    0 < (List.replicate 64 (0 : Byte)).length ∧ writing.comingBytes 0 0x3040 = [9] ∧ (bench id).comingBytes 0 0x3040 = [] ∧ (bench id).comingBytes 0 0x40000000 = [] ∧
    { bench id with deferred := [⟨0, 0x3040, 4, 7, 0, false, none⟩] }.comingBytes 0 0x3041 = [0] ∧
    (let x := qHeader ([1] ++ List.replicate 7 0 ++ [1] ++ List.replicate 15 0 ++ [4, 0, 0, 0, 0, 1] ++ List.replicate 34 0)
     writing.protocolBroken 0 x 0x3040 = true ∧ (bench id).protocolBroken 0 x 0x3040 = false ∧ countDiff x.reserve x.head = 1 ∧ countDiff x.tail x.head = 1) ∧
    -- an argument block that no page holds
    (match (dispatching fullHeader grid0).sysReadBytes 0 0x40000000 16 with
      | .ok _ => 7
      | .error e => e) = 0 := by
  and_intros <;> decide +kernel

/-- A context that is killed, while a unit of another one still accesses its pages. -/
def inFlight : State :=
  { inPhase .killed bankTeam (fun u => { u with reqs := [req .store 0 (lane false)] }) with teams := [{ bankTeam with ctx := 1 }] }

theorem witness_BusySlots :
    (let s : State := { inPhase .running bankTeam id with doorbells := [⟨0, 0x8000, 0x100000, 1, []⟩] }
     (s.doorbell 0).status = 1 ∧ s.phase ≠ .stopped ∧ commandLegal 8 = false) ∧
    (inFlight.ctx? 0).map (fun c => c.phase) = some .killed ∧ (inFlight.doorbell 0).status ≠ 1 ∧
    (∃ u ∈ inFlight.units, ∃ q ∈ u.reqs, ∃ l ∈ q.lanes, l.done = false ∧ l.asid = 0 ∧ l.va < 2 ^ 57 ∧ inFlight.team? u.team = some { bankTeam with ctx := 1 }) ∧
    -- the watchdog at a save point and away from it
    (inPhase .saving bankTeam id).atSavePoint 0 bankTeam = true ∧
    (let s := inPhase .saving bankTeam fun u => { u with ops := [⟨1, .ld, false⟩] }
     s.atSavePoint 0 bankTeam = false ∧ 50 ≤ s.now) ∧
    (inPhase .running bankTeam stalledUnit).inPlace 0 bankTeam = true ∧ (restoring true).inPlace 0 gatedTeam = true ∧ (restoring false).inPlace 0 gatedTeam = false ∧
    ({ bankTeam with stallSince := some (1999999, 0) } : Team).stallSince = some (1999999, 0) ∧ 2000000 < 1999999 + (wordContext 0 0).entry.prelim * 1000 ∧
    -- a core with one team, reset
    (banked id).team? 0 = some bankTeam ∧ bankTeam.core = 0 ∧ bankTeam.liveAlloc = true ∧
    -- an image that the save area gives back
    (let x : SavedTeam := { image with image := some 0x8000 }
     x.image = some 0x8000 ∧ (restoring true).ctx? x.ctx ≠ none ∧ nth? (x.record.banks.filter fun y => y.mode != .cache) 2 = some ⟨2, .fifo⟩ ∧
     ((x.record.banks.filter fun y => y.mode != .cache).map fun y => y.idx) = [0, 1, 2] ∧ swf x.sram = true ∧ (restoring true).imageByte 0 0x8000 = some 0 ∧
     (restoring true).imageByte 0 0x40000000 = none) := by
  and_intros <;> decide +kernel

theorem witness_HostWritesAndWindows :
    -- a write that goes in whole, one held by a region, one dropped
    (let s := bench id
     s.sealedFrame 0x2000 = false ∧ s.readers = [] ∧ s.versions = [] ∧ s.deferred = [] ∧ (∀ b ∈ s.l2, b.pa ≠ 0x2000) ∧ (0x2000 + 4 - 1) / 4 = 0x2000 / 4 ∧ 0x2000 % 128 + 128 ≤ 128) ∧
    { bench id with versions := [⟨0, 0x800, 7, 0, 0x2000, (plain 0).attr, 0⟩] }.hostHeld 0x2000 4 = true ∧
    (let v : Version := ⟨0, 0x900, 7, 0, 0x2400, (plain 0).attr, 0⟩
     (0x2000 + 128 - 1) / 4 < v.pa / 4) ∧
    { bench id with contexts := [{ wordContext 0 0 with sealed := [(0x2000, 128)], marks := [(0x2000, 0, 0)] }], sealedDrops := BitVec.allOnes 64 }.sealedFrame 0x2000 = true ∧
    -- writes that have been counted
    nth? ({ bench id with hostWrites := [⟨0, 0, 5⟩, ⟨1, 0, 5⟩, ⟨0, 9, 5⟩] } : State).hostWrites 2 = some ⟨0, 9, 5⟩ ∧
    { bench id with hostWrites := [⟨0, 0, 5⟩, ⟨1, 0, 5⟩] }.hostReturned 0 = true ∧ { bench id with hostWrites := [⟨0, 0, 5⟩, ⟨1, 0, 5⟩] }.hostReturned 1 = false ∧
    -- towers that vacate
    0 ∉ (bench id).vacating ∧ 15 ∈ ({ bench id with vacating := [15] } : State).vacating ∧
    -- records that a reset checks
    (∀ b ∈ [true, false], ∀ c ∈ [true, false], ({ rsaOk := b, slhOk := c, version := 2, measure := 0 } : Firmware).rsaOk = b) ∧ 63 < 64 ∧ (bench id).phase = .running := by
  and_intros <;> decide +kernel

/-- A linked device under a policy that lets device 1 in. -/
def allowed (p : Port) : State := { linked p with linkAllow := [(0, [1])] }

/-- A ring of a linked device whose header lies on no page, and one whose slots do. -/
def lostWindow : LinkWindow := ⟨0x2000, 4096, 0, 0, 0x40000000, true, true, [1]⟩

theorem witness_LinkedHome :
    (linked port0).linkAllow = [] ∧ (allowed port0).linksAllowed = true ∧ (allowed port0).phase = .running ∧ port0.queue = [] ∧ (allowed port0).outbox = [] ∧ port0.up = true ∧
    nth? (allowed port0).ports 0 = some port0 ∧ (linked port0).inStep = true ∧ (allowed port0).exportWindow (remote 0) = some ⟨0x2000, 4096, 0, 0, 0x2000, true, true, [1]⟩ ∧
    isOk ((allowed port0).sysReadUnc 0 0x2000 4) = true ∧ isOk ((allowed port0).sysWriteUnc 0 0x2000 4 5 0) = true ∧ ({ remote 1 with unc := true } : RemoteReq).unc = true ∧
    requestFormed { remote 4 with size := 8, pa := 0x2000 } = true ∧ requestFormed (remote 4) = false ∧ requestFormed (remote 5) = true ∧
    requestValue { remote 2 with data := 5 } 7 = some 12 ∧ requestValue { remote 4 with size := 8, data := 5 } 7 = some 12 ∧
    requestValue { remote 2 with op := 8, data := 5, data2 := 9 } 7 = none ∧
    (isOk ((allowed port0).sysRead 0 0x2000 4) = true ∧ (allowed port0).regionBusy 0 0x2000 4 = false) ∧
    -- a message whose header faults, and a page that faults
    (let s : State := { allowed port0 with linkWindows := [lostWindow] }
     s.exportWindow ringReq = some lostWindow ∧ s.globalRing { ringMsg with va := 0x40000000 } = .fault 0 ∧
     (match s.sysRead 0 0x40000000 4 with
       | .ok _ => 9
       | .error e => e) = 0) ∧
    -- flits while a retry is asked for, and a replay buffer that has room
    (let p := { port0 with asked := true }
     nth? (allowed p).ports 0 = some p ∧ flitOk (p.flit 1 0 0 (1, 1) 0 []) = true ∧ flitOk (p.flit 1 6 5 (0, 0) 3 []) = true) ∧
    (let p := { port0 with replay := List.replicate 3 (port0.flit 1 0 0 (1, 1) 0 []), sinceAudit := 4096 }
     p.replay.length < 2048 ∧ nth? (allowed p).ports 0 = some p) ∧
    (let p := { port0 with failed := 16 }
     nth? (allowed p).ports 0 = some p ∧ 16 ≤ p.failed) ∧
    -- errors that wait for a read, towers that vacate, and clocks near and far
    { returning (req (.load true) 1 (lane false)) with seq := 2 }.errorLater (.tower (0x2000 / 32)) = true ∧ (bench id).errorLater (.tower 0) = false ∧
    (bench id).errorLater (.sram 0 2048) = false ∧ (bench id).errorLater (.l1 0 0 64 1) = false ∧ (bench id).errorLater (.l2 0 64 0) = false ∧
    15 ∈ ({ bench id with vacating := [15] } : State).vacating ∧ 15 ∉ (bench id).vacated ∧ 15 ∉ (bench id).vacating ∧
    ((bench id).skew ≤ 18 ∧ -18 ≤ (bench id).skew ∧ (bench id).ref ≤ (bench id).now + 18 ∧ (bench id).now ≤ (bench id).ref + 18) ∧
    ¬ (({ bench id with skew := 19 } : State).skew ≤ 18) ∧ (bench id).deviceId = 0 ∧ (∀ x ∈ (bench id).outbox, x.cls ≠ 2) ∧
    -- a port that trains
    nth? (bench id).ports 11 = some Port.reset ∧ Port.reset.up = false ∧ (bench id).capMap.getLsbD (4 + 11) = true := by
  and_intros <;> decide +kernel

/-! One step each. Registers 1 to 3 of every lane, or of lane `l` by a function, hold the operands; a result in register 0 is read with every window and every pending value written. -/

def words (f : Nat → List W32) (u : Machine.Unit) : Machine.Unit :=
  { u with v := (((List.range 3).flatMap fun r => (List.range 32).map fun l => ((r + 1) * 64 + l, nth 0 (f l) r)).filter fun x => x.2 ≠ 0), dirty := BitVec.allOnes 128 }

def settled (u : Machine.Unit) : Machine.Unit :=
  let v := u.landAll
  v.vars.foldl (fun (a : Machine.Unit) (r : VarResult) => r.writes.foldl (fun (b : Machine.Unit) (w : RegWrite) => b.put w) a) v

/-- Register 0 of a lane after a word, over a bench. -/
noncomputable def lane0 (i : Instr) (xs : List W32) (l : Nat := 0) : Option W32 :=
  afterStep (exec i (bench (words fun _ => xs))) fun t => (settled (front t)).vget 0 l

/-- A word on registers 1, 2 and 3. -/
def w3 : A64 := { z64 with ra := 1, rb := 2, rc := 3 }

def w2 : A64 := { z64 with ra := 1, rb := 2 }

/-- The result of a word is not there before its latency of 3 steps is over (R20). -/
theorem test_step_latency : afterStep (exec (.add w2) (bench (words fun _ => [5, 7]))) (fun t => ((front t).vget 0 9, (settled (front t)).vget 0 9, (front t).pc)) =
    some (0, 12, 0x100008) := by decide +kernel

/-- A step fetches the word in memory, here `li v5, 0xDEADBEEF` (class 3, op 4: immediate in bits 58:27, rd in 26:20), and stands behind it. -/
theorem test_step_fetch : afterStep (step (State.reset.withFetchWord 64 (3 + 2 ^ 5 * 4 + 2 ^ 11 * 3 + 2 ^ 16 * 7 + 2 ^ 20 * 5 + 2 ^ 27 * 0xDEADBEEF)))
    (fun t => ((settled (front t)).vget 5 31, (front t).pc)) = some (0xDEADBEEF, 0x100008) := by decide +kernel

/-- R79, R80, R81: wraps, saturation, the carry of 2^32, the high halves of -2^31 squared. -/
theorem test_step_sums : lane0 (.add w2) [0xFFFFFFFF, 1] = some 0 ∧ lane0 (.addSatS32 w2) [0x7FFFFFFF, 1] = some 0x7FFFFFFF ∧
    lane0 (.subSatN32 w2) [3, 5] = some 0 ∧ lane0 (.mulHiS32 w2) [0x80000000, 0x80000000] = some 0x40000000 ∧
    lane0 (.mulHiN32 w2) [0xFFFFFFFF, 0xFFFFFFFF] = some 0xFFFFFFFE ∧ lane0 (.madLo w3) [0x10000, 0x10000, 9] = some 9 := by decide +kernel

theorem test_step_carry : afterStep (exec (.addc { w2 with rc := 0x0F }) (bench (words fun _ => [0xFFFFFFFF, 0]))) (fun t => ((settled (front t)).vget 0 0, (settled (front t)).pmask 1)) =
    some (0, 0xFFFFFFFF) := by decide +kernel

/-- R82: the edge cases of Table 4.2. -/
theorem test_step_division : lane0 (.divS32 w2) [7, 0] = some 0xFFFFFFFF ∧ lane0 (.divS32 w2) [0x80000000, 0xFFFFFFFF] = some 0x80000000 ∧
    lane0 (.remS32 w2) [0xFFFFFFF9, 2] = some 0xFFFFFFFF ∧ lane0 (.remN32 w2) [7, 0] = some 7 ∧ lane0 (.divS32 w2) [0xFFFFFFF9, 2] = some 0xFFFFFFFD := by decide +kernel

/-- R83 to R88: byte products, shifts, fields, counts and Morton keys. -/
theorem test_step_bits : lane0 (.dp4S8 w3) [0x000000FF, 2, 1] = some 0xFFFFFFFF ∧ lane0 (.shl w2) [1, 33] = some 2 ∧ lane0 (.sar w2) [0x80000000, 31] = some 0xFFFFFFFF ∧
    lane0 (.bfeS32 w3) [0x80, 4, 4] = some 0xFFFFFFF8 ∧ lane0 (.bfeN32 w3) [0xF0000000, 30, 8] = some 3 ∧ lane0 (.clz { z64 with ra := 1 }) [1] = some 31 ∧
    lane0 (.ctz { z64 with ra := 1 }) [0] = some 32 ∧ lane0 (.popcLo w2) [0xFF, 4] = some 4 ∧ lane0 (.brev { z64 with ra := 1 }) [1] = some 0x80000000 ∧
    lane0 (.hcell w3) [3, 0, 1] = some 0b1101 := by decide +kernel

/-- R89: -2^31 is less than 1 as a signed and not as an unsigned number. -/
theorem test_step_compare :
    afterStep (exec (.cmp { w2 with rc := 2 }) (bench (words fun _ => [0x80000000, 1]))) (fun t => (settled (front t)).pmask 0) = some 0xFFFFFFFF ∧
    afterStep (exec (.cmp { w2 with rc := 10 }) (bench (words fun _ => [0x80000000, 1]))) (fun t => (settled (front t)).pmask 0) = some 0 := by decide +kernel

/-- R94: 1 + 2^-24 to even, 1/3, the root of 2, and the flags of an inexact sum. -/
theorem test_step_float : lane0 (.faddF32 w2) [0x3F800000, 0x33800000] = some 0x3F800000 ∧ lane0 (.faddF32 { w2 with rc := 4 }) [0x3F800000, 0x33800000] = some 0x3F800001 ∧
    lane0 (.fdivF32 w2) [0x3F800000, 0x40400000] = some 0x3EAAAAAB ∧ lane0 (.fsqrtF32 { z64 with ra := 1 }) [0x40000000] = some 0x3FB504F3 ∧
    lane0 (.fminF32 w2) [0, 0x80000000] = some 0x80000000 ∧ lane0 (.ldexpF32 w2) [0x3F800000, 0xFFFFFF6B] = some 1 ∧
    lane0 (.ffmaF32 0 w3) [0x3F800001, 0x3F800001, 0xBF800002] = some 0x28800000 := by decide +kernel

/-- Table 2.8: mode codes 1 to 4 are rz, ru, rd and ra; R58: an overflow goes to infinity or to the greatest number. -/
theorem test_step_modes : lane0 (.faddF32 { w2 with rc := 1 }) [0x7F7FFFFF, 0x7F7FFFFF] = some 0x7F7FFFFF ∧ lane0 (.faddF32 w2) [0x7F7FFFFF, 0x7F7FFFFF] = some 0x7F800000 := by
  decide +kernel

/-- R97: -1.5 toward zero and to nearest, a NaN, and a number past the greatest s32 (types 2 and 10). -/
theorem test_step_convert : convert 2 10 .rz false 0xBFC00000 = ⟨0xFFFFFFFF, 16⟩ ∧ convert 2 10 .rn false 0xBFC00000 = ⟨0xFFFFFFFE, 16⟩ ∧
    convert 2 10 .rn false 0x7FC00000 = ⟨0, 1⟩ ∧ convert 2 10 .rn false 0x4F000000 = ⟨0x7FFFFFFF, 1⟩ := by decide +kernel

/-- R98: reciprocal, logarithm and power of powers of two. -/
theorem test_step_transcendental : transc 0 0x40000000 = ⟨0x3F000000, 0⟩ ∧ transc 3 0x41000000 = ⟨0x40400000, 0⟩ ∧ transc 2 0x40400000 = ⟨0x41000000, 0⟩ := by
  decide +kernel

/-- R164: a scalar sum under a false guard is made, and read after 2 steps. -/
theorem test_step_scalar : afterStep (exec (.sSub { z64 with ra := 1, rb := 2, rd := 4, guard := 0 }) (bench (uni 3 5 0))) (fun t => (settled (front t)).uget 4) =
    some 0xFFFFFFFFFFFFFFFE := by decide +kernel

/-- R103: a taken branch adds twice its immediate to the address of the branch, a branch under a false guard goes on, and a call links. -/
theorem test_step_branch : afterStep (exec (.br { zI with imm := 0xFFFFFFFC }) (bench id)) (fun t => (front t).pc) = some 0xFFFF8 ∧
    afterStep (exec (.br { zI with imm := 0xFFFFFFFC, guard := 0 }) (bench id)) (fun t => (front t).pc) = some 0x100008 ∧
    afterStep (exec (.call { zI with imm := 16, rd := 3 }) (bench id)) (fun t => ((front t).pc, (settled (front t)).uget 3)) = some (0x100020, 0x100008) := by decide +kernel

/-- R145: a divergent branch keeps the path not taken, and the join goes there. -/
theorem test_step_divergence :
    afterStep (exec (.brDiv { zI with imm := 0x00100020 }) (bench fun u => { u with p := [(0, 1)] })) (fun t => ((front t).active, (front t).pc, (front t).levels.length)) =
      some (1, 0x100020, 1) ∧
    afterStep (exec (.join z64) (bench fun u => { u with levels := [kept 0x100000 false] })) (fun t => ((front t).active, (front t).pc)) = some (2, 0x100020) := by decide +kernel

/-- R27, R30: a trap word saves the address behind it and its immediate, and `tret` comes back. -/
theorem test_step_trap :
    afterStep (exec (.trap { zI with imm := 0x80000001 }) (trapBench id)) (fun t => ((front t).tcause, (front t).tepc, (front t).tval, (front t).pc, (front t).inHandler)) =
      some (0x10, 0x100008, 0x80000001, 0x2000, true) ∧
    afterStep (exec (.tret z64) (bench fun u => { u with inHandler := true, tepc := 0x100010 })) (fun t => ((front t).pc, (front t).inHandler)) = some (0x100010, false) := by
  decide +kernel

/-- R13: register 128 of a span over the budget is named in the trap. -/
theorem test_step_budget : afterStep (exec (.faddF64 { z64 with ra := 127 }) (trapBench id)) (fun t => ((front t).tcause, (front t).tval)) = some (5, 128) := by decide +kernel

/-- R170 to R177: lanes exchange, vote, add up to a point and by segment (lane numbers stand in register 0). -/
theorem test_step_lanes :
    afterStep (exec (.shfl { z64 with rb := 2, pb := 2, rc := 3, rd := 4 }) (bench id)) (fun t => (settled (front t)).vget 4 5) = some 7 ∧
    afterStep (exec (.voteBallot { z64 with rd := 4 }) (bench fun u => { u with p := [(0, 5)] })) (fun t => ((settled (front t)).vget 4 31, (settled (front t)).vget 5 31)) = some (5, 0) ∧
    afterStep (exec (.scanLane { z64 with rd := 4 }) (bench id)) (fun t => (settled (front t)).vget 4 4) = some 10 ∧
    afterStep (exec (.redLane { z64 with rd := 4, rc := 2 }) (bench id)) (fun t => (settled (front t)).vget 4 4) = some 31 := by decide +kernel

/-- R158, R184: the last of two expected arrivals flips the phase and clears the count. -/
theorem test_step_arrival : arriveWord 1 0x0000000200000001 = 0x8000000200000000 ∧ arriveWord 1 0x8000000200000000 = 0x8000000200000001 ∧
    arriveWord 3 0x0000000200000000 = 0x8000000200000000 := by decide +kernel

/-- R230: a queued store reaches its bank when it is performed, low byte first. -/
theorem test_step_scratchpad :
    afterStep (exec (.spAccessPerformed 0) (banked fun u => { u with spq := [{ spLoad with kind := .store, size := 4, span := 0, lanes := [⟨0, 1024, 0x11223344, 0, 0, 0, true⟩] }] }))
      (fun t => (sgetMany t.sram 1024 4, (front t).spq.length)) = some ([0x44, 0x33, 0x22, 0x11], 0) ∧
    afterStep (exec (.spAccessPerformed 0) { banked (fun u => { u with spq := [spLoad], dirty := BitVec.allOnes 128 }) with sram := [(1024, 0x80)] }) (fun t => (front t).vget 127 0) =
      some 0xFFFFFF80 := by decide +kernel

/-- R109: the effective addresses of two lanes, base plus index by the scale plus a negative offset, at one request. -/
theorem test_step_load : afterStep (exec (.ld { zM with sbase := 1, scale := 2, off := 0x3FFF8, guard := 0, rd := 4 }) (bench fun u => { u with u := [(1, 0x2000)], p := [(0, 3)] }))
    (fun t => (front t).reqs.flatMap fun q => q.lanes.map fun l => (q.size, q.dest, l.lane, l.pa)) =
      some [(4, 4, 0, 0x1FF8), (4, 4, 1, 0x1FFC)] := by decide +kernel

/-- R115: the lowest lane with a misaligned address traps with that address. -/
theorem test_step_misaligned : afterStep (exec (.ld { zM with sbase := 1 }) (trapBench fun u => { u with u := [(1, 0x2000)] })) (fun t => ((front t).tcause, (front t).tval)) =
    some (4, 0x2001) := by decide +kernel

/-- Table 21.2: a write of `frm` (CSR 2) is read back, and CSR 0xFFF does not exist. -/
theorem test_step_csr : afterStep (exec (.csrWr { zI with imm := 2, rd := 1 }) (bench (uni 4 0 0))) (fun t => t.csrValue (front t) 2) = some 4 ∧
    afterStep (exec (.csrRd { zI with imm := 0xFFF }) (trapBench id)) (fun t => ((front t).tcause, (front t).tval)) = some (3, 0xFFF) := by decide +kernel

/-- R116: bits 15:0 of the 8-bit encodings that the manual lists as exact: 448 is the greatest e4m3, and 1 in e5m2. -/
theorem test_step_formats : Fmt.e4m3.value 0x7E = .fin false 14 5 ∧ Fmt.e4m3.value 0x7F = .nan false ∧ Fmt.e5m2.value 0x3C = .fin false 4 (-2) ∧ Fmt.e5m2.value 0x7C = .inf false := by
  decide +kernel

/-- The check value of CRC-32: the nine digits give 0xCBF43926 (R411). -/
theorem test_step_crc : crc32 [0x31, 0x32, 0x33, 0x34, 0x35, 0x36, 0x37, 0x38, 0x39] = 0xCBF43926 := by decide +kernel

/-- R392, Table 21.9: an arrival at a saved bank is written into the bank's image, 1 KiB for each bank before it. -/
theorem test_step_image :
    afterStep (exec (.imageSignalApply 0) { signalled [.arrive 1] with teams := [{ bankTeam with life := .saved, banks := [] }], saved := [{ image with sram := [], image := some 0x2000 }] })
      (fun t => (t.sysRead 0 0x2400 8).toOption.map fun r => r.2.1) = some (some 0x8000000000000000) := by decide +kernel

/-- R207: the parts of the cipher by the examples of FIPS 197: a byte of the box and back, a word of the key schedule of appendix A.3, and a mixed column. -/
theorem test_step_cipher : Aes.sub 0x53 = 0xED ∧ Aes.unsub 0xED = 0x53 ∧
    Aes.nextWord 8 ([[0x60, 0x3D, 0xEB, 0x10], [0x15, 0xCA, 0x71, 0xBE], [0x2B, 0x73, 0xAE, 0xF0], [0x85, 0x7D, 0x77, 0x81], [0x1F, 0x35, 0x2C, 0x07], [0x3B, 0x61, 0x08, 0xD7],
      [0x2D, 0x98, 0x10, 0xA3], [0x09, 0x14, 0xDF, 0xF4]].reverse) = [0x9B, 0xA3, 0x54, 0x11] ∧
    (Aes.mix [2, 3, 1, 1] [0xD4, 0xBF, 0x5D, 0x30]).take 4 = [0x04, 0x66, 0x81, 0xE5] := by decide +kernel

end Sys2Proof.Tests
end

section
/-!
PROOFS. A trap into the handler (R27): what completing the windows of a unit leaves alone, and what a trap of a group with a vector comes to.
-/

namespace Sys2Proof.Machine

/-! What a register write leaves alone -/

/-- A unit with another active mask, other levels, other windows and another time of its last issue: what a register write neither reads nor changes. -/
def Unit.reframed (u : Unit) (active : W64) (levels : List Level) (win : List PendWrite) (tick : Nat) : Unit :=
  { u with active := active, levels := levels, win := win, lastIssue := tick }

section
variable (a : W64) (ls : List Level) (es : List PendWrite) (t : Nat)

theorem Unit.touch_reframed (u : Unit) (r : Nat) (d : Bool) : (u.reframed a ls es t).touch r d = (u.touch r d).reframed a ls es t := by
  simp only [Unit.touch, Unit.reframed]
  split
  · rfl
  · split <;> rfl

theorem Unit.put_reframed (u : Unit) (w : RegWrite) : (u.reframed a ls es t).put w = (u.put w).reframed a ls es t := by
  unfold Unit.put
  cases w.kind with
  | v =>
    simp only
    split
    · rfl
    · exact Unit.touch_reframed a ls es t { u with v := _ } _ _
  | p => simp only; split <;> rfl
  | u => simp only; split <;> rfl
  | fl => rfl

theorem Unit.foldl_put_reframed : ∀ (ds : List PendWrite) (u : Unit),
    ds.foldl (fun x e => x.put ⟨e.kind, e.idx, e.vals⟩) (u.reframed a ls es t) =
      (ds.foldl (fun x e => x.put ⟨e.kind, e.idx, e.vals⟩) u).reframed a ls es t
  | [], _ => rfl
  | d :: ds, u => by simp only [List.foldl_cons, Unit.put_reframed, Unit.foldl_put_reframed ds]

theorem Unit.landAll_reframed (u : Unit) : (u.reframed a ls u.win t).landAll = u.landAll.reframed a ls [] t :=
  Unit.foldl_put_reframed a ls [] t u.win { u with win := [] }

end

/-- R27: completing the windows keeps the mask and the levels, and leaves no window. -/
theorem Unit.landAll_frame (u : Unit) : u.landAll = u.landAll.reframed u.active u.levels [] u.lastIssue :=
  Unit.landAll_reframed u.active u.levels u.lastIssue u

@[simp] theorem Unit.landAll_active (u : Unit) : u.landAll.active = u.active :=
  (congrArg Unit.active (Unit.landAll_frame u) :)

@[simp] theorem Unit.landAll_levels (u : Unit) : u.landAll.levels = u.levels :=
  (congrArg Unit.levels (Unit.landAll_frame u) :)

@[simp] theorem Unit.landAll_win (u : Unit) : u.landAll.win = [] :=
  (congrArg Unit.win (Unit.landAll_frame u) :)

theorem Unit.landAll_lastIssue (u : Unit) (t : Nat) : ({ u with lastIssue := t } : Unit).landAll = { u.landAll with lastIssue := t } :=
  (Unit.landAll_reframed u.active u.levels t u).trans (by simp [Unit.reframed])

/-! A unit written twice -/

theorem modNth_const_modNth {α : Type} (f : α → α) (y : α) : ∀ (xs : List α) (i : Nat), modNth (fun _ => y) (modNth f xs i) i = modNth (fun _ => y) xs i
  | [], _ => rfl
  | _ :: _, 0 => rfl
  | x :: xs, i + 1 => congrArg (x :: ·) (modNth_const_modNth f y xs i)

/-- Of two writes of one unit the later one stands. -/
@[simp] theorem State.setUnit_setUnit (s : State) (uid : Nat) (x y : Unit) : (s.setUnit uid x).setUnit uid y = s.setUnit uid y :=
  congrArg (fun us => ({ s with units := us } : State)) (modNth_const_modNth _ y s.units uid)

theorem State.unit?_setUnit_self {s : State} {uid : Nat} (h : (s.unit? uid).isSome = true) (x : Unit) : (s.setUnit uid x).unit? uid = some x := by
  obtain ⟨y, hy⟩ := Option.isSome_iff_exists.mp h
  simp [State.unit?_setUnit, hy]

/-! Traps -/

/-- The unit in focus is a unit of the state. -/
theorem State.Issues.isSome {s : State} {uid : Nat} {u : Unit} (h : s.Issues uid u) : (s.unit? uid).isSome = true := by
  obtain ⟨-, x, hx, -⟩ := h
  simp [hx]

/-- R27: a group with a vector, outside a handler and with nothing of its own on its way, is in its handler next. -/
theorem State.raise_handles {s : State} {uid : Nat} {u : Unit} {tm : Team} (hu : (s.unit? uid).isSome = true) (h : s.Handles u tm)
    (len cause : Nat) (tval : W64) :
    s.raise uid u len cause tval = s.trapped uid u tm.desc.tvec cause
      (if cause = 0x0F ∨ cause = 0x10 then (u.pc + BitVec.ofNat 57 len).signExtend 64 else u.pc.signExtend 64) tval := by
  obtain ⟨hteam, hgroup, hout, hvector, hdrained⟩ := h
  have hunit := State.unit?_setUnit_self hu { u with lastIssue := s.tick }
  rw [State.raise_drained hdrained,
    State.takeTrap_vector hunit hteam hgroup hout hvector, State.setUnit_setUnit, Unit.landAll_lastIssue]
  rfl

/-- R27: a unit with an earlier instruction on its way waits at the word. -/
theorem State.raise_undrained {s : State} {u : Unit} (hd : u.drained = false) (ha : s.abortPending u = false) (uid len cause : Nat) (tval : W64) :
    s.raise uid u len cause tval = s.setUnit uid { u with wait := .drain } := by
  simp [State.raise, State.waits, hd, ha]

theorem State.trapped_unit? {s : State} {uid : Nat} (hu : (s.unit? uid).isSome = true) (u : Unit) (tvec : W64) (cause : Nat) (tepc tval : W64) :
    ∃ v, (s.trapped uid u tvec cause tepc tval).unit? uid = some v ∧ v.active = u.active ∧ v.win = [] ∧ v.levels = u.levels :=
  ⟨_, State.unit?_setUnit_self hu _, u.landAll_active, u.landAll_win, u.landAll_levels⟩

/-- A word whose meaning is to trap, issued by a group that handles its traps. -/
theorem State.issue_raise_handles {s : State} {uid : Nat} {u : Unit} {tm : Team} {sh : Shape} (hc : s.Clear uid u sh) (h : s.Handles u tm)
    (cause : Nat) (tval : W64) :
    s.issue sh (fun k x => s.raise k x sh.len cause tval) = .next (s.trapped uid u tm.desc.tvec cause
      (if cause = 0x0F ∨ cause = 0x10 then (u.pc + BitVec.ofNat 57 sh.len).signExtend 64 else u.pc.signExtend 64) tval) := by
  rw [State.issue_of hc, Unit.touchAll_group h.group, State.raise_handles hc.1.isSome h]

/-- R108: `trap` records the address of the following word and its immediate. -/
theorem exec_trap_handles {s : State} {uid : Nat} {u : Unit} {tm : Team} {x : AI} (hc : s.Clear uid u ((formAI 9 7 x).shape [] [])) (h : s.Handles u tm) :
    exec (.trap x) s = .next (s.trapped uid u tm.desc.tvec 0x10 ((u.pc + 8).signExtend 64) (x.imm.setWidth 64)) :=
  State.issue_raise_handles hc h 0x10 _

/-- R108: `brk` records the address of the following word. -/
theorem exec_brk_handles {s : State} {uid : Nat} {u : Unit} {tm : Team} {w : A64} (hc : s.Clear uid u ((formA64 9 8 w).shape [] [])) (h : s.Handles u tm) :
    exec (.brk w) s = .next (s.trapped uid u tm.desc.tvec 0x0F ((u.pc + 8).signExtend 64) 0) :=
  State.issue_raise_handles hc h 0x0F _

/-- R47: bytes that are no instruction record their own address and their parcels. -/
theorem exec_illegalEncoding_handles {s : State} {uid : Nat} {u : Unit} {tm : Team} (hi : s.Issues uid u) (h : s.Handles u tm) (n : Nat) (raw : BitVec 64) :
    exec (.illegalEncoding n raw) s = .next (s.trapped uid u tm.desc.tvec 0x01 (u.pc.signExtend 64) raw) :=
  (State.withUnit_of hi fun k x => .next (s.raise k x n 0x01 raw)).trans (congrArg _ (State.raise_handles hi.isSome h n 0x01 raw))

/-- Settles O24: a trap lands every window and takes the group to its vector, or waits for what is on its way; the words that trap follow from it. -/
theorem trapEntry : Obligations.TrapEntry :=
  ⟨fun _ _ len cause _ _ tval hu h => State.raise_handles hu h len cause tval,
    fun _ uid len cause _ tval hd ha => State.raise_undrained hd ha uid len cause tval,
    fun _ _ cause u tvec tepc tval hu => State.trapped_unit? hu u tvec cause tepc tval,
    fun _ _ _ _ _ hc h => exec_trap_handles hc h,
    fun _ _ _ _ _ hc h => exec_brk_handles hc h,
    fun _ _ n _ _ raw hi h => exec_illegalEncoding_handles hi h n raw⟩

end Sys2Proof.Machine
end

section
/-!
PROOFS. Lane words complete: a word whose meaning is one of the shared lane operations goes to the state that the operation gives.
-/

namespace Sys2Proof.Machine

theorem laneFixed_of_exec {i : Instr} {sh : Shape} {lat : Nat} {f : State → Unit → Nat → LaneRes} (h : ∀ s, exec i s = fixedOp sh lat f s) :
    LaneFixed i sh lat f := fun s _ _ hc => (h s).trans (fixedOp_of hc lat f)

theorem laneVar_of_exec {i : Instr} {sh : Shape} {f : State → Unit → Nat → LaneRes} (h : ∀ s, exec i s = varOp sh f s) : LaneVar i sh f :=
  fun s _ _ hc => (h s).trans (varOp_of hc f)

theorem int1_of_exec {i : Instr} {f : Form} {op : W32 → W32} (h : ∀ s, exec i s = intOp1 f op s) : Int1 i f op := laneFixed_of_exec h

theorem int2_of_exec {i : Instr} {f : Form} {op : W32 → W32 → W32} (h : ∀ s, exec i s = intOp2 f op s) : Int2 i f op := laneFixed_of_exec h

theorem int3_of_exec {i : Instr} {f : Form} {op : W32 → W32 → W32 → W32} (h : ∀ s, exec i s = intOp3 f op s) : Int3 i f op := laneFixed_of_exec h

theorem var2_of_exec {i : Instr} {f : Form} {op : W32 → W32 → W32} (h : ∀ s, exec i s = divOp f op s) : Var2 i f op := laneVar_of_exec h

theorem pred2_of_exec {i : Instr} {f : Form} {op : Bool → Bool → Bool} (h : ∀ s, exec i s = predOp f true op s) : Pred2 i f op := laneFixed_of_exec h

theorem fp1_of_exec {i : Instr} {f : Form} {wide : Bool} {op : Fmt → Rm → Nat → Rounded} (h : ∀ s, exec i s = fpOp1 wide false f op s) : Fp1 i f wide op :=
  laneFixed_of_exec h

theorem fp2_of_exec {i : Instr} {f : Form} {wide : Bool} {op : Fmt → Rm → Nat → Nat → Rounded} (h : ∀ s, exec i s = fpOp2 wide false f op s) :
    Fp2 i f wide op := laneFixed_of_exec h

theorem half1_of_exec {i : Instr} {f : Form} {bf : BitVec 1} {op : Fmt → Nat → Rounded} (h : ∀ s, exec i s = halfOp1 bf f op s) :
    Half1 i f (op (halfFmt bf)) := laneFixed_of_exec h

theorem half2_of_exec {i : Instr} {f : Form} {bf : BitVec 1} {op : Fmt → Rm → Nat → Nat → Rounded} (h : ∀ s, exec i s = halfOp2 bf f op s) :
    Half2 i f (op (halfFmt bf)) := laneFixed_of_exec h

end Sys2Proof.Machine
end

section
/-!
PROOFS. Division (R82), byte dot products (R83) and predicates (R92).
-/

namespace Sys2Proof.Machine

/-! Division -/

theorem divInt_signed : divInt true = quotS := by
  funext a b
  simp only [divInt, quotS]
  split
  · rfl
  · exact BitVec.eq_of_toInt_eq (by simp [BitVec.toInt_sdiv, BitVec.toInt_ofInt])

theorem divInt_unsigned : divInt false = quotN := by
  funext a b
  simp only [divInt, quotN]
  split
  · rfl
  · exact BitVec.eq_of_toNat_eq (by simp [Nat.mod_eq_of_lt (Nat.lt_of_le_of_lt (Nat.div_le_self _ _) a.isLt)])

theorem remInt_signed : remInt true = remS := by
  funext a b
  simp [remInt, remS, ← BitVec.toInt_srem]

theorem remInt_unsigned : remInt false = remN := by
  funext a b
  simp only [remInt, remN]
  split
  · rfl
  · exact BitVec.eq_of_toNat_eq (by simp [Nat.mod_eq_of_lt (Nat.lt_of_le_of_lt (Nat.mod_le _ _) a.isLt)])

theorem A64.rc_eq_zero_of_ok2R {w : A64} {sd sa sb : Nat} (h : w.ok2R sd sa sb mZero = true) : w.rc = 0 := by
  simp only [A64.ok2R, mZero, Bool.and_eq_true, beq_iff_eq] at h
  exact h.2

/-- R82: the quotients and remainders have m = 0. -/
theorem rc_eq_zero_of_division {w : A64} (h : [Instr.divS32 w, .divN32 w, .remS32 w, .remN32 w].any Instr.wf = true) : w.rc = 0 := by
  obtain ⟨i, hi, hwf⟩ := List.any_eq_true.mp h
  simp only [List.mem_cons, List.not_mem_nil, or_false] at hi
  obtain rfl | rfl | rfl | rfl := hi <;> exact A64.rc_eq_zero_of_ok2R hwf

/-- Settles O4: the model's quotients and remainders are those of R82, on zero divisors too. -/
theorem divisionWithEdgeCases : Obligations.DivisionWithEdgeCases :=
  ⟨fun _ => ⟨divInt_signed ▸ var2_of_exec fun _ => rfl, divInt_unsigned ▸ var2_of_exec fun _ => rfl,
      remInt_signed ▸ var2_of_exec fun _ => rfl, remInt_unsigned ▸ var2_of_exec fun _ => rfl⟩,
    fun _ => rc_eq_zero_of_division, by decide, by decide⟩

/-! Byte dot products -/

/-- Products of signed numbers added modulo 2^32. -/
theorem foldl_add_ofInt (f : Nat → Int) : ∀ (ks : List Nat) (c : Int),
    ks.foldl (fun sum k => sum + BitVec.ofInt 32 (f k)) (BitVec.ofInt 32 c) = BitVec.ofInt 32 (c + (ks.map f).sum)
  | [], c => by simp
  | k :: ks, c => by simp [← BitVec.ofInt_add, foldl_add_ofInt f ks, Int.add_assoc]

theorem foldl_add_ofNat (f : Nat → Nat) : ∀ (ks : List Nat) (c : Nat),
    ks.foldl (fun sum k => sum + BitVec.ofNat 32 (f k)) (BitVec.ofNat 32 c) = BitVec.ofNat 32 (c + (ks.map f).sum)
  | [], c => by simp
  | k :: ks, c => by simp [← BitVec.ofNat_add, foldl_add_ofNat f ks, Nat.add_assoc]

theorem dp4_signed : dp4 true = dotS := by
  funext a b c
  have h := foldl_add_ofInt (fun k => (a.extractLsb' (8 * k) 8).toInt * (b.extractLsb' (8 * k) 8).toInt) (List.range 4) c.toInt
  simpa [dp4, dotS, BitVec.ofInt_mul, BitVec.signExtend] using h

theorem dp4_unsigned : dp4 false = dotN := by
  funext a b c
  have h := foldl_add_ofNat (fun k => (a.extractLsb' (8 * k) 8).toNat * (b.extractLsb' (8 * k) 8).toNat) (List.range 4) c.toNat
  simpa only [dp4, dotN, BitVec.ofNat_mul, BitVec.ofNat_toNat, BitVec.setWidth_eq, Bool.false_eq_true, if_false] using h

/-- Settles O5: four products of bytes, extended and added modulo 2^32, are the sum of R83. -/
theorem byteDotProducts : Obligations.ByteDotProducts := fun _ _ =>
  ⟨dp4_signed ▸ int3_of_exec fun _ => rfl, dp4_unsigned ▸ int3_of_exec fun _ => rfl, dp4_signed ▸ int3_of_exec fun _ => rfl⟩

/-! Predicates -/

theorem A64.patterns_eq_zero_of_okPred {w : A64} {two : Bool} (h : w.okPred two = true) : w.pa = 0 ∧ w.pb = 0 := by
  simp only [A64.okPred, Bool.and_eq_true, beq_iff_eq] at h
  obtain ⟨⟨⟨-, hpa⟩, hpb⟩, -⟩ := h
  exact ⟨hpa, hpb⟩

/-- R92: the words on predicates take no pattern. -/
theorem patterns_eq_zero_of_predicateWord {w : A64} (h : [Instr.pand w, .por w, .pxor w, .pnot w].any Instr.wf = true) : w.pa = 0 ∧ w.pb = 0 := by
  obtain ⟨i, hi, hwf⟩ := List.any_eq_true.mp h
  simp only [List.mem_cons, List.not_mem_nil, or_false] at hi
  obtain rfl | rfl | rfl | rfl := hi
  · exact A64.patterns_eq_zero_of_okPred (two := true) hwf
  · exact A64.patterns_eq_zero_of_okPred (two := true) hwf
  · exact A64.patterns_eq_zero_of_okPred (two := true) hwf
  · exact A64.patterns_eq_zero_of_okPred (two := false) hwf

/-- R12: a write to `p7` is discarded. -/
theorem Unit.put_p7 (u : Unit) (vals : List (Nat × W64)) : u.put ⟨.p, 7, vals⟩ = u := rfl

/-- R12: `p7` reads true in every lane. -/
theorem Unit.arg1_p7 (u : Unit) {l : Nat} (h : l < 64) : u.arg1 7 l = true := by
  simp only [Unit.arg1, Unit.pmask, if_true, BitVec.getLsbD_allOnes, h, decide_true]

/-- Settles O11: the words combine two predicates or invert one, and `p7` neither changes nor reads false. -/
theorem predicateLogic : Obligations.PredicateLogic :=
  ⟨fun _ => ⟨pred2_of_exec fun _ => rfl, pred2_of_exec fun _ => rfl, pred2_of_exec fun _ => rfl, laneFixed_of_exec fun _ => rfl⟩,
    fun _ => patterns_eq_zero_of_predicateWord, Unit.put_p7, fun u _ => u.arg1_p7⟩

end Sys2Proof.Machine
end

section
/-!
PROOFS. Bit fields, counts and Morton keys (R85 to R88), bit by bit.
-/

namespace Sys2Proof.Machine

/-! Fields -/

theorem bfe_eq (signed : Bool) (a b c : W32) : bfe signed a b c =
    if fieldLen b c.toNat = 0 then 0
    else if signed then BitVec.ofInt 32 (toSigned (fieldLen b c.toNat) (a.toNat / 2 ^ fieldPos b % 2 ^ fieldLen b c.toNat))
    else BitVec.ofNat 32 (a.toNat / 2 ^ fieldPos b % 2 ^ fieldLen b c.toNat) := rfl

theorem bfi_eq (a b c : W32) : bfi a b c =
    c &&& ~~~BitVec.ofNat 32 ((2 ^ fieldLen b (b.toNat / 256) - 1) * 2 ^ fieldPos b) |||
      a <<< fieldPos b &&& BitVec.ofNat 32 ((2 ^ fieldLen b (b.toNat / 256) - 1) * 2 ^ fieldPos b) := rfl

/-- A number cut to `len` bits and read as signed is the value of a word of `len` bits. -/
theorem toSigned_eq_toInt {len : Nat} (h : len ≠ 0) (x : Nat) : toSigned len x = (BitVec.ofNat len x).toInt := by
  obtain ⟨n, rfl⟩ := Nat.exists_eq_succ_of_ne_zero h
  have hp : 2 ^ (n + 1) = 2 * 2 ^ n := by rw [Nat.pow_succ, Nat.mul_comm]
  simp only [toSigned, BitVec.toInt_eq_toNat_cond, BitVec.toNat_ofNat, Nat.succ_eq_add_one, Nat.add_sub_cancel]
  split <;> split <;> omega

/-- R85: bit `j` of the field at `pos` of length `len`. -/
theorem testBit_field (a : W32) (pos len j : Nat) : (a.toNat / 2 ^ pos % 2 ^ len).testBit j = (decide (j < len) && a.getLsbD (pos + j)) := by
  rw [Nat.testBit_mod_two_pow, Nat.testBit_div_two_pow, BitVec.testBit_toNat, Nat.add_comm]

theorem getLsbD_bfe_unsigned (a b c : W32) {k : Nat} (hk : k < 32) :
    (bfe false a b c).getLsbD k = (decide (k < fieldLen b c.toNat) && a.getLsbD (fieldPos b + k)) := by
  rw [bfe_eq]
  split
  next h => simp [h]
  next => simp only [Bool.false_eq_true, if_false, BitVec.getLsbD_ofNat, testBit_field, hk, decide_true, Bool.true_and]

/-- R85: the signed field is a word of its own length, extended by its top bit. -/
theorem bfe_signed_eq_signExtend {a b c : W32} (h : fieldLen b c.toNat ≠ 0) :
    bfe true a b c = (BitVec.ofNat (fieldLen b c.toNat) (a.toNat / 2 ^ fieldPos b % 2 ^ fieldLen b c.toNat)).signExtend 32 := by
  rw [bfe_eq, if_neg h, if_pos rfl, toSigned_eq_toInt h, BitVec.signExtend]

theorem getLsbD_bfe_signed (a b c : W32) {k : Nat} (hk : k < 32) :
    (bfe true a b c).getLsbD k = (decide (fieldLen b c.toNat ≠ 0) && a.getLsbD (fieldPos b + min k (fieldLen b c.toNat - 1))) := by
  by_cases h : fieldLen b c.toNat = 0
  · simp [bfe_eq, h]
  · have hlast : fieldLen b c.toNat - 1 < fieldLen b c.toNat := by omega
    rw [bfe_signed_eq_signExtend h, BitVec.getLsbD_signExtend, BitVec.msb_eq_getLsbD_last]
    simp only [BitVec.getLsbD_ofNat, testBit_field, hk, h, hlast, decide_true, Bool.true_and, ne_eq, not_false_eq_true]
    split
    next hlt => simp only [hlt, decide_true, Bool.true_and, Nat.min_eq_left (Nat.le_sub_one_of_lt hlt)]
    next hge => rw [Nat.min_eq_right (by omega)]

/-- R86: bits `pos` to `pos + len - 1` of the mask are 1. -/
theorem getLsbD_fieldMask (pos len : Nat) {k : Nat} (hk : k < 32) :
    (BitVec.ofNat 32 ((2 ^ len - 1) * 2 ^ pos)).getLsbD k = decide (pos ≤ k ∧ k < pos + len) := by
  rw [BitVec.getLsbD_ofNat, Nat.testBit_mul_two_pow, Nat.testBit_two_pow_sub_one, Bool.eq_iff_iff]
  simp only [Bool.and_eq_true, decide_eq_true_eq]
  omega

theorem getLsbD_bfi (a b c : W32) {k : Nat} (hk : k < 32) : (bfi a b c).getLsbD k =
    if fieldPos b ≤ k ∧ k < fieldPos b + fieldLen b (b.toNat / 256) then a.getLsbD (k - fieldPos b) else c.getLsbD k := by
  simp only [bfi_eq, BitVec.getLsbD_or, BitVec.getLsbD_and, BitVec.getLsbD_not, BitVec.getLsbD_shiftLeft, getLsbD_fieldMask _ _ hk, hk]
  split
  next h => simp [h]
  next h => simp [h]

/-- Settles O7: each bit of a field word comes from the bit of a or c that R85 and R86 name. -/
theorem fieldWords : Obligations.FieldWords :=
  ⟨⟨⟨bfe false, fun _ => int3_of_exec fun _ => rfl, fun a b c _ => getLsbD_bfe_unsigned a b c⟩,
      ⟨bfe true, fun _ => int3_of_exec fun _ => rfl, fun a b c _ => getLsbD_bfe_signed a b c⟩⟩,
    bfi, fun _ => int3_of_exec fun _ => rfl, fun a b c _ => getLsbD_bfi a b c⟩

/-! Words built bit by bit -/

/-- A word joined from parts has the bits of its parts. -/
theorem getLsbD_foldl_or {w : Nat} (f : Nat → BitVec w) (k : Nat) : ∀ (is : List Nat) (r : BitVec w),
    (is.foldl (fun r i => r ||| f i) r).getLsbD k = (r.getLsbD k || is.any fun i => (f i).getLsbD k)
  | [], r => by simp
  | i :: is, r => by simp [getLsbD_foldl_or f k is, Bool.or_assoc]

theorem getLsbD_one_shiftLeft (i : Nat) {k : Nat} (hk : k < 32) : (1#32 <<< i).getLsbD k = decide (i = k) := by
  rw [← BitVec.twoPow_eq, BitVec.getLsbD_twoPow, Bool.eq_iff_iff]
  simp only [Bool.and_eq_true, decide_eq_true_eq]
  omega

/-- One bit of a word at a place, or none. -/
theorem getLsbD_bit (p : Bool) (i : Nat) {k : Nat} (hk : k < 32) : (if p then 1#32 <<< i else 0#32).getLsbD k = (p && decide (i = k)) := by
  cases p
  · simp
  · exact getLsbD_one_shiftLeft i hk

theorem brev_eq (a : W32) : brev a = (List.range 32).foldl (fun r i => r ||| if a.getLsbD i then 1#32 <<< (31 - i) else 0#32) 0 := by
  have step : (fun (r : W32) i => if a.getLsbD i then r ||| (1#32 <<< (31 - i)) else r) =
      fun r i => r ||| if a.getLsbD i then 1#32 <<< (31 - i) else 0#32 := by
    funext r i
    split
    · rfl
    · exact BitVec.or_zero.symm
  rw [brev, step]

theorem getLsbD_brev (a : W32) {k : Nat} (hk : k < 32) : (brev a).getLsbD k = a.getLsbD (31 - k) := by
  rw [brev_eq, getLsbD_foldl_or, Bool.eq_iff_iff]
  simp only [getLsbD_bit _ _ hk, BitVec.ofNat_eq_ofNat, BitVec.getLsbD_zero, Bool.false_or, List.any_eq_true, List.mem_range, Bool.and_eq_true,
    decide_eq_true_eq]
  constructor
  · rintro ⟨i, hi, h, rfl⟩
    rwa [show 31 - (31 - i) = i by omega]
  · exact fun h => ⟨31 - k, by omega, h, by omega⟩

theorem hcell_eq (x y z : W32) : hcell x y z = (List.range 10).foldl (fun r k => r |||
    ((if x.getLsbD k then 1#32 <<< (3 * k) else 0#32) ||| (if y.getLsbD k then 1#32 <<< (3 * k + 1) else 0#32) |||
      if z.getLsbD k then 1#32 <<< (3 * k + 2) else 0#32)) 0 := by
  simp only [hcell, BitVec.or_assoc, BitVec.ofNat_eq_ofNat]

/-- R88: bit `j` of the key is bit `j / 3` of the coordinate that `j % 3` chooses. -/
theorem getLsbD_hcell_iff (x y z : W32) {j : Nat} (hj : j < 32) : (hcell x y z).getLsbD j = true ↔ j < 30 ∧
    ((j % 3 = 0 ∧ x.getLsbD (j / 3) = true) ∨ (j % 3 = 1 ∧ y.getLsbD (j / 3) = true) ∨ (j % 3 = 2 ∧ z.getLsbD (j / 3) = true)) := by
  rw [hcell_eq, getLsbD_foldl_or]
  simp only [BitVec.getLsbD_or, getLsbD_bit _ _ hj, BitVec.ofNat_eq_ofNat, BitVec.getLsbD_zero, Bool.false_or, List.any_eq_true, List.mem_range,
    Bool.or_eq_true, Bool.and_eq_true, decide_eq_true_eq]
  constructor
  · rintro ⟨k, hk, (⟨h, rfl⟩ | ⟨h, rfl⟩) | ⟨h, rfl⟩⟩
    · exact ⟨by omega, .inl ⟨by omega, by rwa [show 3 * k / 3 = k by omega]⟩⟩
    · exact ⟨by omega, .inr (.inl ⟨by omega, by rwa [show (3 * k + 1) / 3 = k by omega]⟩)⟩
    · exact ⟨by omega, .inr (.inr ⟨by omega, by rwa [show (3 * k + 2) / 3 = k by omega]⟩)⟩
  · rintro ⟨hlt, ⟨hm, h⟩ | ⟨hm, h⟩ | ⟨hm, h⟩⟩
    · exact ⟨j / 3, by omega, .inl (.inl ⟨h, by omega⟩)⟩
    · exact ⟨j / 3, by omega, .inl (.inr ⟨h, by omega⟩)⟩
    · exact ⟨j / 3, by omega, .inr ⟨h, by omega⟩⟩

theorem getLsbD_hcell (x y z : W32) {k : Nat} (hk : k < 10) : (hcell x y z).getLsbD (3 * k) = x.getLsbD k ∧
    (hcell x y z).getLsbD (3 * k + 1) = y.getLsbD k ∧ (hcell x y z).getLsbD (3 * k + 2) = z.getLsbD k := by
  refine ⟨?_, ?_, ?_⟩ <;> rw [Bool.eq_iff_iff, getLsbD_hcell_iff x y z (by omega)]
  · simp [show 3 * k < 30 by omega]
  · simp [show 3 * k + 1 < 30 by omega, show (3 * k + 1) % 3 = 1 by omega, show (3 * k + 1) / 3 = k by omega]
  · simp [show 3 * k + 2 < 30 by omega, show (3 * k + 2) % 3 = 2 by omega, show (3 * k + 2) / 3 = k by omega]

theorem getLsbD_hcell_high (x y z : W32) {j : Nat} (hj : 30 ≤ j) : (hcell x y z).getLsbD j = false := by
  by_cases h : j < 32
  · rw [Bool.eq_false_iff, ne_eq, getLsbD_hcell_iff x y z h]
    omega
  · exact BitVec.getLsbD_of_ge _ _ (by omega)

/-! Counts -/

theorem popLow_eq_length (a : W32) (n : Nat) : popLow a n = ((List.range n).filter a.getLsbD).length := by
  have go : ∀ (is : List Nat) (c : Nat), is.foldl (fun c i => if a.getLsbD i then c + 1 else c) c = c + (is.filter a.getLsbD).length := by
    intro is
    induction is with
    | nil => simp
    | cons i is ih =>
      intro c
      by_cases h : a.getLsbD i = true
      · simp [ih, h]
        omega
      · simp [ih, h]
  simpa [popLow] using go (List.range n) 0

/-- R87: no bit at 32 or above counts. -/
theorem onesBelow_eq_popLow (a : W32) (n : Nat) : onesBelow a n = popLow a (min n 32) := by
  have parts : List.range 32 = List.range (min n 32) ++ (List.range (32 - min n 32)).map (min n 32 + ·) := by
    rw [← List.range_add, Nat.add_sub_cancel' (Nat.min_le_right n 32)]
  have low : (List.range (min n 32)).filter (fun i => decide (i < n) && a.getLsbD i) = (List.range (min n 32)).filter a.getLsbD :=
    List.filter_congr fun i hi => by simp [show i < n from Nat.lt_of_lt_of_le (List.mem_range.mp hi) (Nat.min_le_left n 32)]
  have high : ((List.range (32 - min n 32)).map (min n 32 + ·)).filter (fun i => decide (i < n) && a.getLsbD i) = [] := by
    simp only [List.filter_eq_nil_iff, List.mem_map, List.mem_range, Bool.and_eq_true, decide_eq_true_eq]
    rintro _ ⟨i, hi, rfl⟩ ⟨hn, -⟩
    omega
  rw [popLow_eq_length, onesBelow, parts, List.filter_append, low, high, List.append_nil]

theorem onesBelow_le (a : W32) (n : Nat) : onesBelow a n ≤ 32 :=
  (List.length_filter_le _ _).trans_eq (List.length_range)

theorem toNat_popcLo (a b : W32) : (popcLo a b).toNat = onesBelow a b.toNat := by
  have := onesBelow_le a b.toNat
  rw [popcLo, ← onesBelow_eq_popLow, BitVec.toNat_ofNat]
  omega

theorem toNat_popc (a : W32) : (popc a).toNat = onesBelow a 32 := toNat_popcLo a 32

/-! The highest and the lowest 1 -/

theorem toNat_ne_zero {a : W32} (ha : a ≠ 0) : a.toNat ≠ 0 := BitVec.toNat_ne.mp ha

theorem log2_lt_32 {a : W32} (ha : a ≠ 0) : a.toNat.log2 < 32 := (Nat.log2_lt (toNat_ne_zero ha)).mpr a.isLt

theorem getLsbD_log2 {a : W32} (ha : a ≠ 0) : a.getLsbD a.toNat.log2 = true := Nat.testBit_log2 (toNat_ne_zero ha)

theorem getLsbD_of_log2_lt {a : W32} {k : Nat} (hk : a.toNat.log2 < k) : a.getLsbD k = false :=
  Nat.testBit_lt_two_pow (Nat.lt_of_lt_of_le Nat.lt_log2_self (Nat.pow_le_pow_right (by decide) hk))

theorem toNat_clz {a : W32} (ha : a ≠ 0) : (clz a).toNat = 31 - a.toNat.log2 := by
  have := log2_lt_32 ha
  rw [clz, bitLen, if_neg (toNat_ne_zero ha), BitVec.toNat_ofNat]
  omega

theorem clz_spec {a : W32} (ha : a ≠ 0) : (clz a).toNat ≤ 31 ∧ a.getLsbD (31 - (clz a).toNat) = true ∧
    ∀ k, 31 - (clz a).toNat < k → a.getLsbD k = false := by
  have hl := log2_lt_32 ha
  have hc : 31 - (clz a).toNat = a.toNat.log2 := by rw [toNat_clz ha]; omega
  rw [hc]
  exact ⟨by rw [toNat_clz ha]; omega, getLsbD_log2 ha, fun _ => getLsbD_of_log2_lt⟩

/-- A number and its negation share the lowest 1 and nothing else. -/
theorem getLsbD_and_neg_iff (a : W32) (k : Nat) : (a &&& -a).getLsbD k = true ↔ a.getLsbD k = true ∧ ∀ j < k, a.getLsbD j = false := by
  rw [BitVec.getLsbD_and, BitVec.getLsbD_neg, Bool.and_eq_true]
  refine and_congr_right fun hk => ?_
  have hlt : k < 32 := BitVec.lt_of_getLsbD hk
  simp only [hk, hlt, decide_true, Bool.true_and, Bool.true_xor, Bool.not_eq_true', decide_eq_false_iff_not, not_exists, not_and, Bool.not_eq_true]

theorem and_neg_ne_zero {a : W32} (ha : a ≠ 0) : a &&& -a ≠ 0 := by
  have hex : ∃ k, a.getLsbD k = true := ⟨_, getLsbD_log2 ha⟩
  intro h0
  have hlow := (getLsbD_and_neg_iff a (Nat.find hex)).mpr ⟨Nat.find_spec hex, fun j hj => by simpa using Nat.find_min hex hj⟩
  simp [h0] at hlow

theorem toNat_ctz {a : W32} (ha : a ≠ 0) : (ctz a).toNat = (a &&& -a).toNat.log2 := by
  have := log2_lt_32 (and_neg_ne_zero ha)
  rw [ctz, if_neg ha, BitVec.toNat_ofNat]
  omega

theorem ctz_spec {a : W32} (ha : a ≠ 0) : (ctz a).toNat ≤ 31 ∧ a.getLsbD (ctz a).toNat = true ∧ ∀ k, k < (ctz a).toNat → a.getLsbD k = false := by
  rw [toNat_ctz ha]
  exact ⟨Nat.le_of_lt_succ (log2_lt_32 (and_neg_ne_zero ha)), (getLsbD_and_neg_iff a _).mp (getLsbD_log2 (and_neg_ne_zero ha))⟩

/-- Settles O8: the counts and the places of the highest and lowest 1 are those of R87, and the bits of a key those of R88. -/
theorem bitCountsAndMortonKeys : Obligations.BitCountsAndMortonKeys :=
  ⟨⟨⟨brev, fun _ => int1_of_exec fun _ => rfl, fun a _ => getLsbD_brev a⟩,
      ⟨popc, fun _ => int1_of_exec fun _ => rfl, fun _ => int1_of_exec fun _ => rfl, toNat_popc⟩,
      ⟨popcLo, fun _ => int2_of_exec fun _ => rfl, fun _ => int2_of_exec fun _ => rfl, toNat_popcLo⟩,
      ⟨clz, fun _ => int1_of_exec fun _ => rfl, fun _ => int1_of_exec fun _ => rfl, fun _ => ⟨fun h => h ▸ by decide, clz_spec⟩⟩,
      ⟨ctz, fun _ => int1_of_exec fun _ => rfl, fun _ => ⟨fun h => h ▸ by decide, ctz_spec⟩⟩⟩,
    hcell, fun _ => int3_of_exec fun _ => rfl, fun _ => int3_of_exec fun _ => rfl, fun x y z _ => getLsbD_hcell x y z,
    fun x y z _ => getLsbD_hcell_high x y z⟩

end Sys2Proof.Machine
end

section
/-!
PROOFS. Minimum and maximum (R95, Table 4.6): the model's order of encodings is that of their values, with -0 below +0.
-/

namespace Sys2Proof.Machine

/-! The order of values -/

theorem signedAt_mul_zpow (n : Bool) (m : Nat) {e q : Int} (h : q ≤ e) : (signedAt n m e q : ℚ) * (2 : ℚ) ^ q = (FVal.fin n m e).rat := by
  have hpow : (2 : ℚ) ^ (e - q).toNat * (2 : ℚ) ^ q = (2 : ℚ) ^ e := by
    rw [← zpow_natCast, ← zpow_add₀ two_ne_zero, Int.toNat_of_nonneg (Int.sub_nonneg.mpr h), Int.sub_add_cancel]
  cases n <;> simp [signedAt, FVal.rat, Nat.shiftLeft_eq, mul_assoc, hpow]

theorem ite_lt_eq_cmp (a b : Int) : (if a < b then Ordering.lt else if a = b then .eq else .gt) = cmp a b := by
  rcases lt_trichotomy a b with h | h | h
  · rw [if_pos h, h.cmp_eq_lt]
  · rw [if_neg h.not_lt, if_pos h, h.cmp_eq_eq]
  · rw [if_neg h.asymm, if_neg h.ne', h.cmp_eq_gt]

/-- Finite values are in the order of the numbers they denote. -/
theorem cmp_of_finite {x y : FVal} (hx : x.finite) (hy : y.finite) : x.cmp y = cmp x.rat y.rat := by
  cases x with
  | nan => exact hx.elim
  | inf => exact hx.elim
  | fin n1 m1 e1 =>
    cases y with
    | nan => exact hy.elim
    | inf => exact hy.elim
    | fin n2 m2 e2 =>
      have h1 : (if e1 ≤ e2 then e1 else e2) ≤ e1 := by split <;> omega
      have h2 : (if e1 ≤ e2 then e1 else e2) ≤ e2 := by split <;> omega
      rw [← signedAt_mul_zpow n1 m1 h1, ← signedAt_mul_zpow n2 m2 h2, cmp_mul_pos_right (zpow_pos two_pos _), Int.cast_strictMono.cmp_map_eq]
      exact ite_lt_eq_cmp _ _

theorem cmp_of_rat_eq {x y : FVal} (hx : x.finite) (hy : y.finite) (h : x.rat = y.rat) : x.cmp y = .eq :=
  (cmp_of_finite hx hy).trans ((cmp_eq_eq_iff _ _).mpr h)

theorem swap_cmp (x y : FVal) : (x.cmp y).swap = y.cmp x := by
  cases x with
  | nan =>
    cases y with
    | inf b => cases b <;> rfl
    | nan => rfl
    | fin => rfl
  | inf a =>
    cases y with
    | inf b => cases a <;> cases b <;> rfl
    | nan => cases a <;> rfl
    | fin => cases a <;> rfl
  | fin n1 m1 e1 =>
    cases y with
    | nan => rfl
    | inf b => cases b <;> rfl
    | fin n2 m2 e2 =>
      have h1 : (FVal.fin n1 m1 e1).finite := trivial
      have h2 : (FVal.fin n2 m2 e2).finite := trivial
      rw [cmp_of_finite h1 h2, cmp_of_finite h2 h1, cmp_swap]

theorem cmp_of_below {x y : FVal} (h : x.below y) : x.cmp y = .lt := by
  obtain ⟨hx, hy, hne, rfl | rfl | ⟨fx, fy, hlt⟩⟩ := h
  · cases y with
    | nan => cases hy
    | inf b => cases b <;> simp_all [FVal.cmp]
    | fin => rfl
  · cases x with
    | nan => cases hx
    | inf a => cases a <;> simp_all [FVal.cmp]
    | fin => rfl
  · rw [cmp_of_finite fx fy, cmp_eq_lt_iff]
    exact hlt

theorem cmp_of_below_swap {x y : FVal} (h : y.below x) : x.cmp y = .gt := by
  rw [← swap_cmp, cmp_of_below h]
  rfl

/-! The order of encodings -/

/-- R95: an encoding that stands below is the lesser one. -/
theorem Fmt.lesser_of_beforeZ {f : Fmt} {x y : Nat} (h : f.beforeZ x y) : f.lesser x y = true := by
  obtain h | ⟨fx, fy, hx, hy, sx, -⟩ := h
  · simp only [Fmt.lesser, cmp_of_below h]
  · simpa only [Fmt.lesser, cmp_of_rat_eq fx.2 fy.2 (hx.trans hy.symm)] using sx

theorem Fmt.not_lesser_of_beforeZ {f : Fmt} {x y : Nat} (h : f.beforeZ y x) : f.lesser x y = false := by
  obtain h | ⟨fy, fx, hy, hx, -, sx⟩ := h
  · simp only [Fmt.lesser, cmp_of_below_swap h]
  · simpa only [Fmt.lesser, cmp_of_rat_eq fx.2 fy.2 (hx.trans hy.symm)] using sx

theorem Fmt.beforeZ_irrefl (f : Fmt) (x : Nat) : ¬ f.beforeZ x x := fun h => by
  cases (Fmt.lesser_of_beforeZ h).symm.trans (Fmt.not_lesser_of_beforeZ h)

/-! The operation -/

theorem FVal.sig_or_sig (a b : FVal) : a.sig ||| b.sig = sigFlags a b := by
  rcases a with (_ | _) | _ | _ <;> rcases b with (_ | _) | _ | _ <;> simp [FVal.sig, sigFlags, Flags.invalid, Flags.none]

section
variable {f : Fmt} {mx np : Bool} {x y : Nat}

theorem Fmt.minmax_flags : (f.minmax mx np x y).flags = sigFlags (f.value x) (f.value y) := by
  rw [← FVal.sig_or_sig]
  simp only [Fmt.minmax]
  split
  · rfl
  · split
    · rfl
    · split <;> rfl

theorem Fmt.minmax_of_nans (hx : (f.value x).isNan = true) (hy : (f.value y).isNan = true) : (f.minmax mx np x y).bits = f.nan := by
  simp [Fmt.minmax, hx, hy]

theorem Fmt.minmax_of_nan_left (hy : y < 2 ^ f.width) (nx : (f.value x).isNan = true) (ny : (f.value y).isNan = false) :
    (f.minmax mx np x y).bits = if np then f.nan else y := by
  simp [Fmt.minmax, nx, ny, Nat.mod_eq_of_lt hy]

theorem Fmt.minmax_of_nan_right (hx : x < 2 ^ f.width) (nx : (f.value x).isNan = false) (ny : (f.value y).isNan = true) :
    (f.minmax mx np x y).bits = if np then f.nan else x := by
  simp [Fmt.minmax, nx, ny, Nat.mod_eq_of_lt hx]

theorem Fmt.minmax_of_numbers (hx : x < 2 ^ f.width) (hy : y < 2 ^ f.width) (nx : (f.value x).isNan = false) (ny : (f.value y).isNan = false) :
    (f.minmax mx np x y).bits = if f.lesser x y != mx then x else y := by
  simp only [Fmt.minmax, nx, ny, Bool.and_self, Bool.false_eq_true, if_false]
  split
  · exact Nat.mod_eq_of_lt hx
  · exact Nat.mod_eq_of_lt hy

/-- R95: the lesser of two numbers has neither below it, and the greater is below neither. -/
theorem Fmt.minmax_extreme (hx : x < 2 ^ f.width) (hy : y < 2 ^ f.width) (nx : (f.value x).isNan = false) (ny : (f.value y).isNan = false) :
    ((f.minmax mx np x y).bits = x ∨ (f.minmax mx np x y).bits = y) ∧
      if mx then ¬ f.beforeZ (f.minmax mx np x y).bits x ∧ ¬ f.beforeZ (f.minmax mx np x y).bits y
      else ¬ f.beforeZ x (f.minmax mx np x y).bits ∧ ¬ f.beforeZ y (f.minmax mx np x y).bits := by
  have yx (h : f.lesser x y = true) : ¬ f.beforeZ y x := fun hb => by cases h.symm.trans (Fmt.not_lesser_of_beforeZ hb)
  have xy (h : f.lesser x y = false) : ¬ f.beforeZ x y := fun hb => by cases h.symm.trans (Fmt.lesser_of_beforeZ hb)
  rw [Fmt.minmax_of_numbers hx hy nx ny]
  cases h : f.lesser x y <;> cases mx <;> simp [Fmt.beforeZ_irrefl, xy, yx, h]

end

theorem half2_minmax_of_exec {i : Instr} {f : Form} {bf : BitVec 1} {mx np : Bool}
    (h : ∀ s, exec i s = halfOp2 bf f (fun f _ x y => f.minmax mx np x y) s) : Half2 i f fun _ x y => (halfFmt bf).minmax mx np x y :=
  half2_of_exec (op := fun f _ x y => f.minmax mx np x y) h

/-- Settles O17: each word delivers `Fmt.minmax`, which takes of two numbers the one that no other stands before, and of a NaN what Table 4.6 says. -/
theorem minimumAndMaximum : Obligations.MinimumAndMaximum :=
  ⟨fun _ _ _ _ => ⟨fp2_of_exec fun _ => rfl, fp2_of_exec fun _ => rfl, fp2_of_exec fun _ => rfl, fp2_of_exec fun _ => rfl,
      fp2_of_exec fun _ => rfl, fp2_of_exec fun _ => rfl, fp2_of_exec fun _ => rfl, fp2_of_exec fun _ => rfl,
      half2_minmax_of_exec fun _ => rfl, half2_minmax_of_exec fun _ => rfl, half2_minmax_of_exec fun _ => rfl, half2_minmax_of_exec fun _ => rfl,
      fp2_of_exec fun _ => rfl, fp2_of_exec fun _ => rfl, fp2_of_exec fun _ => rfl, fp2_of_exec fun _ => rfl⟩,
    fun _ _ _ _ _ _ hx hy => ⟨Fmt.minmax_flags, Fmt.minmax_extreme hx hy, Fmt.minmax_of_nan_left hy, Fmt.minmax_of_nan_right hx, Fmt.minmax_of_nans⟩⟩

end Sys2Proof.Machine
end

section
/-!
PROOFS. Sign operations and classes (R96): the bits of `fabs` and `fneg`, and what the class mask says of a value.
-/

namespace Sys2Proof.Machine

/-! Signs -/

theorem Fmt.testBit_of_sign_lt {f : Fmt} {x k : Nat} (hx : x < 2 ^ f.width) (hk : f.e + f.m < k) : x.testBit k = false :=
  Nat.testBit_lt_two_pow (Nat.lt_of_lt_of_le hx (Nat.pow_le_pow_right (by decide) (by simp only [Fmt.width]; omega)))

theorem Fmt.testBit_abs {f : Fmt} {x : Nat} (hx : x < 2 ^ f.width) (k : Nat) :
    (f.abs x).bits.testBit k = (decide (k ≠ f.e + f.m) && x.testBit k) := by
  rw [Fmt.abs, Nat.testBit_mod_two_pow]
  rcases lt_trichotomy k (f.e + f.m) with h | h | h
  · simp [h, h.ne]
  · simp [h]
  · simp [Fmt.testBit_of_sign_lt hx h]

/-- A sign set above a magnitude. -/
theorem Fmt.testBit_add_signBits {f : Fmt} {y : Nat} (hy : y < 2 ^ (f.e + f.m)) (n : Bool) (k : Nat) :
    (y + f.signBits n).testBit k = if k = f.e + f.m then n else y.testBit k := by
  have hsign : y.testBit (f.e + f.m) = false := Nat.testBit_lt_two_pow hy
  cases n
  · split
    next h => simpa [Fmt.signBits, h] using hsign
    next => rfl
  · simp only [Fmt.signBits, if_true, Nat.add_comm y]
    rcases lt_trichotomy k (f.e + f.m) with h | h | h
    · rw [Nat.testBit_two_pow_add_gt h, if_neg h.ne]
    · rw [h, Nat.testBit_two_pow_add_eq, hsign, if_pos rfl, Bool.not_false]
    · have hpow : 2 ^ (f.e + f.m) + 2 ^ (f.e + f.m) ≤ 2 ^ k := by
        rw [← Nat.two_mul, ← Nat.pow_succ']
        exact Nat.pow_le_pow_right (by decide) h
      rw [Nat.testBit_lt_two_pow (by omega), if_neg h.ne', Nat.testBit_lt_two_pow (by omega)]

theorem Fmt.testBit_neg {f : Fmt} {x : Nat} (hx : x < 2 ^ f.width) (k : Nat) :
    (f.neg x).bits.testBit k = (decide (k = f.e + f.m) != x.testBit k) := by
  rw [Fmt.neg, Fmt.testBit_add_signBits (Nat.mod_lt _ (Nat.two_pow_pos _)), Nat.testBit_mod_two_pow]
  rcases lt_trichotomy k (f.e + f.m) with h | h | h
  · simp [h, h.ne]
  · simp [h]
  · simp [h.ne', Fmt.testBit_of_sign_lt hx h]

/-! Classes -/

theorem FVal.rat_fin (n : Bool) (m : Nat) (e : Int) : (FVal.fin n m e).rat = if n then -((m : ℚ) * (2 : ℚ) ^ e) else (m : ℚ) * (2 : ℚ) ^ e := by
  cases n <;> simp [FVal.rat]

/-- R53: a finite value is a subnormal or a zero, with exponent field 0, or has the leading 1 of its significand. -/
theorem Fmt.value_eq_fin {f : Fmt} (hf : f.inf = true) {x m : Nat} {n : Bool} {e : Int} (h : f.value x = .fin n m e) :
    ((x >>> f.m) % 2 ^ f.e = 0 ∧ m < 2 ^ f.m ∧ e = f.qmin) ∨ ((x >>> f.m) % 2 ^ f.e ≠ 0 ∧ 2 ^ f.m ≤ m ∧ f.qmin ≤ e) := by
  simp only [Fmt.value, hf, if_true] at h
  split at h
  · split at h <;> cases h
  · split at h
    next h0 =>
      cases h
      exact .inl ⟨h0, Nat.mod_lt _ (Nat.two_pow_pos _), rfl⟩
    next h0 =>
      cases h
      exact .inr ⟨h0, Nat.le_add_left _ _, by omega⟩

theorem Fmt.two_zpow_emin (f : Fmt) : (2 : ℚ) ^ f.emin = (2 : ℚ) ^ f.m * (2 : ℚ) ^ f.qmin := by
  rw [← zpow_natCast, ← zpow_add₀ two_ne_zero, Fmt.qmin, add_sub_cancel]

/-- A significand below the leading 1 stands for less than the least normal. -/
theorem Fmt.subnormal_lt_emin {f : Fmt} {m : Nat} (h : m < 2 ^ f.m) : (m : ℚ) * (2 : ℚ) ^ f.qmin < (2 : ℚ) ^ f.emin := by
  rw [Fmt.two_zpow_emin]
  exact mul_lt_mul_of_pos_right (by exact_mod_cast h) (zpow_pos two_pos _)

theorem Fmt.emin_le_normal {f : Fmt} {m : Nat} {e : Int} (h : 2 ^ f.m ≤ m) (he : f.qmin ≤ e) : (2 : ℚ) ^ f.emin ≤ (m : ℚ) * (2 : ℚ) ^ e := by
  rw [Fmt.two_zpow_emin]
  exact mul_le_mul (by exact_mod_cast h) (zpow_le_zpow_right₀ one_le_two he) (zpow_pos two_pos _).le (Nat.cast_nonneg m)

/-- R96: what it says of an encoding that its class is number `k`, from -∞ to quiet NaN. -/
def Fmt.OfClass (f : Fmt) (x k : Nat) : Prop :=
  (k = 0 ↔ f.value x = .inf true) ∧ (k = 7 ↔ f.value x = .inf false) ∧ (k = 8 ↔ f.value x = .nan true) ∧ (k = 9 ↔ f.value x = .nan false) ∧
    (k = 3 ↔ f.value x = .fin true 0 f.qmin) ∧ (k = 4 ↔ f.value x = .fin false 0 f.qmin) ∧
    (k = 1 ↔ f.finite x ∧ f.rat x ≤ -(2 : ℚ) ^ f.emin) ∧ (k = 6 ↔ f.finite x ∧ (2 : ℚ) ^ f.emin ≤ f.rat x) ∧
    (k = 2 ↔ f.finite x ∧ -(2 : ℚ) ^ f.emin < f.rat x ∧ f.rat x < 0) ∧ (k = 5 ↔ f.finite x ∧ 0 < f.rat x ∧ f.rat x < (2 : ℚ) ^ f.emin)

section
variable {f : Fmt} {x : Nat}

theorem Fmt.ofClass_inf {n : Bool} (h : f.value x = .inf n) : f.OfClass x (if n then 0 else 7) := by
  cases n <;> simp [Fmt.OfClass, Fmt.finite, FVal.finite, h]

theorem Fmt.ofClass_nan {s : Bool} (h : f.value x = .nan s) : f.OfClass x (if s then 8 else 9) := by
  cases s <;> simp [Fmt.OfClass, Fmt.finite, FVal.finite, h]

theorem Fmt.ofClass_zero {n : Bool} (h : f.value x = .fin n 0 f.qmin) : f.OfClass x (if n then 3 else 4) := by
  have hpos : (0 : ℚ) < (2 : ℚ) ^ f.emin := zpow_pos two_pos _
  have hrat : f.rat x = 0 := by simp [Fmt.rat, h, FVal.rat]
  cases n <;> simp [Fmt.OfClass, h, hrat, hpos, hpos.not_ge]

theorem Fmt.rat_of_fin {n : Bool} {m : Nat} {e : Int} (h : f.value x = .fin n m e) :
    f.rat x = if n then -((m : ℚ) * (2 : ℚ) ^ e) else (m : ℚ) * (2 : ℚ) ^ e := (congrArg FVal.rat h).trans (FVal.rat_fin n m e)

/-- A nonzero finite value below the least normal. -/
theorem Fmt.ofClass_subnormal {n : Bool} {m : Nat} {e : Int} {r : ℚ} (hx : x < 2 ^ f.width) (h : f.value x = .fin n m e) (hm : m ≠ 0)
    (hrat : f.rat x = if n then -r else r) (hpos : 0 < r) (hlt : r < (2 : ℚ) ^ f.emin) : f.OfClass x (if n then 2 else 5) := by
  have hfin : f.finite x := ⟨hx, h ▸ trivial⟩
  have hneg : ¬ (2 : ℚ) ^ f.emin ≤ -r := by linarith
  have hneg' : -(2 : ℚ) ^ f.emin < r := by linarith
  cases n <;> simp [Fmt.OfClass, hrat, hfin, h, hm, hlt, hlt.not_ge, hpos, hpos.not_gt, hneg, hneg']

/-- A finite value of at least the least normal's magnitude. -/
theorem Fmt.ofClass_normal {n : Bool} {m : Nat} {e : Int} {r : ℚ} (hx : x < 2 ^ f.width) (h : f.value x = .fin n m e) (hm : m ≠ 0)
    (hrat : f.rat x = if n then -r else r) (hle : (2 : ℚ) ^ f.emin ≤ r) : f.OfClass x (if n then 1 else 6) := by
  have hfin : f.finite x := ⟨hx, h ▸ trivial⟩
  have hp : (0 : ℚ) < (2 : ℚ) ^ f.emin := zpow_pos two_pos _
  have hpos : 0 < r := by linarith
  have hneg : ¬ (2 : ℚ) ^ f.emin ≤ -r := by linarith
  have hneg' : ¬ r ≤ -(2 : ℚ) ^ f.emin := by linarith
  cases n <;> simp [Fmt.OfClass, hrat, hfin, h, hm, hle, hle.not_gt, hpos.not_gt, hneg, hneg']

/-- R96: the mask is one bit, that of the class. -/
theorem Fmt.classMask_eq_two_pow (hf : f.inf = true) (hx : x < 2 ^ f.width) : ∃ k, f.classMask x = 2 ^ k ∧ k ≤ 9 ∧ f.OfClass x k := by
  cases h : f.value x with
  | nan s => exact ⟨_, by cases s <;> simp [Fmt.classMask, h], by cases s <;> decide, Fmt.ofClass_nan h⟩
  | inf n => exact ⟨_, by cases n <;> simp [Fmt.classMask, h], by cases n <;> decide, Fmt.ofClass_inf h⟩
  | fin n m e =>
    obtain ⟨h0, hm, rfl⟩ | ⟨h0, hm, he⟩ := Fmt.value_eq_fin hf h
    · by_cases hz : m = 0
      · subst hz
        exact ⟨_, by cases n <;> simp [Fmt.classMask, h], by cases n <;> decide, Fmt.ofClass_zero h⟩
      · exact ⟨_, by cases n <;> simp [Fmt.classMask, h, hz, h0], by cases n <;> decide,
          Fmt.ofClass_subnormal hx h hz (Fmt.rat_of_fin h) (mul_pos (by exact_mod_cast Nat.pos_of_ne_zero hz) (zpow_pos two_pos _))
            (Fmt.subnormal_lt_emin hm)⟩
    · have hz : m ≠ 0 := (Nat.lt_of_lt_of_le (Nat.two_pow_pos _) hm).ne'
      exact ⟨_, by cases n <;> simp [Fmt.classMask, h, hz, h0], by cases n <;> decide,
        Fmt.ofClass_normal hx h hz (Fmt.rat_of_fin h) (Fmt.emin_le_normal hm he)⟩

end

/-- Settles O18: `fabs` and `fneg` deliver the bits of their operand but for its sign, and the mask of `fclass` is the bit of the value's class. -/
theorem signsAndClasses : Obligations.SignsAndClasses :=
  ⟨fun _ _ _ => ⟨fp1_of_exec fun _ => rfl, fp1_of_exec fun _ => rfl, fp1_of_exec fun _ => rfl, fp1_of_exec fun _ => rfl,
      half1_of_exec fun _ => rfl, half1_of_exec fun _ => rfl, fp1_of_exec fun _ => rfl, fp1_of_exec fun _ => rfl,
      laneFixed_of_exec fun _ => rfl, laneFixed_of_exec fun _ => rfl⟩,
    fun _ _ _ k hx => ⟨rfl, rfl, Fmt.testBit_abs hx k, Fmt.testBit_neg hx k⟩,
    fun f hf _ hx => Fmt.classMask_eq_two_pow (by fin_cases hf <;> rfl) hx⟩

end Sys2Proof.Machine
end

section
/-!
PROOFS. Conditional transfers (R103): the outcome of each way that a guard and a target can stand.
-/

namespace Sys2Proof.Machine

/-- R14: the model's test of an address is that its 57-bit form stands for it. -/
theorem canonical_iff (a : W64) : canonical a = true ↔ (a.setWidth 57).signExtend 64 = a := by
  rw [canonical, beq_iff_eq, BitVec.setWidth_eq_extractLsb' (by decide)]

/-- R103: a unit with the address of its following word pending in the link register, if the transfer has one. -/
def Unit.linked (u : Unit) : Option Nat → Unit
  | some r => u.writeVar [⟨.u, r, [(0, u.pc.signExtend 64 + 8)]⟩] 0
  | none => u

theorem Unit.linked_step (u : Unit) (link : Option Nat) : (u.linked link).step = u.step := by cases link <;> rfl

/-! The outcomes of a transfer that passes its checks -/

section
variable {s : State} {uid : Nat} {u : Unit} {sh : Shape} {link : Option Nat} {target : Unit → W64} (hc : s.Clear uid u sh)
include hc

theorem transferOp_of_false (h0 : (u.touchAll sh).guarded sh.guard = 0) :
    transferOp sh link target s = .next (s.retire uid (u.touchAll sh) sh) :=
  (State.issue_of hc _).trans (congrArg _ (if_pos h0))

variable (h0 : (u.touchAll sh).guarded sh.guard ≠ 0)
include h0

theorem transferOp_of_split (hs : (u.touchAll sh).guarded sh.guard ≠ (u.touchAll sh).active) :
    transferOp sh link target s = .next (s.raise uid (u.touchAll sh) sh.len 0x0D ((u.touchAll sh).guarded sh.guard)) :=
  (State.issue_of hc _).trans (congrArg _ ((if_neg h0).trans (if_neg hs)))

variable (ht : (u.touchAll sh).guarded sh.guard = (u.touchAll sh).active)
include ht

/-- A transfer that every active lane takes traps on its target or goes to it. -/
theorem transferOp_of_taken : transferOp sh link target s =
    let v := u.touchAll sh
    let a := target v
    .next (if a.getLsbD 0 then s.raise uid v sh.len 0x04 a
      else if !canonical a then s.raise uid v sh.len 0x12 a
      else s.setUnit uid { (v.linked link).advance sh.len sh.stall s.tick with pc := a.setWidth 57 }) :=
  (State.issue_of hc _).trans (congrArg _ ((if_neg h0).trans ((if_pos ht).trans (by cases link <;> rfl))))

theorem transferOp_of_odd (odd : (target (u.touchAll sh)).getLsbD 0 = true) :
    transferOp sh link target s = .next (s.raise uid (u.touchAll sh) sh.len 0x04 (target (u.touchAll sh))) :=
  (transferOp_of_taken hc h0 ht).trans (congrArg _ (if_pos odd))

variable (even : (target (u.touchAll sh)).getLsbD 0 = false)
include even

theorem transferOp_of_not_canonical (far : canonical (target (u.touchAll sh)) = false) :
    transferOp sh link target s = .next (s.raise uid (u.touchAll sh) sh.len 0x12 (target (u.touchAll sh))) := by
  rw [transferOp_of_taken hc h0 ht]
  simp only [even, far, Bool.not_false, Bool.false_eq_true, if_true, if_false]

theorem transferOp_of_canonical (near : canonical (target (u.touchAll sh)) = true) :
    transferOp sh link target s = .next (s.setUnit uid { (u.touchAll sh).linked link with
      pc := (target (u.touchAll sh)).setWidth 57, step := (u.touchAll sh).step + 1 + sh.stall, wait := .none, lastIssue := s.tick }) := by
  rw [transferOp_of_taken hc h0 ht]
  simp only [even, near, Bool.not_true, Bool.false_eq_true, if_false, Unit.advance, Unit.linked_step]

end

/-- R103: an instruction that is the model's transfer has the five outcomes. -/
theorem transfer_of_exec {i : Instr} {sh : Shape} {link : Option Nat} {target : Unit → W64} (hlen : sh.len = 8)
    (h : ∀ s, exec i s = transferOp sh link target s) : Transfer i sh link target := by
  intro s uid u hc
  simp only [h, ← hlen]
  refine ⟨transferOp_of_false hc, transferOp_of_split hc, transferOp_of_odd hc, fun h0 ht even far => ?_, fun h0 ht even near => ?_⟩
  · exact transferOp_of_not_canonical hc h0 ht even (Bool.eq_false_iff.mpr (mt (canonical_iff _).mp far))
  · have taken := transferOp_of_canonical (link := link) hc h0 ht even ((canonical_iff _).mpr near)
    cases link <;> exact taken

/-- R105: a mask of one lane is guarded in whole or not at all. -/
theorem Unit.guarded_of_active_lane {u : Unit} {l : Nat} (h : u.active = 1#64 <<< l) (g : BitVec 4) : u.guarded g = 0 ∨ u.guarded g = u.active := by
  rw [Unit.guarded, h, ← BitVec.twoPow_eq, BitVec.twoPow_and]
  exact (ite_eq_or_eq _ _ _).symm

/-- Settles O28: the four words are the model's one transfer, each with its target and link register, and a fragment thread's guard is never split. -/
theorem conditionalTransfers : Obligations.ConditionalTransfers := fun _ _ =>
  ⟨transfer_of_exec rfl fun _ => rfl, transfer_of_exec rfl fun _ => rfl, transfer_of_exec rfl fun _ => rfl, transfer_of_exec rfl fun _ => rfl,
    fun _ _ _ => Unit.guarded_of_active_lane⟩

end Sys2Proof.Machine
end
